-- ==== Sys2Proof/Word.lean ====
section
/-! DEFINITION. The word types of the block: a register word has 32 bits and a byte has 8 (R474, R483). Everything
computed from them (bit fields, byte order, signed readings) stands in `Machine/Bits.lean`. -/

namespace Sys2Proof

/-- One 32-bit register word. -/
abbrev Word := BitVec 32

/-- One byte of a frame, a message or a memory. -/
abbrev Byte := BitVec 8

end Sys2Proof
end

