-- ==== Sys2Proof/Syntax.lean ====
section
/-! DEFINITION. The commands of the block: one constructor per row of spec/opcode_table.json, with the operands that the
row's event brings from outside the block (a register value written, a received field, a measured value, an outcome). -/

namespace Sys2Proof

/-- What the boot ROM finds at a reset release: the strap balls as TOP_STRAPS lays them out, whether the oscillator runs, the results of
its self-tests (its own contents, the working SRAM, the cipher engine's known-answer test), and the bytes of the flash from the offsets
of image slots A and B. -/
structure BootIn where
  straps : Nat
  xo : Bool
  romOk : Bool
  sramOk : Bool
  katOk : Bool
  flashA : List Byte
  flashB : List Byte
  deriving DecidableEq, Repr


/-- The payload of one frame of one lane: every slot carries `fill`, but for the slots listed (keys strictly rising). -/
structure Payload where
  fill : Byte
  cells : List (Nat × Byte)
  deriving DecidableEq, Repr

/-- A frame as an IN-FRAME lane receives it (Table 3.3): the FAW, the descrambled bytes of segment 0, the DCC-N, APS and MOB
bytes, the DCC-W bytes and the payload. (DESIGN CHOICE: log entry 16.) -/
structure RxFrame where
  faw : Nat
  mfi : Nat
  bip : Nat
  stat : Nat
  rei : Nat
  dccn : List Byte
  aps : List Byte
  mob : List Byte
  dccw : List Byte
  pay : Payload
  deriving DecidableEq, Repr



/-- A parity failure in a read of the core, a transmitter or an engine (R188). An output slot is lane × 2¹⁸ + slot. `fail`: the
replay fails too; otherwise it passes. (DEDUCED: log entry 37.) -/
inductive ParityFault where
  /-- the data-memory read made for output slot `out` (of its protection source with `prot`); `hit`: the failing byte is the
  source byte -/
  | dataMem (out : Nat) (prot fail hit : Bool)
  /-- the connection entry of an output slot -/
  | entry (out : Nat) (fail : Bool)
  /-- a selector, with its halves that hold a failing byte (bit 0 lower, bit 1 upper) -/
  | selector (idx : Nat) (fail : Bool) (halves : Nat)
  /-- the staging word that holds an output slot -/
  | staging (out : Nat) (fail : Bool)
  /-- the word of a lane's loopback store that holds a byte (R130) -/
  | loopback (out : Nat) (fail : Bool)
  /-- the scratchpad byte at an offset, read by an engine (R421) -/
  | spad (off : Nat) (fail : Bool)
  /-- the working SRAM byte at an offset (R421) -/
  | sram (off : Nat) (fail : Bool)
  /-- the byte at an offset of a core's local memory (R420) -/
  | coreMem (core off : Nat) (fail : Bool)
  /-- the LPDDR4X line of an index; `fail`: its second replay fails (R434) -/
  | ddr (line : Nat) (fail : Bool)
  /-- a word of the protection table, after its replay (R272) -/
  | prot (word : Nat)
  /-- the on-die copy of the commissioning record, after its replay (Table 2.3, CFG_MEM) -/
  | record
  /-- the word of the life record at an offset, which from now on reads back differently after each write of it and each retry (R467); it
  comes with a frame boundary -/
  | mram (off : Nat)
  deriving DecidableEq, Repr

/-- What a core did since its access before (R416 to R418): one RV32IMAC instruction that makes no access, at the core's own program
counter and on its own registers; or, for instructions that are not brought one by one, that some retired, that a control and status
register was written, that a trap was taken, MRET, or WFI. (DESIGN CHOICE: log entry 12.) -/
inductive CoreOp where
  | instr (w : Word)
  | retire (n : Nat)
  | csr (addr : Nat) (value : Word)
  | trap (cause : Nat) (epc tval : Word)
  | mret
  | wfi
  deriving DecidableEq, Repr

/-- What a core brings with an access: what it did since the one before, whether the access fetches an instruction, the address of
the instruction that makes it, and that instruction, where its effect on the core's registers is to be brought. A core that did WFI
last makes no access. For any other master it means nothing. (DESIGN CHOICE: log entry 12.) -/
structure CoreIn where
  ops : List CoreOp := []
  fetch : Bool := false
  pc : Word := 0
  instr : Option Word := none
  deriving DecidableEq, Repr

/-- What the debugger does with a core through its external debug access (R525): it halts a core or lets it run on, and writes a general
register, a control and status register or the program counter of a halted one. (DESIGN CHOICE: log entry 80.) -/
inductive DebugOp where
  | halt (n : Nat)
  | resume (n : Nat)
  | gpr (n r : Nat) (value : Word)
  | csr (n addr : Nat) (value : Word)
  | pc (n : Nat) (value : Word)
  deriving DecidableEq, Repr

/-- A ball, or a group of balls of one state, that the device drives or may drive (Table 18.7). (DESIGN CHOICE: log entry 80.) -/
inductive Ball where
  | laneTx (n : Nat)
  | pcieTx (n : Nat)
  | ddrResetN
  | ddrCke
  | hyTd
  | hyRa
  | xoOut
  | ospClk (k : Nat)
  | ospDo (k : Nat)
  | ospFs (k : Nat)
  | ppsOut
  | fsyncOut
  | clkOut
  | uartTx (u : Nat)
  | gpio (n : Nat)
  | i2c (i : Nat) (sda : Bool)
  | qspiClk
  | qspiCsN
  | qspiIo (k : Nat)
  | avsClk
  | avsMdata
  | tdo
  | majorN
  | minorN
  deriving DecidableEq, Repr

/-- How a ball is driven: low, high, not at all (released, high-impedance or an input), in electrical idle, held without transitions, or
following another ball. -/
inductive BallState where
  | low | high | released | idle | still
  | follows (b : String)
  deriving DecidableEq, Repr

/-- What came through the test port while its instruction before was current: what the boundary register was left with for the balls that
have a cell, and the debug accesses made. (DESIGN CHOICE: log entry 80.) -/
structure TapIn where
  cells : Option (List (Ball × BallState)) := none
  accesses : List DebugOp := []
  deriving DecidableEq, Repr

/-- The commands. -/
inductive Instr where
  /-- POWER_ON_RESET (R511) -/
  | powerOnReset
  /-- RESET_N_ASSERT (R45) -/
  | resetNAssert
  /-- RESET_RELEASE (R54) -/
  | resetRelease (b : BootIn)
  /-- HOST_BOOT_READY (R57) -/
  | hostBootReady
  /-- SOFTWARE_RESET (R45). the value written to TOP_RESET -/
  | softwareReset (value : Word)
  /-- TAP_INSTRUCTION_UPDATE (R525). the code, and what came through the port before it -/
  | tapInstructionUpdate (code : Nat) (t : TapIn)
  /-- TRST_ASSERT (R525) -/
  | trstAssert
  /-- PERST_ASSERT (R47) -/
  | perstAssert
  /-- CORE_RUN_WRITE (R45) -/
  | coreRunWrite (value : Word)
  /-- XO_LOST (R303) -/
  | xoLost
  /-- WDOG_KICK_BEGIN (R50). a write of TOP_WDOG_KICK by master `m` -/
  | wdogKickBegin (m : Nat)
  /-- WDOG_KICK_COMPLETE (R50) -/
  | wdogKickComplete (m : Nat)
  /-- WDOG_KICK_OTHER (R50) -/
  | wdogKickOther (m : Nat)
  /-- WDOG_CTL_WRITE (R49) -/
  | wdogCtlWrite (value : Word)
  /-- WATCHDOG_EXPIRY (R51) -/
  | watchdogExpiry (tick : Nat)
  /-- MODE_REQ_COMMISSION (R37) -/
  | modeReqCommission
  /-- MODE_REQ_SERVICE (R36) -/
  | modeReqService
  /-- MODE_REQ_MAINTENANCE (R40) -/
  | modeReqMaintenance
  /-- MODE_REQ_UNKNOWN (R35) -/
  | modeReqUnknown (req : Nat)
  /-- COMMISSION_SEAL_DONE (R62). none: the record was written and read back; otherwise the bytes that a failed write left at the start of the copy -/
  | commissionSealDone (left : Option (List Byte))
  /-- MODE_TRANSITION (R37) -/
  | modeTransition
  /-- SIGNAL_RISE (R101). `n` is the receive lane -/
  | signalRise (n : Nat)
  /-- SIGNAL_FALL (R112) -/
  | signalFall (n : Nat)
  /-- LOS_DECLARE (R112) -/
  | losDeclare (n : Nat)
  /-- LOS_CLEAR (R112) -/
  | losClear (n : Nat)
  /-- CDR_LOCK (R102) -/
  | cdrLock (n : Nat)
  /-- CDR_LOCK_LOSS (R102) -/
  | cdrLockLoss (n : Nat)
  /-- LOL_DECLARE (R112) -/
  | lolDeclare (n : Nat)
  /-- LOL_CLEAR (R112) -/
  | lolClear (n : Nat)
  /-- EQ_CONVERGE (R101). the eye openings measured, in mV and 1/128 UI -/
  | eqConverge (n eyeV eyeH : Nat)
  /-- EQ_RESTART (R101) -/
  | eqRestart (n : Nat)
  /-- TERM_LOOP_WRITE (R131) -/
  | termLoopWrite (n : Nat) (on : Bool)
  /-- FAW_CANDIDATE_MATCH (R104). the bit position, whether all 32 bits match, and the MFI byte and the errored-bit count of the check that this position completes -/
  | fawCandidateMatch (n pos : Nat) (exact : Bool) (mfi : Nat) (bip : Nat)
  /-- DECISION_WINDOW_CLOSE (R108). `phase`: the time from the arrival of the lane's frame start at the aligner to the next system frame boundary, 1/64 ns -/
  | decisionWindowClose (n : Nat) (phase : Nat)
  /-- FRAME_RECEIVE (R109). `ago`: the time since the frame's first FAW bit arrived at RXP/RXN, 1/64 ns; `missed`: the bytes, by ring and
  place in the channel, that the overhead engine cannot store in time (R146) -/
  | frameReceive (n : Nat) (f : RxFrame) (ago : Nat) (missed : List (Nat × Nat))
  /-- LOF_CLEAR (R112). the arrival of the lane's MFI-0 FAW, 1/64 ns modulo 4 ms -/
  | lofClear (n : Nat) (arr : Nat)
  /-- BOND_JOIN (R126) -/
  | bondJoin (n : Nat)
  /-- ERROR_WINDOW_END (R116). the EXC window, or with `deg` the DEG window -/
  | errorWindowEnd (n : Nat) (deg : Bool)
  /-- RATE_WRITE (R100) -/
  | rateWrite (n rate : Nat)
  /-- RATE_CHANGE (R100) -/
  | rateChange (n : Nat)
  /-- RX_ENABLE_WRITE (R103) -/
  | rxEnableWrite (n : Nat) (on : Bool)
  /-- BOND_REFORM_REQUEST (R128) -/
  | bondReformRequest (n : Nat)
  /-- BOND_REFORM (R128) -/
  | bondReform (b : Nat)
  /-- CNT_CLR_ALL (R132) -/
  | cntClrAll (page : Nat)
  /-- TX_SOURCE_CHANGE (R130) -/
  | txSourceChange (n : Nat)
  /-- FFE_WRITE (R517) -/
  | ffeWrite (n : Nat) (value : Word)
  /-- FRAME_BOUNDARY (R20). the wander of each receive lane's delay since the last boundary, 1/64 ns; the parity failures met by the reads of this frame; an output frame not complete: the first segment not yet written and the output slots missing before it; recorder reads that came late, by recorder lane; the acknowledge transitions that came on the Halyard link since the message before was sent -/
  | frameBoundary (wanders : List (Nat × Int)) (faults : List ParityFault) (overrun : Option (Nat × List Nat)) (late : List (Nat × Nat)) (hyAcks : Nat)
  /-- ASSEMBLY_DONE (R531). the assembly time in units of 10 ns -/
  | assemblyDone (ns10 : Nat)
  /-- MOB_RECEIVE (R147) -/
  | mobReceive (n tick : Nat)
  /-- UNIT_CONFLICT_END (R156) -/
  | unitConflictEnd (n tick : Nat)
  /-- FE_ACTIVE_EXPIRE (R154) -/
  | feActiveExpire (n : Nat)
  /-- MOB_SEAL_DECISION (R161). the two GHASH computations of the sealer differ -/
  | mobSealDecision (n tick : Nat) (mism : Bool)
  /-- APS_MESSAGE_RECEIVE (R162) -/
  | apsMessageReceive (n : Nat)
  /-- SEAL_TX_EFFECT (R157) -/
  | sealTxEffect (n : Nat)
  /-- SEAL_TAG_DEADLINE (R159). the two GHASH computations of the sealer differ -/
  | sealTagDeadline (n : Nat) (mism : Bool)
  /-- OSP_BLOCK (R141). the 128 bytes on OSP_DI_k -/
  | ospBlock (k : Nat) (di : List Byte)
  /-- RING_CFG_WRITE (R143) -/
  | ringCfgWrite (n i : Nat) (value : Word)
  /-- RING_PTR_WRITE (R146). the pointer that firmware owns: RD of rings 0 and 2, WR of rings 1 and 3 -/
  | ringPtrWrite (n i : Nat) (ptr : Nat)
  /-- TRACE_EXP_WRITE (R151) -/
  | traceExpWrite (n w : Nat) (value : Word)
  /-- STANDBY_WINDOW_WRITE (R201) -/
  | standbyWindowWrite (m addr size data : Nat)
  /-- CONN_WINDOW_READ (R193). size in bytes; the parts of the access (bit 0 the lower entry or half, bit 1 the upper) whose first read fails and whose replay passes, and those whose replay fails -/
  | connWindowRead (m addr size : Nat) (rep fail : Nat)
  /-- COPY_REQUEST (R202) -/
  | copyRequest
  /-- COPY_DONE (R202). the ACTIVE entries and selectors whose read fails after replay -/
  | copyDone (entries sels : List Nat)
  /-- SEAL_REQUEST (R203) -/
  | sealRequest
  /-- SEAL_VERDICT (R207). the reads of the scan that fail -/
  | sealVerdict (faults : List ParityFault)
  /-- SWAP_REQUEST (R209). `late`: the next frame boundary begins less than 2 µs after acceptance -/
  | swapRequest (agree strict sched : Bool) (late : Bool)
  /-- SWAP_CANCEL (R216) -/
  | swapCancel
  /-- AGREEMENT_CHECK (R218) -/
  | agreementCheck
  /-- SWAP_EXECUTE (R213) -/
  | swapExecute
  /-- INJECT_ARM (R195) -/
  | injectArm
  /-- BADLOG_CLEAR (R196) -/
  | badlogClear
  /-- LEDGER_CLAIM (R223) -/
  | ledgerClaim (acct amount : Nat)
  /-- LEDGER_RELEASE (R224) -/
  | ledgerRelease (acct amount : Nat)
  /-- MEASUREMENT_SCHEDULED (R229) -/
  | measurementScheduled
  /-- MEAS_NOW (R229) -/
  | measNow
  /-- SPEED_MEASUREMENT_END (R230). for each of the 48 rings the handshakes it completed in the window, those that the on-die table gives
  for the sensed voltage and temperature, and its temperature in °C -/
  | speedMeasurementEnd (rings : List (Nat × Nat × Int))
  /-- EVALUATION (R236). the rail voltage read at the first evaluation, in mV; the read fails with a bad CRC or without a response -/
  | evaluation (rail : Nat) (crcErr noResp : Bool)
  /-- TARGET_WRITE (R236) -/
  | targetWrite (target : Nat)
  /-- LIMIT_WRITE (R236) -/
  | limitWrite (limit : Nat)
  /-- AVS_STEP (R237). the rail voltage read back, in mV, and whether Status reports an alert -/
  | avsStep (readback : Nat) (alert : Bool)
  /-- AVS_STEP_RETRY (R237). how the attempt failed: a response with a bad CRC, or none -/
  | avsStepRetry (crcErr noResp : Bool)
  /-- PG_APPLY (R263). the writing master, LG and GROUP of PGS_CMD; the engine's read of the stored words fails after replay -/
  | pgApply (m : Nat) (lg : Bool) (g : Nat) (fail : Bool)
  /-- PG_LOCKOUT (R260) -/
  | pgLockout (m : Nat) (lg : Bool) (g : Nat)
  /-- PG_FORCED_SWITCH (R260) -/
  | pgForcedSwitch (m : Nat) (lg : Bool) (g : Nat)
  /-- PG_MANUAL_SWITCH (R260) -/
  | pgManualSwitch (m : Nat) (lg : Bool) (g : Nat)
  /-- PG_CLEAR (R260) -/
  | pgClear (m : Nat) (lg : Bool) (g : Nat)
  /-- PG_CMD_UNKNOWN (R260) -/
  | pgCmdUnknown (m : Nat) (op : Nat) (lg : Bool) (g : Nat)
  /-- PROT_TABLE_ACCESS (R245). size in bytes; `fail`: a word read fails parity after replay -/
  | protTableAccess (m addr size : Nat) (write : Bool) (data : Nat) (fail : Bool)
  /-- GROUP_EVALUATION (R269). `fail`: a read of the group fails after replay; `us`: the time observed, when this is the last group that an event queued -/
  | groupEvaluation (fail : Bool) (us : Option Nat)
  /-- HOLDOFF_EXPIRY (R255). group key (lane group j is 65,536 + j) and condition: 0 W_SF, 1 W_SD, 2 P_SF, 3 P_SD -/
  | holdoffExpiry (k i : Nat)
  /-- WTR_EXPIRY (R258) -/
  | wtrExpiry (k : Nat)
  /-- FE_LOST_EXPIRY (R266) -/
  | feLostExpiry (k : Nat)
  /-- FE_MISM_EXPIRY (R266) -/
  | feMismExpiry (k : Nat)
  /-- LG_BRIDGE_EFFECT (R250) -/
  | lgBridgeEffect (j : Nat)
  /-- CFG_TABLE_LOAD (R277) -/
  | cfgTableLoad (page : Nat)
  /-- CFG_TABLE_STORE (R278) -/
  | cfgTableStore (page : Nat)
  /-- CFG_TABLE_OP_UNKNOWN (R277) -/
  | cfgTableOpUnknown (page op : Nat)
  /-- CFG_ENTRY_EFFECT (R277) -/
  | cfgEntryEffect (page idx : Nat)
  /-- RL_FREEZE_NOW (R289) -/
  | rlFreezeNow (r : Nat)
  /-- RL_ARM (R288) -/
  | rlArm (r : Nat)
  /-- TRIG_IN_EDGE (R289) -/
  | trigInEdge
  /-- RL_TRIGGER_TAKEN (R288) -/
  | rlTriggerTaken (r : Nat)
  /-- RL_POST_END (R288) -/
  | rlPostEnd (r : Nat)
  /-- PL_SNAPSHOT_REQUEST (R294) -/
  | plSnapshotRequest (p : Nat) (clr : Bool)
  /-- PL_SNAPSHOT_TAKE (R294) -/
  | plSnapshotTake (p : Nat)
  /-- PL_ERROR_INJECT (R295) -/
  | plErrorInject (p g : Nat)
  /-- MEASUREMENT_SECOND_END (R306). for each of the eight candidates its phases in ns against the oscillator at evenly spaced instants of the second (for 1PPS, at the edge before it and at its own), none when an absence condition held at some moment of it; the offset of the mate phase; the output's offset (0.1 ppb) and its position against an edge of the selected reference (ns) -/
  | measurementSecondEnd (cands : List (Option (List Int))) (mate : Option Int) (freq phase : Int)
  /-- CANDIDATE_WTR_EXPIRY (R309) -/
  | candidateWtrExpiry (k : Nat)
  /-- CANDIDATE_ABSENT (R305) -/
  | candidateAbsent (k : Nat)
  /-- ACQUIRE_DONE (R314) -/
  | acquireDone
  /-- PULL_DONE (R314) -/
  | pullDone
  /-- PHASE_STEP (R317). the output's position against an edge of the selected reference (ns) -/
  | phaseStep (phase : Int)
  /-- TBS_STEP (R333). domain B with `isB`; the tick of the frame at which the command acts -/
  | tbsStep (isB : Bool) (tick : Nat)
  /-- TBS_ARM (R334) -/
  | tbsArm (isB : Bool)
  /-- INC_WRITE (R330) -/
  | incWrite (isB : Bool) (frac : Word) (tick : Nat)
  /-- SLEW_WRITE (R336) -/
  | slewWrite (isB : Bool) (lo : Word) (tick : Nat)
  /-- SUSPECT_CLEAR (R338) -/
  | suspectClear (isB : Bool) (tick : Nat)
  /-- SLEW_END (R337) -/
  | slewEnd (isB : Bool) (tick : Nat)
  /-- OFFSET_REDUCED (R341) -/
  | offsetReduced (tick : Nat)
  /-- SEL_GO (R340) -/
  | selGo (isB : Bool) (tick : Nat)
  /-- DOMAIN_VALID_WRITE (R338) -/
  | domainValidWrite (isB on : Bool) (tick : Nat)
  /-- CAPTURE_READ (R332). the capturing register, as page × 0x1000 + offset -/
  | captureRead (m addr tick : Nat)
  /-- TXQ_POP (R351) -/
  | txqPop (m q : Nat)
  /-- TXQ_PUSH (R350) -/
  | txqPush
  /-- PPS_IN_EDGE (R353) -/
  | ppsInEdge (tick : Nat)
  /-- PPS_OUT_EDGE (R354) -/
  | ppsOutEdge (tick : Nat)
  /-- PPS_OUT_FALL (R354) -/
  | ppsOutFall
  /-- COMPARE_ARM (R355). the value written to TBS_CMP_CTL_k -/
  | compareArm (k : Nat) (value : Word) (tick : Nat)
  /-- COMPARE_FIRE (R355) -/
  | compareFire (k tick : Nat)
  /-- FRAME_CONVERSION (R356) -/
  | frameConversion (lo : Word)
  /-- MFS_SELECT (R346) -/
  | mfsSelect (m lane : Nat)
  /-- PENNANT_RECEIVE (R366). the symbols received, `none` for a code violation; the arrival of the message that they complete, measured from the unit's nearest pennant boundary, 1/64 ns -/
  | pennantReceive (syms : List (Option Nat)) (phase : Int) (tick : Nat)
  /-- PENNANT_MISSED (R368) -/
  | pennantMissed (tick : Nat)
  /-- ROLE_EVALUATION (R370) -/
  | roleEvaluation
  /-- ROLE_CHANGE (R369) -/
  | roleChange
  /-- PARTING_DECISION (R374) -/
  | partingDecision
  /-- PARTED_VERDICT (R375) -/
  | partedVerdict
  /-- BYE_TAKE_ACTIVE (R376) -/
  | byeTakeActive
  /-- ECHO_RECORD_EXPIRE (R377) -/
  | echoRecordExpire (n tick : Nat)
  /-- REVERT_WTR_EXPIRY (R380) -/
  | revertWtrExpiry (tick : Nat)
  /-- HANDOVER_COMMIT (R381) -/
  | handoverCommit
  /-- HANDOVER_RELEASE (R381) -/
  | handoverRelease
  /-- HANDOVER_TAKE (R381) -/
  | handoverTake
  /-- HANDOVER_RETRY (R380) -/
  | handoverRetry (tick : Nat)
  /-- LATCH_ACQUIRE (R390). a read of CIP_LATCH by master `m`, at a tick of the frame -/
  | latchAcquire (m tick : Nat)
  /-- LATCH_RELEASE (R391). `done`: the data bytes that a running segment has written -/
  | latchRelease (m tick : Nat) (done : Nat)
  /-- LEASE_EXPIRY (R392) -/
  | leaseExpiry (tick : Nat) (done : Nat)
  /-- SLR_JOBS_DONE (R393, R404). the jobs done before one whose inverse check failed -/
  | slrJobsDone (tick : Nat) (mismatch : Option Nat)
  /-- JOB_ENC (R385). a write of CIP_JOB_GO by master `m` -/
  | jobEnc (m : Nat)
  /-- JOB_DEC (R402) -/
  | jobDec (m : Nat)
  /-- JOB_GEN (R385) -/
  | jobGen (m : Nat)
  /-- JOB_VER (R385) -/
  | jobVer (m : Nat)
  /-- JOB_OP_INVALID (R385) -/
  | jobOpInvalid (m : Nat)
  /-- JOB_SEGMENT_END (R403). parity failures met in memory, and the data bytes finished before a mismatch of R404 -/
  | jobSegmentEnd (faults : List ParityFault) (mismatch : Option Nat)
  /-- KEY_LOAD (R396). the value written to CIP_KEY_CTL -/
  | keyLoad (m : Nat) (value : Word)
  /-- KEY_ZEROISE (R398) -/
  | keyZeroise (m : Nat) (done : Nat)
  /-- SLOT_POLICY_WRITE (R395) -/
  | slotPolicyWrite (i : Nat) (value : Word)
  /-- SEAL_KEY_EFFECT (R411) -/
  | sealKeyEffect (n : Nat)
  /-- PREV_KEY_EXPIRE (R411) -/
  | prevKeyExpire (n : Nat)
  /-- ENGINE_RESET (R405). the value written to CIP_RESET -/
  | engineReset (m : Nat) (value : Word) (done : Nat)
  /-- KAT_DONE (R405) -/
  | katDone (pass : Bool)
  /-- CORE_TIMER_INTERRUPT (R419) -/
  | coreTimerInterrupt (n tick : Nat)
  /-- DEFAULT_TARGET_ACCESS (R25). an access of master `m` of `size` bytes, and the parity failures that it meets -/
  | defaultTargetAccess (m addr size : Nat) (write : Bool) (data tick : Nat) (faults : List ParityFault) (core : CoreIn)
  /-- DMA_STARVE (R426). the wait in µs -/
  | dmaStarve (m bank wait tick : Nat)
  /-- CASE_CFG_WRITE (R427) -/
  | caseCfgWrite (w : Nat) (value : Word)
  /-- DMA_GO (R430) -/
  | dmaGo (m k : Nat)
  /-- DMA_ABORT (R431). the bytes written when the copy ends -/
  | dmaAbort (k done : Nat) (faults : List ParityFault)
  /-- DMA_END (R431). parity failures met by the copy -/
  | dmaEnd (k : Nat) (faults : List ParityFault)
  /-- MEM_READY (R432). the density found: 1 is 4 GB, 2 is 8 GB, any other value another capacity -/
  | memReady (cap : Nat)
  /-- MR4_UPDATE (R432) -/
  | mr4Update (rate : Nat)
  /-- MBX_SEND (R439) -/
  | mbxSend (m c : Nat)
  /-- MBX_TAKE (R439) -/
  | mbxTake (m c : Nat)
  /-- MBX_CLR_ACK (R439) -/
  | mbxClrAck (m c : Nat)
  /-- MBX_DATA_WRITE (R438) -/
  | mbxDataWrite (m c w : Nat) (value : Word)
  /-- DT_CLEAR (R429) -/
  | dtClear
  /-- PM_SECOND_END (R448). the tick of the frame at which S reaches a whole second -/
  | pmSecondEnd (tick : Nat)
  /-- PM_SECOND_COMMIT (R450) -/
  | pmSecondCommit
  /-- PM_BIN_END (R451). the tick of the frame at which S reaches the end of a bin -/
  | pmBinEnd (tick : Nat)
  /-- SWITCH_BIN_COPY (R454) -/
  | switchBinCopy (faults : List ParityFault)
  /-- PMC_WRITE (R456). global counter k, or core counter j of Cn at 64 + 8 n + j; `hit`: a count falls in the same handshake -/
  | pmcWrite (k : Nat) (lo : Word) (hit : Bool)
  /-- PMC_FREEZE (R457) -/
  | pmcFreeze (on : Bool)
  /-- PMC_OVERFLOW (R456) -/
  | pmcOverflow (k : Nat)
  /-- NOTIFY_RING_WRITE (R463) -/
  | notifyRingWrite
  /-- LOUVRE_TOKEN (R461) -/
  | louvreToken (page evBit : Nat)
  /-- LOG_DRAIN (R464). the write returns an error -/
  | logDrain (err : Bool)
  /-- SWITCH_RECORD_FORM (R465) -/
  | switchRecordForm (faults : List ParityFault)
  /-- SUMMARY_RECORD (R465) -/
  | summaryRecord (lane : Nat)
  /-- NOTIFY_RD_WRITE (R463) -/
  | notifyRdWrite (ptr : Nat)
  /-- EVT_RING_CFG_WRITE (R463) -/
  | evtRingCfgWrite (value : Word)
  /-- EVT_EN_WRITE (R461) -/
  | evtEnWrite (page : Nat) (value : Word)
  /-- LOUVRE_CFG_WRITE (R461) -/
  | louvreCfgWrite (value : Word)
  /-- MSIX_REARM (R466) -/
  | msixRearm (lo hi : Word)
  /-- HDR_EVT_CLEAR (R12). `recur`: the events that recur in the same handshake -/
  | hdrEvtClear (page : Nat) (mask : Word) (recur : Word)
  /-- MSIX_PENDING_SEND (R490) -/
  | msixPendingSend (v : Nat)
  /-- LIF_DATA_WRITE (R468). how many of the write and its retry read back differently -/
  | lifDataWrite (m : Nat) (value : Word) (misses : Nat)
  /-- LIF_DATA_READ (R468) -/
  | lifDataRead (m : Nat)
  /-- LIFE_CHECKPOINT (R468). the offsets of words that mismatch a second time -/
  | lifeCheckpoint (fails : List Nat)
  /-- FAULT_RECORD_GO (R470) -/
  | faultRecordGo (m : Nat)
  /-- FAULT_RECORD_DONE (R470). the offsets of words that mismatch a second time -/
  | faultRecordDone (fails : List Nat)
  /-- LINK_EN_WRITE (R485) -/
  | linkEnWrite (on : Bool)
  /-- LINK_UP (R485). as HST_STAT codes them -/
  | linkUp (speed width : Nat)
  /-- LINK_DOWN (R492) -/
  | linkDown
  /-- HOST_READ_REQUEST (R488). BAR number, offset of the first byte and the byte enables from there; `unsup`: a locked request or an I/O request -/
  | hostReadRequest (bar off : Nat) (be : List Bool) (unsup : Bool) (tick : Nat) (faults : List ParityFault)
  /-- HOST_WRITE_REQUEST (R487) -/
  | hostWriteRequest (bar off : Nat) (be : List Bool) (data : List Byte) (unsup : Bool) (tick : Nat) (faults : List ParityFault)
  /-- POWER_STATE_CHANGE (R491) -/
  | powerStateChange (d3 : Bool)
  /-- REGISTER_WRITE (R482). page × 0x1000 + offset -/
  | registerWrite (m addr : Nat) (value : Word) (tick : Nat)
  /-- UART_DATA_WRITE (R493) -/
  | uartDataWrite (u : Nat) (byte : Byte)
  /-- UART_DATA_READ (R493) -/
  | uartDataRead (u : Nat)
  /-- UART_BYTE_RECEIVE (R493) -/
  | uartByteReceive (u : Nat) (byte : Byte) (ferr perr : Bool)
  /-- I2C_GO (R494) -/
  | i2cGo (i : Nat) (value : Word)
  /-- I2C_DONE (R494). the bytes read -/
  | i2cDone (i result acked : Nat) (data : List Byte)
  /-- QSPI_GO (R495) -/
  | qspiGo (value : Word)
  /-- QSPI_DONE (R495). the bytes received -/
  | qspiDone (data : List Byte)
  /-- GPIO_CHANGE (R496) -/
  | gpioChange (n : Nat) (high : Bool)
  /-- PERST_DEASSERT (R485) -/
  | perstDeassert
  /-- UART_BYTE_TRANSMIT (R493) -/
  | uartByteTransmit (u : Nat)
  /-- CONFIG_WRITE_REQUEST (R490). the dwords written to the base address registers and
  to the error status, by offset -/
  | configWriteRequest (msixEn fnMask bme mse : Bool) (bars : List (Nat × Word))
  /-- STARVATION_WINDOW_LAPSE (R426) -/
  | starvationWindowLapse (tick : Nat)
  deriving DecidableEq, Repr

end Sys2Proof
end

