-- ==== Sys2Proof/Decode.lean ====
section
/-! DEFINITION. Words of commands. The opcode table gives no row any bits: a command is an event at the block's boundary, and no word
spells one. -/

namespace Sys2Proof

/-- The command that a word of the opcode table's bits spells: none. (DESIGN CHOICE: log entry 2.) -/
def decodeTableWord (_nbits _w : Nat) : Option Instr := none

end Sys2Proof
end

