-- ==== Sys2Proof/Machine/Tbl.lean ====
section
/-! DEFINITION. Sparse tables: a list of (key, value) pairs with strictly rising keys. `tput` stores a value, `tdel`
removes one, and `tputD` keeps the canonical form of a table with a default: it lists no key whose value is the default. -/

namespace Sys2Proof.Machine

/-- A sparse table: pairs of a key and a value, keys strictly rising. -/
abbrev Tbl (α : Type) := List (Nat × α)

/-- The value stored under a key, or `none`. -/
def tfind {α : Type} : Tbl α → Nat → Option α
  | [], _ => none
  | (k, v) :: t, a => if a = k then some v else if a < k then none else tfind t a

/-- The value stored under a key, or the default. (DESIGN CHOICE: log entry 3.) -/
def tget {α : Type} (t : Tbl α) (a : Nat) (d : α) : α := (tfind t a).getD d

/-- Store a value under a key, keeping the keys rising. -/
def tput {α : Type} : Tbl α → Nat → α → Tbl α
  | [], a, v => [(a, v)]
  | (k, w) :: t, a, v => if a < k then (a, v) :: (k, w) :: t else if a = k then (a, v) :: t else (k, w) :: tput t a v

/-- Remove a key. -/
def tdel {α : Type} : Tbl α → Nat → Tbl α
  | [], _ => []
  | (k, w) :: t, a => if a < k then (k, w) :: t else if a = k then t else (k, w) :: tdel t a

/-- Store a value in a table whose unlisted keys read as `d`: storing `d` removes the entry. -/
def tputD {α : Type} [DecidableEq α] (t : Tbl α) (a : Nat) (v d : α) : Tbl α := if v = d then tdel t a else tput t a v

/-- Change the value under a key. -/
def tmod {α : Type} (t : Tbl α) (a : Nat) (d : α) (f : α → α) : Tbl α := tput t a (f (tget t a d))

/-- Keys strictly rising, all above `lo`. -/
def twfFrom {α : Type} : Option Nat → Tbl α → Bool
  | _, [] => true
  | none, (k, _) :: t => twfFrom (some k) t
  | some b, (k, _) :: t => decide (b < k) && twfFrom (some k) t

/-- The canonical form of a table with default `d`: keys strictly rising and no entry equal to the default. -/
def twf {α : Type} [DecidableEq α] (t : Tbl α) (d : α) : Bool := twfFrom none t && t.all (fun p => decide (p.2 ≠ d))

/-- Element `i` of a list, or a default. -/
def lget {α : Type} (l : List α) (i : Nat) (d : α) : α := (l[i]?).getD d

/-- Keep the last `n` elements of a list. -/
def lastN {α : Type} (n : Nat) (l : List α) : List α := l.drop (l.length - n)

end Sys2Proof.Machine
end

