-- ==== Sys2Proof/Machine/Bits.lean ====
section
/-! DEFINITION. Bit fields, signed readings and byte orders (R5, R483). -/

namespace Sys2Proof.Machine

/-- Bits `[hi:lo]` of a number (R5). -/
def bits (w hi lo : Nat) : Nat := (w >>> lo) % 2 ^ (hi + 1 - lo)

/-- Bit `i` of a number. -/
def bit (w i : Nat) : Bool := Nat.testBit w i

/-- A number whose bits `[hi:lo]` are replaced. -/
def putBits (w hi lo v : Nat) : Nat :=
  w - (bits w hi lo) <<< lo + (v % 2 ^ (hi + 1 - lo)) <<< lo

/-- Bit `i` set or cleared. -/
def putBit (w i : Nat) (b : Bool) : Nat := putBits w i i b.toNat

/-- `true` as 1 and `false` as 0. -/
def b2n (b : Bool) : Nat := if b then 1 else 0

/-- A field of a 32-bit register word. -/
def wGet (w : Word) (hi lo : Nat) : Nat := bits w.toNat hi lo

/-- A register word with a field replaced. -/
def wPut (w : Word) (hi lo v : Nat) : Word := BitVec.ofNat 32 (putBits w.toNat hi lo v)

/-- The two's-complement value of an `n`-bit number. -/
def sgn (n v : Nat) : Int := if v % 2 ^ n < 2 ^ (n - 1) then (v % 2 ^ n : Int) else (v % 2 ^ n : Int) - 2 ^ n

/-- The `n`-bit two's-complement code of an integer. -/
def unsgn (n : Nat) (z : Int) : Nat := (z % (2 ^ n : Int)).toNat

/-- The signed difference of two `n`-bit counters, `a − b`. -/
def sdiff (n a b : Nat) : Int := sgn n (a + 2 ^ n - b % 2 ^ n)

/-- An integer held within a range. -/
def clampI (lo hi z : Int) : Int := if z < lo then lo else if hi < z then hi else z

/-- A count that saturates at the greatest value of `n` bits. -/
def satAdd (n a b : Nat) : Nat := min (2 ^ n - 1) (a + b)

/-- `n` bytes, most significant first (R5). -/
def beBytes : Nat → Nat → List Byte
  | 0, _ => []
  | n + 1, v => BitVec.ofNat 8 (v / 2 ^ (8 * n)) :: beBytes n v

/-- The number that bytes spell, most significant first. -/
def beNat (l : List Byte) : Nat := l.foldl (fun a b => a * 256 + b.toNat) 0

/-- `n` bytes, least significant first (R483). -/
def leBytes : Nat → Nat → List Byte
  | 0, _ => []
  | n + 1, v => BitVec.ofNat 8 v :: leBytes n (v / 256)

/-- The number that bytes spell, least significant first. -/
def leNat : List Byte → Nat
  | [] => 0
  | b :: t => b.toNat + 256 * leNat t

/-- Bytes `[a, a + n)` of a byte list; a byte that is not there reads 0. -/
def slice (l : List Byte) (a n : Nat) : List Byte := (l.drop a).take n ++ List.replicate (n - (l.drop a).length) 0

/-- The big-endian number at bytes `[a, a + n)`. -/
def beAt (l : List Byte) (a n : Nat) : Nat := beNat (slice l a n)

/-- A list of bytes with the bytes from `a` replaced. -/
def putBytes (l : List Byte) (a : Nat) (v : List Byte) : List Byte := l.take a ++ v ++ l.drop (a + v.length)

/-- The indices below `n` whose bit is set. -/
def setBits (n w : Nat) : List Nat := (List.range n).filter (fun i => bit w i)

/-- The number of set bits below `n`. -/
def popCount (n w : Nat) : Nat := (setBits n w).length

/-- A mask from a predicate on bit numbers below `n`. -/
def maskOf (n : Nat) (p : Nat → Bool) : Nat := (List.range n).foldl (fun a i => a + b2n (p i) * 2 ^ i) 0

/-- An integer put into a list in increasing order. -/
def insertInt (z : Int) : List Int → List Int
  | [] => [z]
  | x :: l => if z ≤ x then z :: x :: l else x :: insertInt z l

/-- Integers in increasing order. -/
def sortInt (l : List Int) : List Int := l.foldr insertInt []

end Sys2Proof.Machine
end

