-- ==== Sys2Proof/Machine/Frame.lean ====
section
/-! DEFINITION. The lane frame (The Lane Frame, R67 to R98): its shape, the scrambler, the parities, the MOB and the APS
message. -/

namespace Sys2Proof.Machine

/-! ### Shape (R67 to R70). A rate is 0 for 10.24 GBd and 1 for 2.56 GBd. -/

/-- Bytes of a segment (Table 3.1). -/
def segLen (rate : Nat) : Nat := if rate = 0 then 1280 else 320

/-- Payload bytes of a segment (Table 3.1). -/
def segPay (rate : Nat) : Nat := if rate = 0 then 1272 else 312

/-- Payload slots of a frame (Table 3.1). -/
def slotsOf (rate : Nat) : Nat := if rate = 0 then 159000 else 39000

/-- Bytes of a frame (Table 3.1). -/
def frameBytes (rate : Nat) : Nat := if rate = 0 then 160000 else 40000

/-- The byte time, in 1/128 ns: 0.78125 ns or 3.125 ns (Table 3.1). -/
def byteTime128 (rate : Nat) : Nat := if rate = 0 then 100 else 400

/-- The segment of a slot (R69). -/
def slotSegment (rate s : Nat) : Nat := s / segPay rate

/-- The frame byte index of a slot (R69). -/
def slotIndex (rate s : Nat) : Nat := s / segPay rate * segLen rate + 8 + s % segPay rate

/-- The offset of a frame byte from the start of its frame, in 1/128 ns (R69). -/
def byteOffset128 (rate i : Nat) : Nat := i * byteTime128 rate

/-- The frame alignment word (R73). -/
def fawWord : Nat := 0x1F4EB2C5

/-- Frame byte index of DCC-N byte `k` (R81). -/
def dccnIndex (rate k : Nat) : Nat := (1 + k / 8) * segLen rate + k % 8

/-- Frame byte index of DCC-W byte `k` (R81). -/
def dccwIndex (rate k : Nat) : Nat := (26 + k / 8) * segLen rate + k % 8

/-! ### The payload -/

/-- The byte of a slot. -/
def payByte (p : Payload) (s : Nat) : Byte := tget p.cells s p.fill

/-- A payload whose every slot carries one byte. -/
def payFill (b : Byte) : Payload := ⟨b, []⟩

/-- A payload with a slot's byte replaced, in canonical form. -/
def payPut (p : Payload) (s : Nat) (b : Byte) : Payload := { p with cells := tputD p.cells s b p.fill }

/-- The listed slots are canonical: strictly rising and none equal to the fill byte. -/
def payWf (p : Payload) : Bool := twf p.cells p.fill

/-! ### Scrambler and parity (R78, R79) -/

/-- One byte of keystream from the scrambler's register (bit `i` is state[i + 1]): its top 8 bits, in order of sending. -/
def ksByte (st : Nat) : Nat := st >>> 15

/-- The register after 8 bits: the feeds of the 8 bits are state[18] + state[23] of each shifted register (R78). -/
def ksNext (st : Nat) : Nat := (st * 256) % 2 ^ 23 + ((st >>> 10) ^^^ (st >>> 15)) % 256

/-- The register at the first bit after the FAW (R78). -/
def ksInit : Nat := 2 ^ 23 - 1

/-- The exclusive-or of `n` keystream bytes: register and parity. (DESIGN CHOICE: log entry 16.) -/
def ksRun : Nat → Nat × Nat → Nat × Nat
  | 0, p => p
  | n + 1, p => ksRun n (ksNext p.1, p.2 ^^^ ksByte p.1)

/-- `m` runs of `n` keystream bytes. -/
def ksRuns (n : Nat) : Nat → Nat × Nat → Nat × Nat
  | 0, p => p
  | m + 1, p => ksRuns n m (ksRun n p)

/-- The exclusive-or of every keystream byte of a frame (R78): a frame's parity on the line is its parity before
scrambling, combined with this. -/
def ksParity (rate : Nat) : Nat :=
  if rate = 0 then (ksRuns 1280 124 (ksRun 1276 (ksInit, 0))).2 else (ksRuns 320 124 (ksRun 316 (ksInit, 0))).2

/-- The register after `n` keystream bytes. -/
def ksAfter : Nat → Nat → Nat
  | 0, st => st
  | n + 1, st => ksAfter n (ksNext st)

/-- The keystream byte added to frame byte `i`: none is added to the FAW (R73, R78). -/
def ksAt (i : Nat) : Byte := if i < 4 then 0 else BitVec.ofNat 8 (ksByte (ksAfter (i - 4) ksInit))

/-- Byte `i` of a frame before scrambling (R69, R81, Tables 3.3 and 3.4). -/
def frameByte (rate : Nat) (f : RxFrame) (i : Nat) : Byte :=
  let g := i / segLen rate
  let k := i % segLen rate
  if 8 ≤ k then payByte f.pay (g * segPay rate + (k - 8))
  else if g = 0 then lget (beBytes 4 f.faw ++ [BitVec.ofNat 8 f.mfi, BitVec.ofNat 8 f.bip, BitVec.ofNat 8 f.stat, BitVec.ofNat 8 f.rei]) k 0
  else if g ≤ 16 then lget f.dccn (8 * (g - 1) + k) 0
  else if g ≤ 24 then lget f.aps (8 * (g - 17) + k) 0
  else if g = 25 then lget f.mob k 0
  else lget f.dccw (8 * (g - 26) + k) 0

/-- Byte `i` of a frame as it is on the line: scrambled (R78). The receiver removes the keystream by the same addition. (DESIGN CHOICE: log entry 16.) -/
def lineByte (rate : Nat) (f : RxFrame) (i : Nat) : Byte := frameByte rate f i ^^^ ksAt i

/-- Bytes of keystream from a register. (DESIGN CHOICE: log entry 16.) -/
def ksList : Nat → Nat → List Byte
  | 0, _ => []
  | n + 1, st => BitVec.ofNat 8 (ksByte st) :: ksList n (ksNext st)

/-- The bytes of a frame as they are on the line (R73, R78). -/
def lineBytes (rate : Nat) (f : RxFrame) : List Byte :=
  List.zipWith (· ^^^ ·) ((List.range (frameBytes rate)).map (frameByte rate f)) ([0, 0, 0, 0] ++ ksList (frameBytes rate - 4) ksInit)

/-- Bytes read `r` bits further on. -/
def shiftBits (r : Nat) (l : List Byte) : List Byte := List.zipWith (fun (a b : Byte) => a <<< r ||| b >>> (8 - r)) l l.tail

/-- The frame that bytes received from the line carry, with the keystream removed (R78). (DESIGN CHOICE: log entry 16.) -/
def frameOfLine (rate : Nat) (line : List Byte) : RxFrame :=
  let at_ (i : Nat) : Byte := lget line i 0 ^^^ ksAt i
  let soh (g n : Nat) : List Byte := (List.range n).map fun k => at_ ((g + k / 8) * segLen rate + k % 8)
  { faw := beNat (soh 0 4), mfi := (at_ 4).toNat, bip := (at_ 5).toNat, stat := (at_ 6).toNat, rei := (at_ 7).toNat
    dccn := soh 1 128, aps := soh 17 64, mob := soh 25 8, dccw := soh 26 792
    pay := ⟨0, (List.range (slotsOf rate)).filterMap fun s =>
      if at_ (slotIndex rate s) = 0 then none else some (s, at_ (slotIndex rate s))⟩ }

/-- The exclusive-or of bytes. -/
def xorBytes (l : List Byte) : Nat := l.foldl (fun a b => a ^^^ b.toNat) 0

/-- The exclusive-or of the bytes of a payload. -/
def payXor (rate : Nat) (p : Payload) : Nat :=
  let cs := p.cells.filter (fun q => decide (q.1 < slotsOf rate))
  (if (slotsOf rate - cs.length) % 2 = 1 then p.fill.toNat else 0) ^^^ xorBytes (cs.map Prod.snd)

/-- The BIP-8 of a received frame: the exclusive-or of its bytes on the line (R79), from its descrambled content. (DESIGN CHOICE: log entry 16.) -/
def lineXor (rate : Nat) (f : RxFrame) : Nat :=
  xorBytes (beBytes 4 f.faw) ^^^ f.mfi ^^^ f.bip ^^^ f.stat ^^^ f.rei ^^^ xorBytes f.dccn ^^^ xorBytes f.aps ^^^
    xorBytes f.mob ^^^ xorBytes f.dccw ^^^ payXor rate f.pay ^^^ ksParity rate

/-- What a hunting lane finds at bit `pos` of a frame sent after another: whether the FAW matches, the MFI byte relative to that position, and
the errored bits of the BIP-8 check of the frame that ends there (R79, R104). (DESIGN CHOICE: log entry 16.) -/
def fawCheck (rate pos : Nat) (before f : RxFrame) : Bool × Nat × Nat :=
  let l := frameBytes rate
  let s := shiftBits (pos % 8) ((lineBytes rate before ++ lineBytes rate f).drop (pos / 8))
  (decide (beNat (slice s l 4) = fawWord), (lget s (l + 4) 0 ^^^ ksAt 4).toNat,
    popCount 8 (xorBytes (s.take l) ^^^ (lget s (l + 5) 0 ^^^ ksAt 5).toNat))

/-- The parity on the line of a lane AIS frame: FAW and MFI as sent, every other byte 0xFF (R80). -/
def aisXor (rate mfi : Nat) : Nat :=
  xorBytes (beBytes 4 fawWord) ^^^ mfi ^^^ (if (frameBytes rate - 5) % 2 = 1 then 0xFF else 0) ^^^ ksParity rate

/-! ### CRCs (R90, R97) -/

/-- One bit step of a CRC of `n` bits. -/
def crcBit (n poly r : Nat) (inBit : Nat) : Nat :=
  let top := (r >>> (n - 1)) % 2
  let r' := (r * 2) % 2 ^ n
  if (top + inBit) % 2 = 1 then r' ^^^ poly else r'

/-- One byte of a CRC, most significant bit first. -/
def crcByte (n poly r b : Nat) : Nat :=
  [7, 6, 5, 4, 3, 2, 1, 0].foldl (fun r i => crcBit n poly r ((b >>> i) % 2)) r

/-- CRC-32 of R90, over bytes. -/
def crc32 (l : List Byte) : Nat :=
  (l.foldl (fun r b => crcByte 32 0x04C11DB7 r b.toNat) 0xFFFFFFFF) ^^^ 0xFFFFFFFF

/-- CRC-8 of R97, over bytes. -/
def crc8 (l : List Byte) : Nat := l.foldl (fun r b => crcByte 8 0x07 r b.toNat) 0xFF

/-! ### The APS message (R94 to R98) -/

/-- An APS message (Table 3.12). -/
structure ApsMsg where
  pg : Nat
  req : Nat
  br : Bool
  sel : Bool
  deriving DecidableEq, Repr

/-- The request codes of Table 3.13 that are defined (R95). -/
def reqDefined (r : Nat) : Bool := [0xF, 0xE, 0xD, 0xB, 0x9, 0x7, 0x5, 0x2, 0x1, 0x0].contains r

/-- The 8 bytes of a message with a sequence number (Table 3.12, R97). -/
def apsEncode (m : ApsMsg) (seq : Nat) : List Byte :=
  let h := beBytes 2 m.pg ++ [BitVec.ofNat 8 (m.req * 16 + b2n m.br * 8 + b2n m.sel * 4), 0] ++ beBytes 2 seq ++ [0]
  h ++ [BitVec.ofNat 8 (crc8 h)]

/-- Filler: all 8 bytes zero (R94). -/
def apsFiller (b : List Byte) : Bool := b.all (· == 0)

/-- A received non-filler message, or `none` when it is malformed (R98). -/
def apsDecode (b : List Byte) : Option ApsMsg :=
  let f := beAt b 2 1
  if b.length = 8 ∧ crc8 (b.take 7) = beAt b 7 1 ∧ reqDefined (f / 16) ∧ f % 4 = 0 ∧ beAt b 3 1 = 0 ∧ beAt b 6 1 = 0
  then some ⟨beAt b 0 2, f / 16, bit f 3, bit f 2⟩ else none

/-! ### The MOB (R82 to R90) -/

/-- The content of a MOB before its seal fields and its CRC (Table 3.7). -/
structure Mob where
  trace : List Byte
  devid : Nat
  active : Bool
  role : Nat
  pairId : Nat
  pennant : Nat
  echoId : Nat
  echoCount : Nat
  echoValid : Bool
  echoAge : Nat
  t1 : Nat
  t2 : Nat
  mfSeq : Nat
  t2Seq : Nat
  domB : Bool
  domSet : Bool
  domSuspect : Bool
  t2Valid : Bool
  sealKey : Nat
  deriving DecidableEq, Repr

/-- MOB bytes 0 to 239 (Tables 3.7 to 3.11). Times are cut to 80 bits (R87). -/
def mobBody (m : Mob) : List Byte :=
  slice m.trace 0 64 ++ beBytes 4 m.devid ++ [BitVec.ofNat 8 (b2n m.active * 128 + m.role * 32)] ++ beBytes 3 m.pairId ++
  beBytes 4 m.pennant ++ beBytes 4 0 ++
  beBytes 4 m.echoId ++ beBytes 4 m.echoCount ++ [BitVec.ofNat 8 (b2n m.echoValid * 128 + m.echoAge)] ++ beBytes 7 0 ++
  beBytes 10 m.t1 ++ beBytes 10 m.t2 ++ beBytes 2 m.mfSeq ++ beBytes 2 m.t2Seq ++
  [BitVec.ofNat 8 (b2n m.domB * 128 + b2n m.domSet * 64 + b2n m.domSuspect * 32 + b2n m.t2Valid * 16)] ++ beBytes 7 0 ++
  [0x01, 0x03, 0xF0, BitVec.ofNat 8 m.sealKey] ++ beBytes 12 0 ++ List.replicate 96 0

/-- A whole MOB from its first 252 bytes (R90). -/
def mobClose (b : List Byte) : List Byte := b ++ beBytes 4 (crc32 b)

/-- MOB_CRC holds (R90). -/
def mobCrcOk (b : List Byte) : Bool := crc32 (b.take 252) == beAt b 252 4

end Sys2Proof.Machine
end

