-- ==== Sys2Proof/Config.lean ====
section
/-! DEFINITION. What one implementation or one part fixes, and the free values: opaque constants, so that no proof can
lean on a number the spec does not give. -/

namespace Sys2Proof.Config

/-- The device ID that OTP holds (TOP_DEVID). (DESIGN CHOICE: log entry 11.) -/
opaque devid : Nat

/-- The factory identity area of the life record: byte `i` of its first 4 KB (Table 16.5). (DESIGN CHOICE: log entry 11.) -/
opaque identityByte : Nat → Byte

/-- The device's root key, from OTP (R58, R62, R397). (DESIGN CHOICE: log entry 11.) -/
opaque rootKey : List Byte

/-- The boot ROM's byte at an offset (R26). (DESIGN CHOICE: log entry 11.) -/
opaque romByte : Nat → Byte

/-- A fresh free value: a number of the given width, from a counter that the state holds. (DESIGN CHOICE: log entry 7.) -/
opaque freeNat : Nat → Nat → Nat

end Sys2Proof.Config
end

