-- ==== Sys2Proof/Machine/RegMap.lean ====
section
/-! DEFINITION. The register map: every register of every page of the spec, with its offset, its reset
value and its access masks (the "RW", "W1C", "W1S", "CW" and "BL" bits of its field table; every other bit is read-only,
write-only or reserved). The tables were transcribed by a script from the register headings and field tables of the
chapters; Table 17.1 gives the pages (R476) and the event tables of the chapters give the classes (R477). -/

namespace Sys2Proof.Machine

/-- A bit field of a register: the register's address (page × 0x1000 + offset) and the field's bit range (R5, R6). -/
structure Fld where
  addr : Nat
  hi : Nat
  lo : Nat
  deriving DecidableEq, Repr

/-- One line of a page's register map. `stride` and `count` describe an indexed register. The masks name the bits of
each access code of Table 0.4. -/
structure RegEntry where
  off : Nat
  stride : Nat
  count : Nat
  reset : Nat
  rw : Nat
  w1c : Nat
  w1s : Nat
  cw : Nat
  bl : Nat
  deriving DecidableEq, Repr

/-- One block of pages of Table 17.1: its first page, its number of pages, the classes of its events in bit order
(0 INFO, 1 MIN, 2 MAJ, 3 CRIT) and its block registers. -/
structure PageBlock where
  first : Nat
  pages : Nat
  classes : List Nat
  regs : List RegEntry
  deriving DecidableEq, Repr

/-- Register map of the TOP page. -/
def regMapTop : List RegEntry := [
  ⟨0x40, 4, 1, 0x2430B100, 0x0, 0x0, 0x0, 0x0, 0x0⟩ /- TOP_ID -/,
  ⟨0x44, 4, 1, 0x0, 0x0, 0x0, 0x0, 0x0, 0x0⟩ /- TOP_DEVID -/,
  ⟨0x48, 4, 1, 0x0, 0x0, 0x0, 0x0, 0x0, 0x0⟩ /- TOP_STRAPS -/,
  ⟨0x4C, 4, 1, 0x0, 0x0, 0x0, 0x0, 0x0, 0x0⟩ /- TOP_MODE -/,
  ⟨0x50, 4, 1, 0x0, 0x0, 0x0, 0x0, 0x0, 0x0⟩ /- TOP_MODE_REQ -/,
  ⟨0x54, 4, 1, 0x0, 0x0, 0x0, 0x0, 0x0, 0x0⟩ /- TOP_MODE_STAT -/,
  ⟨0x58, 4, 1, 0x0, 0xFFFFFF, 0x0, 0x0, 0x0, 0x0⟩ /- TOP_MAINT_LANES -/,
  ⟨0x5C, 4, 1, 0x0, 0x0, 0x100, 0x0, 0x0, 0x0⟩ /- TOP_RST_CAUSE -/,
  ⟨0x60, 4, 1, 0x0, 0x0, 0x0, 0x0, 0x0, 0x0⟩ /- TOP_RESET -/,
  ⟨0x64, 4, 1, 0x1, 0xF, 0x0, 0x0, 0x0, 0x0⟩ /- TOP_CORE_RUN -/,
  ⟨0x68, 4, 1, 0x0, 0x0, 0x0, 0x0, 0x0, 0x1⟩ /- TOP_REMAP -/,
  ⟨0x6C, 4, 1, 0x800007D0, 0xFFFF, 0x0, 0x0, 0x0, 0x80000000⟩ /- TOP_WDOG_CTL -/,
  ⟨0x70, 4, 1, 0x0, 0x0, 0x0, 0x0, 0x0, 0x0⟩ /- TOP_WDOG_KICK -/,
  ⟨0x74, 4, 1, 0x7D0, 0x0, 0x0, 0x0, 0x0, 0x0⟩ /- TOP_WDOG_LEFT -/,
  ⟨0x78, 4, 1, 0x0, 0x0, 0x0, 0x0, 0x0, 0x0⟩ /- TOP_RECOV_CAUSE -/,
  ⟨0x7C, 4, 1, 0x1, 0x0, 0x0, 0x0, 0x0, 0x0⟩ /- TOP_BOOT_STAT -/,
  ⟨0x80, 4, 1, 0x0, 0x0, 0x0, 0x1, 0x0, 0x0⟩ /- TOP_HOSTBOOT -/,
  ⟨0x84, 4, 1, 0x0, 0x0, 0x0, 0x0, 0x0, 0x0⟩ /- TOP_COMM_STAT -/,
  ⟨0x88, 4, 1, 0x0, 0x0, 0x0, 0x0, 0xFFFF, 0x0⟩ /- TOP_COMM_ROLLBACK -/,
  ⟨0x8C, 4, 1, 0x0, 0x0, 0x0, 0x0, 0x0, 0x0⟩ /- TOP_MAINT_SET -/,
  ⟨0x90, 4, 1, 0x0, 0x0, 0x0, 0x0, 0x0, 0x0⟩ /- TOP_BOOT_WHY -/]

/-- The TOP block (Table 17.1). -/
def blockTop : PageBlock := ⟨0x000, 1, [0, 1, 3, 2, 2, 0], regMapTop⟩

/-- Register map of the DIR page. -/
def regMapDir : List RegEntry := [
  ⟨0x40, 4, 1, 0x67, 0x0, 0x0, 0x0, 0x0, 0x0⟩ /- DIR_N -/,
  ⟨0x80, 4, 103, 0x0, 0x0, 0x0, 0x0, 0x0, 0x0⟩ /- DIR_ENTRY -/]

/-- The DIR block (Table 17.1). -/
def blockDir : PageBlock := ⟨0x001, 1, [], regMapDir⟩

/-- Register map of the HST page. -/
def regMapHst : List RegEntry := [
  ⟨0x40, 4, 1, 0x0, 0x1, 0x0, 0x0, 0x0, 0x0⟩ /- HST_CTL -/,
  ⟨0x44, 4, 1, 0x0, 0x0, 0x0, 0x0, 0x0, 0x0⟩ /- HST_STAT -/,
  ⟨0x48, 4, 1, 0x0, 0xFF, 0x0, 0x0, 0x0, 0x0⟩ /- HST_APERTURE -/,
  ⟨0x4C, 4, 1, 0x1F4E2430, 0x0, 0x0, 0x0, 0x0, 0xFFFFFFFF⟩ /- HST_SUBSYS -/,
  ⟨0x50, 4, 1, 0x0, 0x0, 0x0, 0x0, 0x0, 0x0⟩ /- HST_CNT -/,
  ⟨0x54, 4, 1, 0x0, 0x0, 0x0, 0x0, 0x0, 0x0⟩ /- HST_CNT_CLR -/,
  ⟨0x800, 16, 64, 0x0, 0xFFFFFFFF, 0x0, 0x0, 0x0, 0x0⟩ /- HST_MSIX_ADDR_LO -/,
  ⟨0x804, 16, 64, 0x0, 0xFFFFFFFF, 0x0, 0x0, 0x0, 0x0⟩ /- HST_MSIX_ADDR_HI -/,
  ⟨0x808, 16, 64, 0x0, 0xFFFFFFFF, 0x0, 0x0, 0x0, 0x0⟩ /- HST_MSIX_DATA -/,
  ⟨0x80C, 16, 64, 0x1, 0x1, 0x0, 0x0, 0x0, 0x0⟩ /- HST_MSIX_CTL -/,
  ⟨0xC00, 4, 1, 0x0, 0x0, 0x0, 0x0, 0x0, 0x0⟩ /- HST_MSIX_PBA_LO -/,
  ⟨0xC04, 4, 1, 0x0, 0x0, 0x0, 0x0, 0x0, 0x0⟩ /- HST_MSIX_PBA_HI -/]

/-- The HST block (Table 17.1). -/
def blockHst : PageBlock := ⟨0x008, 1, [0, 2, 1], regMapHst⟩

/-- Register map of the TMU page. -/
def regMapTmu : List RegEntry := [
  ⟨0x40, 4, 1, 0x3C0001, 0x0, 0x0, 0x0, 0x3FF0003, 0x0⟩ /- TMU_TT_GLOBAL -/,
  ⟨0x44, 4, 1, 0x0, 0x0, 0x0, 0x0, 0xF, 0x0⟩ /- TMU_REFIN_CFG -/,
  ⟨0x48, 4, 1, 0xF00, 0x0, 0x0, 0x0, 0x0, 0x0⟩ /- TMU_STAT -/,
  ⟨0x4C, 4, 1, 0x0, 0x0, 0x0, 0x0, 0x0, 0x0⟩ /- TMU_PHASE -/,
  ⟨0x50, 4, 1, 0x0, 0x0, 0x0, 0x0, 0x0, 0x0⟩ /- TMU_FREQ -/,
  ⟨0x54, 4, 1, 0x0, 0x0, 0x0, 0x0, 0x0, 0x0⟩ /- TMU_MEDIAN -/,
  ⟨0x58, 4, 1, 0x0, 0x0, 0x0, 0x0, 0x0, 0x0⟩ /- TMU_HO_FREQ -/,
  ⟨0x5C, 4, 1, 0x0, 0x0, 0x0, 0x0, 0x0, 0x0⟩ /- TMU_HO_N -/,
  ⟨0x60, 4, 1, 0x0, 0xE700000C, 0x0, 0x0, 0x0, 0x0⟩ /- TMU_OUT_CTL -/,
  ⟨0x64, 4, 1, 0x0, 0x0, 0x0, 0x0, 0x0, 0x0⟩ /- TMU_CAND_MAP -/,
  ⟨0x68, 4, 1, 0x0, 0x0, 0x0, 0x0, 0x0, 0x0⟩ /- TMU_CNT -/,
  ⟨0x6C, 4, 1, 0x0, 0x0, 0x0, 0x0, 0x0, 0x0⟩ /- TMU_CNT_CLR -/,
  ⟨0x80, 8, 8, 0x0, 0x0, 0x0, 0x0, 0x8FFF83FF, 0x0⟩ /- TMU_TT_A -/,
  ⟨0x84, 8, 8, 0x0, 0x0, 0x0, 0x0, 0xFFFFFFFF, 0x0⟩ /- TMU_TT_B -/,
  ⟨0x100, 16, 8, 0x0, 0x0, 0x0, 0x0, 0x0, 0x0⟩ /- TMU_CAND_STAT -/,
  ⟨0x104, 16, 8, 0x0, 0x0, 0x0, 0x0, 0x0, 0x0⟩ /- TMU_CAND_FREQ -/,
  ⟨0x108, 16, 8, 0x0, 0x0, 0x0, 0x0, 0x0, 0x0⟩ /- TMU_CAND_TIE -/]

/-- The TMU block (Table 17.1). -/
def blockTmu : PageBlock := ⟨0x010, 1, [0, 2, 0, 2, 0, 1, 1, 3], regMapTmu⟩

/-- Register map of the TBS page, part 1. -/
def regMapTbsa : List RegEntry := [
  ⟨0x40, 64, 2, 0x0, 0x80000000, 0x0, 0x0, 0x0, 0x0⟩ /- TBS_CTL -/,
  ⟨0x44, 64, 2, 0x8000000, 0x0, 0x0, 0x0, 0x0, 0x0⟩ /- TBS_STAT -/,
  ⟨0x48, 64, 2, 0x0, 0x0, 0x0, 0x0, 0x0, 0x0⟩ /- TBS_CMD -/,
  ⟨0x4C, 64, 2, 0x4, 0xFF, 0x0, 0x0, 0x0, 0x0⟩ /- TBS_INC_INT -/,
  ⟨0x50, 64, 2, 0xE2000000, 0xFFFFFFFF, 0x0, 0x0, 0x0, 0x0⟩ /- TBS_INC_FRAC -/,
  ⟨0x54, 64, 2, 0x0, 0xFFFFFFFF, 0x0, 0x0, 0x0, 0x0⟩ /- TBS_STEP_HI -/,
  ⟨0x58, 64, 2, 0x0, 0xFFFFFFFF, 0x0, 0x0, 0x0, 0x0⟩ /- TBS_STEP_LO -/,
  ⟨0x5C, 64, 2, 0x0, 0xFFFFFFFF, 0x0, 0x0, 0x0, 0x0⟩ /- TBS_STEP_FRAC -/,
  ⟨0x60, 64, 2, 0x0, 0xFFFFFFFF, 0x0, 0x0, 0x0, 0x0⟩ /- TBS_SLEW_HI -/,
  ⟨0x64, 64, 2, 0x0, 0xFFFFFFFF, 0x0, 0x0, 0x0, 0x0⟩ /- TBS_SLEW_LO -/,
  ⟨0x68, 64, 2, 0x0, 0x0, 0x0, 0x0, 0x0, 0x0⟩ /- TBS_LEFT_HI -/,
  ⟨0x6C, 64, 2, 0x0, 0x0, 0x0, 0x0, 0x0, 0x0⟩ /- TBS_LEFT_LO -/,
  ⟨0x70, 64, 2, 0x0, 0x0, 0x0, 0x0, 0x0, 0x0⟩ /- TBS_TIME_HI -/,
  ⟨0x74, 64, 2, 0x0, 0x0, 0x0, 0x0, 0x0, 0x0⟩ /- TBS_TIME_LO -/,
  ⟨0x78, 64, 2, 0x0, 0x0, 0x0, 0x0, 0x0, 0x0⟩ /- TBS_TIME_FRAC -/,
  ⟨0x7C, 64, 2, 0x3E8, 0x0, 0x0, 0x0, 0xFFFFF, 0x0⟩ /- TBS_JUMP -/,
  ⟨0xC0, 4, 1, 0x0, 0x0, 0x0, 0x0, 0x0, 0x0⟩ /- TBS_SEL_CMD -/,
  ⟨0xC4, 4, 1, 0x80000000, 0x0, 0x0, 0x0, 0x0, 0x0⟩ /- TBS_SEL_STAT -/,
  ⟨0xC8, 4, 1, 0x0, 0x0, 0x0, 0x0, 0x0, 0x0⟩ /- TBS_SEL_OFS_HI -/,
  ⟨0xCC, 4, 1, 0x0, 0x0, 0x0, 0x0, 0x0, 0x0⟩ /- TBS_SEL_OFS_LO -/,
  ⟨0xD0, 4, 1, 0x0, 0x0, 0x0, 0x0, 0x0, 0x0⟩ /- TBS_SEL_OFS_FRAC -/,
  ⟨0xD4, 4, 1, 0x0, 0x0, 0x0, 0x0, 0x0, 0x0⟩ /- TBS_SEL_TIME_HI -/,
  ⟨0xD8, 4, 1, 0x0, 0x0, 0x0, 0x0, 0x0, 0x0⟩ /- TBS_SEL_TIME_LO -/,
  ⟨0xDC, 4, 1, 0x0, 0x0, 0x0, 0x0, 0x0, 0x0⟩ /- TBS_SEL_TIME_FRAC -/]

/-- Register map of the TBS page, part 2. -/
def regMapTbsb : List RegEntry := [
  ⟨0xE0, 4, 1, 0x0, 0x0, 0x0, 0x0, 0x0, 0x0⟩ /- TBS_FRAME_FN -/,
  ⟨0xE4, 4, 1, 0x0, 0x0, 0x0, 0x0, 0x0, 0x0⟩ /- TBS_FRAME_S_HI -/,
  ⟨0xE8, 4, 1, 0x0, 0x0, 0x0, 0x0, 0x0, 0x0⟩ /- TBS_FRAME_S_LO -/,
  ⟨0xEC, 4, 1, 0x0, 0xFFFFFFFF, 0x0, 0x0, 0x0, 0x0⟩ /- TBS_CONV_T_HI -/,
  ⟨0xF0, 4, 1, 0x0, 0xFFFFFFFF, 0x0, 0x0, 0x0, 0x0⟩ /- TBS_CONV_T_LO -/,
  ⟨0xF4, 4, 1, 0x0, 0x0, 0x0, 0x0, 0x0, 0x0⟩ /- TBS_CONV_FN -/,
  ⟨0xF8, 4, 1, 0x0, 0x0, 0x0, 0x0, 0x0, 0x0⟩ /- TBS_CONV_STAT -/,
  ⟨0x100, 4, 1, 0x0, 0xFFFFFF, 0x0, 0x0, 0x0, 0x0⟩ /- TBS_MOB_DOM -/,
  ⟨0x104, 4, 1, 0x0, 0xFFFFFF, 0x0, 0x0, 0x0, 0x0⟩ /- TBS_DCCW_STAMP -/,
  ⟨0x108, 4, 1, 0x0, 0x7, 0x0, 0x0, 0x0, 0x0⟩ /- TBS_RX_DOM -/,
  ⟨0x110, 4, 1, 0x640000, 0x3FF0000, 0x0, 0x0, 0x0, 0x0⟩ /- TBS_PPS_CTL -/,
  ⟨0x114, 4, 1, 0x0, 0xFFFFFFFF, 0x0, 0x0, 0x0, 0x0⟩ /- TBS_PPS_OFS -/,
  ⟨0x118, 4, 1, 0x0, 0x0, 0x0, 0x0, 0x0, 0x0⟩ /- TBS_PPS_SEQ -/,
  ⟨0x11C, 4, 1, 0x0, 0x0, 0x0, 0x0, 0x0, 0x0⟩ /- TBS_PPS_FN -/,
  ⟨0x120, 4, 3, 0x0, 0x0, 0x0, 0x0, 0x0, 0x0⟩ /- TBS_PPS_A -/,
  ⟨0x12C, 4, 3, 0x0, 0x0, 0x0, 0x0, 0x0, 0x0⟩ /- TBS_PPS_B -/,
  ⟨0x140, 4, 1, 0x0, 0x1F, 0x0, 0x0, 0x0, 0x0⟩ /- TBS_MFS_SEL -/,
  ⟨0x144, 4, 1, 0x0, 0x0, 0x0, 0x0, 0x0, 0x0⟩ /- TBS_MFS_STAT -/,
  ⟨0x148, 4, 1, 0x0, 0x0, 0x0, 0x0, 0x0, 0x0⟩ /- TBS_MFS_XSEQ -/,
  ⟨0x150, 16, 8, 0x0, 0x0, 0x0, 0x0, 0x0, 0x0⟩ /- TBS_MFS_HI -/,
  ⟨0x154, 16, 8, 0x0, 0x0, 0x0, 0x0, 0x0, 0x0⟩ /- TBS_MFS_LO -/,
  ⟨0x158, 16, 8, 0x0, 0x0, 0x0, 0x0, 0x0, 0x0⟩ /- TBS_MFS_FRAC -/,
  ⟨0x1D0, 32, 3, 0x0, 0x0, 0x0, 0x0, 0x0, 0x0⟩ /- TBS_TXQ_W0 -/,
  ⟨0x1D4, 32, 3, 0x0, 0x0, 0x0, 0x0, 0x0, 0x0⟩ /- TBS_TXQ_W123 -/]

/-- Register map of the TBS page, part 3. -/
def regMapTbsc : List RegEntry := [
  ⟨0x1D8, 32, 3, 0x0, 0x0, 0x0, 0x0, 0x0, 0x0⟩ /- TBS_TXQ_W123 -/,
  ⟨0x1DC, 32, 3, 0x0, 0x0, 0x0, 0x0, 0x0, 0x0⟩ /- TBS_TXQ_W123 -/,
  ⟨0x1E0, 32, 3, 0x0, 0x0, 0xC0000000, 0x0, 0x0, 0x0⟩ /- TBS_TXQ_STAT -/,
  ⟨0x240, 16, 4, 0x0, 0xB0000000, 0x0, 0x0, 0x0, 0x0⟩ /- TBS_CMP_CTL -/,
  ⟨0x244, 16, 4, 0x0, 0xFFFFFFFF, 0x0, 0x0, 0x0, 0x0⟩ /- TBS_CMP_HI -/,
  ⟨0x248, 16, 4, 0x0, 0xFFFFFFFF, 0x0, 0x0, 0x0, 0x0⟩ /- TBS_CMP_LO -/,
  ⟨0x300, 4, 24, 0x0, 0xFFFFFFFF, 0x0, 0x0, 0x0, 0x0⟩ /- TBS_CAL -/]

/-- The TBS block (Table 17.1). -/
def blockTbs : PageBlock := ⟨0x011, 1, [0, 2, 1, 1, 1, 1, 0, 0, 0, 0, 0, 0], regMapTbsa ++ regMapTbsb ++ regMapTbsc⟩

/-- Register map of the TBL page. -/
def regMapTbl : List RegEntry := [
  ⟨0x40, 4, 1, 0x0, 0x3, 0x0, 0x0, 0x0, 0x0⟩ /- TBL_CTL -/,
  ⟨0x44, 4, 1, 0x0, 0x0, 0x0, 0x0, 0x0, 0x0⟩ /- TBL_NSEC -/,
  ⟨0x48, 4, 1, 0x0, 0x0, 0x0, 0x0, 0x0, 0x0⟩ /- TBL_SEC_LO -/,
  ⟨0x4C, 4, 1, 0x80000000, 0x0, 0x0, 0x0, 0x0, 0x0⟩ /- TBL_SEC_HI -/]

/-- The TBL block (Table 17.1). -/
def blockTbl : PageBlock := ⟨0x012, 1, [], regMapTbl⟩

/-- Register map of the UPR page. -/
def regMapUpr : List RegEntry := [
  ⟨0x40, 4, 1, 0x5000000, 0x0, 0x0, 0x0, 0xBFFFFFFF, 0x0⟩ /- UPR_CFG -/,
  ⟨0x44, 4, 1, 0x0, 0x0, 0x0, 0x0, 0xFFFFFFFF, 0x0⟩ /- UPR_MATE_CFG -/,
  ⟨0x48, 4, 1, 0x0, 0x0, 0x0, 0x0, 0x0, 0x0⟩ /- UPR_STAT -/,
  ⟨0x4C, 4, 1, 0x0, 0x0, 0x0, 0x0, 0x0, 0x0⟩ /- UPR_COUNT -/,
  ⟨0x50, 4, 1, 0x0, 0x0, 0x0, 0x0, 0x0, 0x0⟩ /- UPR_MATE_COUNT -/,
  ⟨0x54, 4, 1, 0x0, 0x0, 0x0, 0x0, 0x0, 0x0⟩ /- UPR_MATE_ACK -/,
  ⟨0x58, 4, 1, 0x0, 0x0, 0x0, 0x0, 0x0, 0x0⟩ /- UPR_MATE_DEVID -/,
  ⟨0x5C, 4, 1, 0x0, 0x0, 0x0, 0x0, 0x0, 0x0⟩ /- UPR_MATE_STATE -/,
  ⟨0x60, 4, 1, 0x0, 0x0, 0x0, 0x0, 0x0, 0x0⟩ /- UPR_MATE_PROT -/,
  ⟨0x64, 4, 1, 0x0, 0x0, 0x0, 0x0, 0x0, 0x0⟩ /- UPR_PHASE -/,
  ⟨0x68, 4, 1, 0x0, 0x0, 0x0, 0x0, 0x0, 0x0⟩ /- UPR_SUSP_FN -/,
  ⟨0x6C, 4, 1, 0x0, 0x0, 0x0, 0x0, 0x0, 0x0⟩ /- UPR_DEC_FN -/,
  ⟨0x70, 4, 1, 0x0, 0x0, 0x0, 0x0, 0x0, 0x0⟩ /- UPR_HO -/,
  ⟨0x74, 4, 1, 0x0, 0x0, 0x0, 0x0, 0x0, 0x0⟩ /- UPR_WTR -/,
  ⟨0x78, 4, 1, 0x0, 0x0, 0x0, 0x0, 0x0, 0x0⟩ /- UPR_EVID_ALIVE -/,
  ⟨0x7C, 4, 1, 0x0, 0x0, 0x0, 0x0, 0x0, 0x0⟩ /- UPR_EVID_SILENT -/,
  ⟨0x80, 4, 1, 0x0, 0x0, 0x0, 0x0, 0x0, 0x0⟩ /- UPR_CNT_PENN -/,
  ⟨0x84, 4, 1, 0x0, 0x0, 0x0, 0x0, 0x0, 0x0⟩ /- UPR_CNT_LINK -/,
  ⟨0x88, 4, 1, 0x0, 0x0, 0x0, 0x0, 0x0, 0x0⟩ /- UPR_CNT_ROLE -/,
  ⟨0x8C, 4, 1, 0x0, 0x0, 0x0, 0x0, 0x0, 0x0⟩ /- UPR_CNT_CLR -/]

/-- The UPR block (Table 17.1). -/
def blockUpr : PageBlock := ⟨0x018, 1, [0, 1, 2, 2, 2, 0, 3, 2, 1, 0, 1], regMapUpr⟩

/-- Register map of the XCC page. -/
def regMapXcc : List RegEntry := [
  ⟨0x40, 4, 1, 0x38401F4, 0x0, 0x0, 0x0, 0x0, 0x0⟩ /- XCC_CONST -/,
  ⟨0x44, 4, 1, 0x0, 0x0, 0x0, 0x0, 0x0, 0x0⟩ /- XCC_BAD -/,
  ⟨0x48, 4, 1, 0x0, 0x0, 0x0, 0x0, 0x0, 0x0⟩ /- XCC_ASM_TIME -/,
  ⟨0x4C, 4, 1, 0x0, 0x0, 0x0, 0x0, 0x0, 0x0⟩ /- XCC_CNT_DM_REP -/,
  ⟨0x50, 4, 1, 0x0, 0x0, 0x0, 0x0, 0x0, 0x0⟩ /- XCC_CNT_DM_FAIL -/,
  ⟨0x54, 4, 1, 0x0, 0x0, 0x0, 0x0, 0x0, 0x0⟩ /- XCC_CNT_CM -/,
  ⟨0x58, 4, 1, 0x0, 0x0, 0x0, 0x0, 0x0, 0x0⟩ /- XCC_CNT_SEL -/,
  ⟨0x5C, 4, 1, 0x0, 0x0, 0x0, 0x0, 0x0, 0x0⟩ /- XCC_CNT_STG -/,
  ⟨0x60, 4, 1, 0x0, 0x0, 0x0, 0x0, 0x0, 0x0⟩ /- XCC_CNT_OVR -/,
  ⟨0x64, 4, 1, 0x0, 0x0, 0x0, 0x0, 0x0, 0x0⟩ /- XCC_DM_LAST -/,
  ⟨0x68, 4, 1, 0x0, 0x0, 0x0, 0x0, 0x0, 0x0⟩ /- XCC_CNT_CLR -/,
  ⟨0x6C, 4, 1, 0x0, 0x387FFFFF, 0x0, 0x80000000, 0x0, 0x0⟩ /- XCC_INJ -/,
  ⟨0x70, 4, 1, 0x0, 0x0, 0x0, 0x0, 0x0, 0x0⟩ /- XCC_BADLOG_STAT -/,
  ⟨0x100, 4, 64, 0x0, 0x0, 0x0, 0x0, 0x0, 0x0⟩ /- XCC_BADLOG -/]

/-- The XCC block (Table 17.1). -/
def blockXcc : PageBlock := ⟨0x020, 1, [1, 2, 2, 2, 1, 2, 1, 0], regMapXcc⟩

/-- Register map of the CMP page. -/
def regMapCmp : List RegEntry := [
  ⟨0x40, 4, 1, 0x0, 0x0, 0x0, 0x0, 0x0, 0x0⟩ /- CMP_STAT -/,
  ⟨0x44, 4, 1, 0x0, 0x0, 0x0, 0x0, 0x0, 0x0⟩ /- CMP_SEAL -/,
  ⟨0x48, 4, 1, 0x0, 0x0, 0x0, 0x0, 0x0, 0x0⟩ /- CMP_SWAP -/,
  ⟨0x4C, 4, 1, 0x0, 0xFFFFFFFF, 0x0, 0x0, 0x0, 0x0⟩ /- CMP_SWAP_FN -/,
  ⟨0x50, 4, 1, 0x0, 0x0, 0x300, 0x0, 0x0, 0x0⟩ /- CMP_SWAP_STAT -/,
  ⟨0x54, 4, 1, 0x0, 0x0, 0x0, 0x0, 0x0, 0x0⟩ /- CMP_SWAP_TGT -/,
  ⟨0x58, 4, 1, 0x0, 0x0, 0x0, 0x0, 0x0, 0x0⟩ /- CMP_ACT_FN -/,
  ⟨0x5C, 4, 1, 0x0, 0x0, 0x0, 0x0, 0x0, 0x0⟩ /- CMP_FP_STBY -/,
  ⟨0x60, 4, 1, 0x0, 0x0, 0x0, 0x0, 0x0, 0x0⟩ /- CMP_FP_ACTIVE -/,
  ⟨0x64, 4, 1, 0x0, 0x0, 0x0, 0x0, 0x0, 0x0⟩ /- CMP_FP_MATE -/,
  ⟨0x68, 4, 1, 0x0, 0x0, 0x0, 0x0, 0x0, 0x0⟩ /- CMP_SEAL_BAD -/,
  ⟨0x6C, 4, 1, 0x0, 0x0, 0x0, 0x0, 0x0, 0x0⟩ /- CMP_SEAL_LOC -/,
  ⟨0x70, 4, 1, 0x0, 0x0, 0x0, 0x0, 0x0, 0x0⟩ /- CMP_SEAL_DM -/,
  ⟨0x74, 4, 1, 0x0, 0x0, 0x0, 0x0, 0x0, 0x0⟩ /- CMP_SEAL_SELRD -/,
  ⟨0x78, 4, 1, 0x0, 0x0, 0x0, 0x0, 0x0, 0x0⟩ /- CMP_SEAL_HOTBANK -/,
  ⟨0x7C, 4, 1, 0x0, 0x0, 0x0, 0x0, 0x0, 0x0⟩ /- CMP_SEAL_HOTRD -/,
  ⟨0x80, 4, 1, 0x0, 0x0, 0x0, 0x0, 0x0, 0x0⟩ /- CMP_SEAL_ASM -/,
  ⟨0x84, 4, 1, 0x0, 0x0, 0x0, 0x0, 0x0, 0x0⟩ /- CMP_SEAL_RATES -/,
  ⟨0x88, 4, 1, 0x0, 0x0, 0x0, 0x0, 0x0, 0x0⟩ /- CMP_COPY -/,
  ⟨0x8C, 4, 1, 0x0, 0x0, 0x0, 0x0, 0x0, 0x0⟩ /- CMP_COPY_STAT -/,
  ⟨0x90, 4, 1, 0x0, 0x0, 0x0, 0x0, 0x0, 0x0⟩ /- CMP_PAIR -/,
  ⟨0x94, 4, 1, 0x0, 0x0, 0x0, 0x0, 0x0, 0x0⟩ /- CMP_CNT -/]

/-- The CMP block (Table 17.1). -/
def blockCmp : PageBlock := ⟨0x021, 1, [0, 1, 0, 1, 1, 2, 0, 0], regMapCmp⟩

/-- Register map of the PGS page. -/
def regMapPgs : List RegEntry := [
  ⟨0x40, 4, 1, 0x0, 0x0, 0x0, 0x0, 0x0, 0x0⟩ /- PGS_CMD -/,
  ⟨0x44, 4, 1, 0x0, 0x0, 0x0, 0x0, 0x0, 0x0⟩ /- PGS_CMD_STAT -/,
  ⟨0x48, 4, 1, 0x1, 0x1, 0x0, 0x0, 0x0, 0x0⟩ /- PGS_CTL -/,
  ⟨0x4C, 4, 1, 0x0, 0x0, 0x0, 0x0, 0x0, 0x0⟩ /- PGS_EVAL_TIME -/,
  ⟨0x50, 4, 1, 0x0, 0x0, 0x0, 0x0, 0x0, 0x0⟩ /- PGS_CNT_SW -/,
  ⟨0x54, 4, 1, 0x0, 0x0, 0x0, 0x0, 0x0, 0x0⟩ /- PGS_CNT_APS -/,
  ⟨0x58, 4, 1, 0x0, 0x0, 0x0, 0x0, 0x0, 0x0⟩ /- PGS_N_PROT -/,
  ⟨0x5C, 4, 1, 0x0, 0x0, 0x0, 0x0, 0x0, 0x0⟩ /- PGS_N_FROZEN -/,
  ⟨0x60, 4, 1, 0x0, 0x0, 0x0, 0x0, 0x0, 0x0⟩ /- PGS_N_FELOST -/,
  ⟨0x64, 4, 1, 0x0, 0x0, 0x0, 0x0, 0x0, 0x0⟩ /- PGS_N_FEMISM -/,
  ⟨0x68, 4, 1, 0x0, 0x0, 0x0, 0x0, 0x0, 0x0⟩ /- PGS_CNT_CLR -/,
  ⟨0x80, 16, 12, 0x0, 0xF9FF9F1F, 0x0, 0x0, 0x0, 0x0⟩ /- PGS_LG_CFG_A -/,
  ⟨0x84, 16, 12, 0x0, 0xFFFF03FF, 0x0, 0x0, 0x0, 0x0⟩ /- PGS_LG_CFG_B -/,
  ⟨0x88, 16, 12, 0x0, 0x0, 0x0, 0x0, 0x0, 0x0⟩ /- PGS_LG_STAT -/,
  ⟨0x8C, 16, 12, 0x0, 0x0, 0x0, 0x0, 0x0, 0x0⟩ /- PGS_LG_CNT -/]

/-- The PGS block (Table 17.1). -/
def blockPgs : PageBlock := ⟨0x022, 1, [0, 1, 1, 1, 3, 2], regMapPgs⟩

/-- Register map of the LGR page. -/
def regMapLgr : List RegEntry := [
  ⟨0x40, 4, 1, 0x2710, 0xFFFF, 0x0, 0x0, 0x0, 0x0⟩ /- LGR_ASM_LIMIT -/,
  ⟨0x44, 4, 1, 0x2710, 0x0, 0x0, 0x0, 0x0, 0x0⟩ /- LGR_ASM_CEIL -/,
  ⟨0x48, 4, 1, 0x70F0000, 0x0, 0x0, 0x0, 0x0, 0x0⟩ /- LGR_ASM_ACT -/,
  ⟨0x4C, 4, 1, 0x0, 0x0, 0x0, 0x0, 0x0, 0x0⟩ /- LGR_ASM_STBY -/,
  ⟨0x50, 4, 1, 0x80, 0x0, 0x0, 0x0, 0x0, 0x0⟩ /- LGR_STAT -/,
  ⟨0x54, 4, 1, 0x0, 0x0, 0x0, 0x0, 0x0, 0x0⟩ /- LGR_CLAIM -/,
  ⟨0x58, 4, 1, 0x0, 0x0, 0x0, 0x0, 0x0, 0x0⟩ /- LGR_CLAIM_STAT -/,
  ⟨0x60, 4, 1, 0x2CCC, 0x0, 0x0, 0x0, 0x0, 0x0⟩ /- LGR_ACCT_LIM_1 -/,
  ⟨0x64, 4, 1, 0x80, 0x0, 0x0, 0x0, 0x0, 0x0⟩ /- LGR_ACCT_USED_1 -/,
  ⟨0x68, 4, 1, 0x0, 0x0, 0x0, 0x0, 0x0, 0x0⟩ /- LGR_ACCT_SW_1 -/,
  ⟨0x70, 4, 1, 0x0, 0x0, 0x0, 0x0, 0x0, 0x0⟩ /- LGR_ACCT_LIM_2 -/,
  ⟨0x74, 4, 1, 0x4E20, 0x0, 0x0, 0x0, 0x0, 0x0⟩ /- LGR_ACCT_USED_2 -/,
  ⟨0x78, 4, 1, 0x0, 0x0, 0x0, 0x0, 0x0, 0x0⟩ /- LGR_ACCT_SW_2 -/,
  ⟨0x80, 4, 1, 0x0, 0x0, 0x0, 0x0, 0x0, 0x0⟩ /- LGR_ACCT_LIM_3 -/,
  ⟨0x84, 4, 1, 0x0, 0x0, 0x0, 0x0, 0x0, 0x0⟩ /- LGR_ACCT_USED_3 -/,
  ⟨0x88, 4, 1, 0x0, 0x0, 0x0, 0x0, 0x0, 0x0⟩ /- LGR_ACCT_SW_3 -/,
  ⟨0x90, 4, 1, 0x16E360, 0x0, 0x0, 0x0, 0x0, 0x0⟩ /- LGR_ACCT_LIM_4 -/,
  ⟨0x94, 4, 1, 0x0, 0x0, 0x0, 0x0, 0x0, 0x0⟩ /- LGR_ACCT_USED_4 -/,
  ⟨0x98, 4, 1, 0x0, 0x0, 0x0, 0x0, 0x0, 0x0⟩ /- LGR_ACCT_SW_4 -/]

/-- The LGR block (Table 17.1). -/
def blockLgr : PageBlock := ⟨0x024, 1, [1, 2, 1], regMapLgr⟩

/-- Register map of the MGN page. -/
def regMapMgn : List RegEntry := [
  ⟨0x40, 4, 1, 0x3000000, 0x7FF0000, 0x0, 0x1, 0x0, 0x0⟩ /- MGN_CTL -/,
  ⟨0x44, 4, 1, 0x80384320, 0x0, 0x0, 0x0, 0x0, 0x8FFFFFFF⟩ /- MGN_AVS_CFG -/,
  ⟨0x48, 4, 1, 0x0, 0x0, 0x0, 0x0, 0x0, 0x0⟩ /- MGN_AVS_STAT -/,
  ⟨0x4C, 4, 1, 0x0, 0x0, 0x0, 0x0, 0x0, 0x0⟩ /- MGN_SI -/,
  ⟨0x50, 4, 1, 0x80000010, 0x0, 0x0, 0x0, 0x0, 0x0⟩ /- MGN_AGE -/,
  ⟨0x54, 4, 1, 0x80000000, 0x0, 0x0, 0x0, 0x0, 0x0⟩ /- MGN_PS -/,
  ⟨0x58, 4, 1, 0x0, 0x0, 0x0, 0x0, 0x0, 0x0⟩ /- MGN_STAT -/,
  ⟨0x100, 4, 48, 0x0, 0x0, 0x0, 0x0, 0x0, 0x0⟩ /- MGN_MON -/]

/-- The MGN block (Table 17.1). -/
def blockMgn : PageBlock := ⟨0x025, 1, [2, 3, 0, 2, 2, 1], regMapMgn⟩

/-- Register map of the OHC page. -/
def regMapOhc : List RegEntry := [
  ⟨0x40, 8, 8, 0x7E00, 0x8000FF1F, 0x0, 0x0, 0x0, 0x0⟩ /- OHC_OSP_CTL -/,
  ⟨0x44, 8, 8, 0x0, 0x0, 0x0, 0x0, 0x0, 0x0⟩ /- OHC_OSP_STAT -/,
  ⟨0x80, 4, 1, 0x0, 0x0, 0x0, 0x0, 0x0, 0x0⟩ /- OHC_UNIT_CONFL -/]

/-- The OHC block (Table 17.1). -/
def blockOhc : PageBlock := ⟨0x030, 1, [1, 1], regMapOhc⟩

/-- Register map of the HL pages. -/
def regMapHl : List RegEntry := [
  ⟨0x40, 4, 1, 0x0, 0x1FF, 0x0, 0x0, 0x0, 0x0⟩ /- HL_PTR_BASE -/,
  ⟨0x44, 4, 1, 0x0, 0x3FF, 0x0, 0x0, 0x0, 0x0⟩ /- HL_CIR_IDX -/,
  ⟨0x48, 4, 1, 0x0, 0xFFFFFFFF, 0x0, 0x0, 0x0, 0x0⟩ /- HL_CIR_W0 -/,
  ⟨0x4C, 4, 1, 0x0, 0xFFFFFFFF, 0x0, 0x0, 0x0, 0x0⟩ /- HL_CIR_W1 -/,
  ⟨0x50, 4, 1, 0x0, 0xFFFFFFFF, 0x0, 0x0, 0x0, 0x0⟩ /- HL_CIR_W2 -/,
  ⟨0x54, 4, 1, 0x0, 0x0, 0x0, 0x0, 0x0, 0x0⟩ /- HL_CIR_OP -/,
  ⟨0x58, 4, 1, 0x0, 0x0, 0x0, 0x0, 0x0, 0x0⟩ /- HL_CIR_STAT -/,
  ⟨0x5C, 4, 1, 0x0, 0x0, 0x0, 0x0, 0x0, 0x0⟩ /- HL_CNT_OVF -/,
  ⟨0x60, 4, 1, 0x0, 0x0, 0x0, 0x0, 0x0, 0x0⟩ /- HL_CNT_UNF -/,
  ⟨0x64, 4, 1, 0x0, 0x0, 0x0, 0x0, 0x0, 0x0⟩ /- HL_CNT_POISON -/,
  ⟨0x68, 4, 1, 0x0, 0x0, 0x0, 0x0, 0x0, 0x0⟩ /- HL_LAST -/,
  ⟨0x6C, 4, 1, 0x0, 0x0, 0x0, 0x0, 0x0, 0x0⟩ /- HL_CNT_CLR -/]

/-- The HL block (Table 17.1). -/
def blockHl : PageBlock := ⟨0x038, 2, [1, 0, 1], regMapHl⟩

/-- Register map of the RL pages. -/
def regMapRl : List RegEntry := [
  ⟨0x40, 4, 1, 0x0, 0xFF, 0x0, 0x0, 0x0, 0x0⟩ /- RL_SET_IDX -/,
  ⟨0x44, 4, 5, 0x0, 0xFFFFFFFF, 0x0, 0x0, 0x0, 0x0⟩ /- RL_SET_W -/,
  ⟨0x58, 4, 1, 0x0, 0x0, 0x0, 0x0, 0x0, 0x0⟩ /- RL_SET_W5 -/,
  ⟨0x5C, 4, 1, 0x0, 0x0, 0x0, 0x0, 0x0, 0x0⟩ /- RL_SET_OP -/,
  ⟨0x60, 4, 1, 0x0, 0x0, 0x0, 0x0, 0x0, 0x0⟩ /- RL_SET_STAT -/,
  ⟨0x64, 4, 1, 0x0, 0x0, 0x0, 0x3, 0x0, 0x0⟩ /- RL_CTL -/,
  ⟨0x68, 4, 1, 0x0, 0xF1F07, 0x0, 0x0, 0x0, 0x0⟩ /- RL_TRIG -/,
  ⟨0x6C, 4, 1, 0x0, 0x8100FFFF, 0x0, 0x0, 0x0, 0x0⟩ /- RL_TRIG_PG -/,
  ⟨0x70, 4, 1, 0x0, 0x1FFFF, 0x0, 0x0, 0x0, 0x0⟩ /- RL_POST -/,
  ⟨0x74, 4, 1, 0x0, 0x0, 0x0, 0x0, 0x0, 0x0⟩ /- RL_STAT -/,
  ⟨0x78, 4, 1, 0x0, 0x0, 0x0, 0x0, 0x0, 0x0⟩ /- RL_TRIG_FN -/,
  ⟨0x7C, 4, 1, 0x0, 0x0, 0x0, 0x0, 0x0, 0x0⟩ /- RL_FRZ_FN -/,
  ⟨0x80, 4, 1, 0x0, 0x0, 0x0, 0x0, 0x0, 0x0⟩ /- RL_ARM_FN -/,
  ⟨0x84, 4, 1, 0x0, 0x0, 0x0, 0x0, 0x0, 0x0⟩ /- RL_CNT -/,
  ⟨0x88, 4, 1, 0x0, 0x0, 0x0, 0x0, 0x0, 0x0⟩ /- RL_CNT_LATE -/,
  ⟨0x8C, 4, 1, 0x0, 0x0, 0x0, 0x0, 0x0, 0x0⟩ /- RL_CNT_POISON -/,
  ⟨0x90, 4, 1, 0x0, 0x0, 0x0, 0x0, 0x0, 0x0⟩ /- RL_CNT_CLR -/]

/-- The RL block (Table 17.1). -/
def blockRl : PageBlock := ⟨0x03A, 2, [0, 0, 1, 1], regMapRl⟩

/-- Register map of the PL pages. -/
def regMapPl : List RegEntry := [
  ⟨0x40, 4, 1, 0x0, 0x3F, 0x0, 0x0, 0x0, 0x0⟩ /- PL_GRP_IDX -/,
  ⟨0x44, 4, 1, 0x0, 0xFFFFFFFF, 0x0, 0x0, 0x0, 0x0⟩ /- PL_GRP_W0 -/,
  ⟨0x48, 4, 1, 0x0, 0xFFFFFFFF, 0x0, 0x0, 0x0, 0x0⟩ /- PL_GRP_W1 -/,
  ⟨0x4C, 4, 1, 0x0, 0x0, 0x0, 0x0, 0x0, 0x0⟩ /- PL_GRP_ERR -/,
  ⟨0x50, 4, 1, 0x0, 0x0, 0x0, 0x0, 0x0, 0x0⟩ /- PL_GRP_FRAMES -/,
  ⟨0x54, 4, 1, 0x0, 0x0, 0x0, 0x0, 0x0, 0x0⟩ /- PL_GRP_SYNC -/,
  ⟨0x58, 4, 1, 0x0, 0x0, 0x0, 0x0, 0x0, 0x0⟩ /- PL_GRP_OP -/,
  ⟨0x5C, 4, 1, 0x0, 0x0, 0x0, 0x0, 0x0, 0x0⟩ /- PL_GRP_STAT -/,
  ⟨0x60, 4, 1, 0x0, 0x0, 0x0, 0x1, 0x0, 0x0⟩ /- PL_SNAP -/,
  ⟨0x64, 4, 1, 0x0, 0x0, 0x0, 0x0, 0x0, 0x0⟩ /- PL_SYNC_LO -/,
  ⟨0x68, 4, 1, 0x0, 0x0, 0x0, 0x0, 0x0, 0x0⟩ /- PL_SYNC_HI -/,
  ⟨0x6C, 4, 1, 0x0, 0x3F, 0x0, 0x80000000, 0x0, 0x0⟩ /- PL_INJ -/]

/-- The PL block (Table 17.1). -/
def blockPl : PageBlock := ⟨0x03C, 2, [1, 0], regMapPl⟩

/-- Register map of the CIP page, part 1. -/
def regMapCipa : List RegEntry := [
  ⟨0x40, 4, 1, 0x0, 0x0, 0x0, 0x0, 0x0, 0x0⟩ /- CIP_LATCH -/,
  ⟨0x44, 4, 1, 0x64, 0x0, 0x0, 0x0, 0xFFFF, 0x0⟩ /- CIP_LEASE -/,
  ⟨0x48, 4, 1, 0x0, 0x0, 0x0, 0x0, 0x0, 0x0⟩ /- CIP_LATCH_STAT -/,
  ⟨0x4C, 4, 1, 0x0, 0xCFC0003F, 0x0, 0x0, 0x0, 0x0⟩ /- CIP_JOB_CTL -/,
  ⟨0x50, 4, 1, 0x0, 0xFFFFFFFF, 0x0, 0x0, 0x0, 0x0⟩ /- CIP_JOB_AAD -/,
  ⟨0x54, 4, 1, 0x0, 0xFFFFFFFF, 0x0, 0x0, 0x0, 0x0⟩ /- CIP_JOB_AADLEN -/,
  ⟨0x58, 4, 1, 0x0, 0xFFFFFFFF, 0x0, 0x0, 0x0, 0x0⟩ /- CIP_JOB_SRC -/,
  ⟨0x5C, 4, 1, 0x0, 0xFFFFFFFF, 0x0, 0x0, 0x0, 0x0⟩ /- CIP_JOB_DST -/,
  ⟨0x60, 4, 1, 0x0, 0xFFFFFFFF, 0x0, 0x0, 0x0, 0x0⟩ /- CIP_JOB_LEN -/,
  ⟨0x64, 4, 3, 0x0, 0xFFFFFFFF, 0x0, 0x0, 0x0, 0x0⟩ /- CIP_JOB_IV -/,
  ⟨0x70, 4, 4, 0x0, 0xFFFFFFFF, 0x0, 0x0, 0x0, 0x0⟩ /- CIP_JOB_TAG -/,
  ⟨0x80, 4, 1, 0x0, 0x0, 0x0, 0x0, 0x0, 0x0⟩ /- CIP_JOB_GO -/,
  ⟨0x84, 4, 1, 0x0, 0x0, 0x0, 0x0, 0x0, 0x0⟩ /- CIP_JOB_STAT -/,
  ⟨0x88, 4, 1, 0x0, 0x0, 0x0, 0x0, 0x0, 0x0⟩ /- CIP_JOB_DONE -/,
  ⟨0x90, 4, 1, 0x0, 0x3F, 0x0, 0x0, 0x0, 0x0⟩ /- CIP_KEY_SEL -/,
  ⟨0x94, 4, 8, 0x0, 0x0, 0x0, 0x0, 0x0, 0x0⟩ /- CIP_KEY_W -/,
  ⟨0xB4, 4, 1, 0x0, 0x0, 0x0, 0x0, 0x0, 0x0⟩ /- CIP_KEY_CTL -/,
  ⟨0xB8, 4, 1, 0x0, 0x0, 0x0, 0x0, 0x0, 0x0⟩ /- CIP_KEY_STAT -/,
  ⟨0xBC, 4, 1, 0x0, 0x0, 0x0, 0x0, 0x0, 0x0⟩ /- CIP_RESET -/,
  ⟨0xC0, 4, 1, 0x20000000, 0x0, 0x0, 0x0, 0x0, 0x0⟩ /- CIP_STAT -/,
  ⟨0xC4, 4, 1, 0x0, 0x0, 0x0, 0x0, 0x0, 0x0⟩ /- CIP_CNT_DONE -/,
  ⟨0xC8, 4, 1, 0x0, 0x0, 0x0, 0x0, 0x0, 0x0⟩ /- CIP_CNT_ABORT -/,
  ⟨0xCC, 4, 1, 0x0, 0x0, 0x0, 0x0, 0x0, 0x0⟩ /- CIP_CNT_CLR -/,
  ⟨0x100, 4, 48, 0x0, 0x0, 0x0, 0x0, 0xC01F007F, 0x0⟩ /- CIP_SLOT_POL -/]

/-- Register map of the CIP page, part 2. -/
def regMapCipb : List RegEntry := [
  ⟨0x200, 4, 48, 0x0, 0x0, 0x0, 0x0, 0x0, 0x0⟩ /- CIP_SLOT_STAT -/]

/-- The CIP block (Table 17.1). -/
def blockCip : PageBlock := ⟨0x040, 1, [1, 3, 3, 2, 1, 0, 1], regMapCipa ++ regMapCipb⟩

/-- Register map of the SLR page. -/
def regMapSlr : List RegEntry := [
  ⟨0x40, 4, 1, 0x0, 0x0, 0x0, 0x0, 0x0, 0x0⟩ /- SLR_STAT -/,
  ⟨0x44, 4, 1, 0x0, 0x0, 0x0, 0x0, 0x0, 0x0⟩ /- SLR_CNT_MASK -/,
  ⟨0x48, 4, 1, 0x0, 0x0, 0x0, 0x0, 0x0, 0x0⟩ /- SLR_CNT_OND -/,
  ⟨0x4C, 4, 1, 0x0, 0x0, 0x0, 0x0, 0x0, 0x0⟩ /- SLR_CNT_GRACE -/,
  ⟨0x50, 4, 1, 0x0, 0x0, 0x0, 0x0, 0x0, 0x0⟩ /- SLR_WAIT -/,
  ⟨0x54, 4, 1, 0x0, 0x0, 0x0, 0x0, 0x0, 0x0⟩ /- SLR_CNT_CLR -/]

/-- The SLR block (Table 17.1). -/
def blockSlr : PageBlock := ⟨0x041, 1, [1, 3, 2], regMapSlr⟩

/-- Register map of the CPX page. -/
def regMapCpx : List RegEntry := [
  ⟨0x40, 4, 1, 0x0, 0x0, 0x0, 0x0, 0x0, 0x0⟩ /- CPX_MTIME_LO -/,
  ⟨0x44, 4, 1, 0x0, 0x0, 0x0, 0x0, 0x0, 0x0⟩ /- CPX_MTIME_HI -/,
  ⟨0x50, 8, 4, 0xFFFFFFFF, 0xFFFFFFFF, 0x0, 0x0, 0x0, 0x0⟩ /- CPX_MTIMECMP_LO -/,
  ⟨0x54, 8, 4, 0x7FFFFFFF, 0xFFFFFFFF, 0x0, 0x0, 0x0, 0x0⟩ /- CPX_MTIMECMP_HI -/,
  ⟨0x80, 4, 4, 0x0, 0x0, 0x0, 0x0, 0x0, 0x0⟩ /- CPX_CORE_STAT -/,
  ⟨0x90, 4, 4, 0x0, 0x0, 0x0, 0x0, 0x0, 0x0⟩ /- CPX_PC -/,
  ⟨0xA0, 4, 1, 0x0, 0x0, 0x0, 0x0, 0x0, 0x0⟩ /- CPX_CNT_CLR -/]

/-- The CPX block (Table 17.1). -/
def blockCpx : PageBlock := ⟨0x048, 1, [1], regMapCpx⟩

/-- Register map of the SPM page. -/
def regMapSpm : List RegEntry := [
  ⟨0x40, 4, 16, 0x0, 0x87FFFFFF, 0x0, 0x0, 0x0, 0x0⟩ /- SPM_CASE_CFG -/,
  ⟨0x80, 4, 1, 0x2, 0xFF, 0x0, 0x0, 0x0, 0x0⟩ /- SPM_STARVE_CFG -/,
  ⟨0x84, 4, 1, 0x0, 0x0, 0x0, 0x0, 0x0, 0x0⟩ /- SPM_STARVE_LAST -/,
  ⟨0x88, 4, 1, 0x0, 0x0, 0x0, 0x0, 0x0, 0x0⟩ /- SPM_PAR_CNT -/,
  ⟨0x8C, 4, 1, 0x0, 0x0, 0x0, 0x0, 0x0, 0x0⟩ /- SPM_PAR_LAST -/,
  ⟨0x90, 4, 1, 0x0, 0x0, 0x0, 0x0, 0x0, 0x0⟩ /- SPM_PAR_LAST_M -/,
  ⟨0x94, 4, 1, 0x0, 0x0, 0x0, 0x0, 0x0, 0x0⟩ /- SPM_CNT_CLR -/,
  ⟨0xC0, 4, 16, 0x0, 0x0, 0x0, 0x0, 0x0, 0x0⟩ /- SPM_STARVE_CNT -/]

/-- The SPM block (Table 17.1). -/
def blockSpm : PageBlock := ⟨0x049, 1, [1, 2, 0], regMapSpm⟩

/-- Register map of the MBX page. -/
def regMapMbx : List RegEntry := [
  ⟨0x40, 4, 1, 0x0, 0x0, 0x0, 0x0, 0x0, 0x0⟩ /- MBX_INBOX -/,
  ⟨0x44, 4, 1, 0x0, 0x0, 0x0, 0x0, 0x0, 0x0⟩ /- MBX_CROSSED -/,
  ⟨0x80, 4, 32, 0x0, 0x0, 0x0, 0x0, 0x0, 0x800000FF⟩ /- MBX_BIND -/,
  ⟨0x100, 4, 32, 0x0, 0x0, 0x0, 0x0, 0x0, 0x0⟩ /- MBX_CH -/,
  ⟨0x800, 4, 512, 0x0, 0xFFFFFFFF, 0x0, 0x0, 0x0, 0x0⟩ /- MBX_DATA -/]

/-- The MBX block (Table 17.1). -/
def blockMbx : PageBlock := ⟨0x04A, 1, [0], regMapMbx⟩

/-- Register map of the MTX page. -/
def regMapMtx : List RegEntry := [
  ⟨0x40, 4, 1, 0x0, 0x0, 0x0, 0x0, 0x0, 0x0⟩ /- MTX_DT_FIRST_ADDR -/,
  ⟨0x44, 4, 1, 0x0, 0x0, 0x0, 0x0, 0x0, 0x0⟩ /- MTX_DT_FIRST_INFO -/,
  ⟨0x48, 4, 1, 0x0, 0x0, 0x0, 0x0, 0x0, 0x0⟩ /- MTX_DT_LAST_ADDR -/,
  ⟨0x4C, 4, 1, 0x0, 0x0, 0x0, 0x0, 0x0, 0x0⟩ /- MTX_DT_LAST_INFO -/,
  ⟨0x50, 4, 1, 0x0, 0x0, 0x0, 0x0, 0x0, 0x0⟩ /- MTX_DT_CNT -/,
  ⟨0x54, 4, 1, 0x0, 0x0, 0x0, 0x0, 0x0, 0x0⟩ /- MTX_DT_CLR -/,
  ⟨0x80, 32, 2, 0x0, 0xFFFFFFFF, 0x0, 0x0, 0x0, 0x0⟩ /- DMA_SRC -/,
  ⟨0x84, 32, 2, 0x0, 0xFFFFFFFF, 0x0, 0x0, 0x0, 0x0⟩ /- DMA_DST -/,
  ⟨0x88, 32, 2, 0x0, 0xFFFFFFFF, 0x0, 0x0, 0x0, 0x0⟩ /- DMA_LEN -/,
  ⟨0x8C, 32, 2, 0x0, 0x0, 0x0, 0x0, 0x0, 0x0⟩ /- DMA_CTL -/,
  ⟨0x90, 32, 2, 0x0, 0x0, 0x0, 0x0, 0x0, 0x0⟩ /- DMA_STAT -/,
  ⟨0x94, 32, 2, 0x0, 0x0, 0x0, 0x0, 0x0, 0x0⟩ /- DMA_DONE -/]

/-- The MTX block (Table 17.1). -/
def blockMtx : PageBlock := ⟨0x04B, 1, [1, 0, 0, 1, 1], regMapMtx⟩

/-- Register map of the MEM page. -/
def regMapMem : List RegEntry := [
  ⟨0x40, 4, 1, 0x0, 0x0, 0x0, 0x0, 0x0, 0x0⟩ /- MEM_STAT -/,
  ⟨0x50, 4, 7, 0x1, 0x7, 0x0, 0x0, 0x0, 0x0⟩ /- MEM_SEG -/,
  ⟨0x70, 4, 1, 0x0, 0x0, 0x0, 0x0, 0x0, 0x0⟩ /- MEM_CNT_REP -/,
  ⟨0x74, 4, 1, 0x0, 0x0, 0x0, 0x0, 0x0, 0x0⟩ /- MEM_CNT_POISON -/,
  ⟨0x78, 4, 1, 0x0, 0x0, 0x0, 0x0, 0x0, 0x0⟩ /- MEM_POISON_ADDR -/,
  ⟨0x7C, 4, 1, 0x0, 0x0, 0x0, 0x0, 0x0, 0x0⟩ /- MEM_POISON_INFO -/,
  ⟨0x80, 4, 1, 0x0, 0x0, 0x0, 0x0, 0x0, 0x0⟩ /- MEM_CNT_CLR -/]

/-- The MEM block (Table 17.1). -/
def blockMem : PageBlock := ⟨0x04C, 1, [0, 2, 1, 3], regMapMem⟩

/-- Register map of the PMC page. -/
def regMapPmc : List RegEntry := [
  ⟨0x40, 4, 1, 0x0, 0x1, 0x0, 0x0, 0x0, 0x0⟩ /- PMC_GCTL -/,
  ⟨0x100, 16, 64, 0x0, 0x800001FF, 0x0, 0x0, 0x0, 0x0⟩ /- PMC_SEL -/,
  ⟨0x104, 16, 64, 0x0, 0xFFFFFFFF, 0x0, 0x0, 0x0, 0x0⟩ /- PMC_LO -/,
  ⟨0x108, 16, 64, 0x0, 0xFFFF, 0x0, 0x0, 0x0, 0x0⟩ /- PMC_HI -/,
  ⟨0x10C, 16, 64, 0x0, 0x0, 0xC0000000, 0x0, 0x0, 0x0⟩ /- PMC_STAT -/,
  ⟨0x600, 16, 32, 0x0, 0x800001FF, 0x0, 0x0, 0x0, 0x0⟩ /- PMC_CSEL -/,
  ⟨0x604, 16, 32, 0x0, 0xFFFFFFFF, 0x0, 0x0, 0x0, 0x0⟩ /- PMC_CLO -/,
  ⟨0x608, 16, 32, 0x0, 0xFFFF, 0x0, 0x0, 0x0, 0x0⟩ /- PMC_CHI -/,
  ⟨0x60C, 16, 32, 0x0, 0x0, 0xC0000000, 0x0, 0x0, 0x0⟩ /- PMC_CSTAT -/]

/-- The PMC block (Table 17.1). -/
def blockPmc : PageBlock := ⟨0x050, 1, [0], regMapPmc⟩

/-- Register map of the EVT page. -/
def regMapEvt : List RegEntry := [
  ⟨0x40, 4, 1, 0x0, 0x873FFFFF, 0x0, 0x0, 0x0, 0x0⟩ /- EVT_RING_CFG -/,
  ⟨0x44, 4, 1, 0x0, 0x0, 0x0, 0x0, 0x0, 0x0⟩ /- EVT_RING_WR -/,
  ⟨0x48, 4, 1, 0x0, 0x3FFF, 0x0, 0x0, 0x0, 0x0⟩ /- EVT_RING_RD -/,
  ⟨0x4C, 4, 1, 0x0, 0x8F001FFF, 0x0, 0x0, 0x0, 0x0⟩ /- EVT_LOG_CFG -/,
  ⟨0x50, 4, 1, 0x0, 0x0, 0x0, 0x0, 0x0, 0x0⟩ /- EVT_LOG_WR -/,
  ⟨0x54, 4, 1, 0x1, 0x0, 0x0, 0x0, 0x0, 0x0⟩ /- EVT_SEQ -/,
  ⟨0x58, 4, 1, 0x0, 0x0, 0x0, 0x0, 0x0, 0x0⟩ /- EVT_CNT_DROP -/,
  ⟨0x5C, 4, 1, 0x0, 0x0, 0x0, 0x0, 0x0, 0x0⟩ /- EVT_CNT_OVW -/,
  ⟨0x60, 4, 1, 0x0, 0x0, 0x0, 0x0, 0x0, 0x0⟩ /- EVT_CNT_SUPP -/,
  ⟨0x64, 4, 1, 0x0, 0x803FFFFF, 0x0, 0x0, 0x0, 0x0⟩ /- EVT_SWB_CFG -/,
  ⟨0x68, 4, 1, 0x0, 0x1FFF, 0x0, 0x0, 0x0, 0x0⟩ /- EVT_SWB_LOG -/,
  ⟨0x6C, 4, 1, 0x0, 0xFFF, 0x0, 0x0, 0x0, 0x0⟩ /- EVT_ALM_IDX -/,
  ⟨0x70, 4, 1, 0x10000064, 0xFF003FFF, 0x0, 0x0, 0x0, 0x0⟩ /- EVT_LV_CFG -/,
  ⟨0x74, 4, 1, 0x0, 0xBF0F0300, 0x0, 0x0, 0x0, 0x0⟩ /- EVT_ROUTE -/,
  ⟨0x78, 4, 1, 0x0, 0xFFFFFFFF, 0x0, 0x0, 0x0, 0x0⟩ /- EVT_ALM_MAJ -/,
  ⟨0x7C, 4, 1, 0xFFFFFFFF, 0xFFFFFFFF, 0x0, 0x0, 0x0, 0x0⟩ /- EVT_ALM_MIN -/,
  ⟨0x80, 4, 4, 0x0, 0x0, 0x1, 0x0, 0x0, 0x0⟩ /- EVT_CORE_PEND -/,
  ⟨0x90, 4, 1, 0xFFFFFFFF, 0x0, 0x0, 0xFFFFFFFF, 0x0, 0x0⟩ /- EVT_MSIX_REARM_LO -/,
  ⟨0x94, 4, 1, 0xFFFFFFFF, 0x0, 0x0, 0xFFFFFFFF, 0x0, 0x0⟩ /- EVT_MSIX_REARM_HI -/,
  ⟨0xC0, 4, 11, 0x0, 0x0, 0x0, 0x0, 0x0, 0x0⟩ /- EVT_ALM_SUM -/,
  ⟨0xF0, 4, 1, 0x0, 0x0, 0x0, 0x0, 0x0, 0x0⟩ /- EVT_CNT_CLR -/,
  ⟨0xF4, 4, 1, 0x0, 0x0, 0x0, 0x0, 0x0, 0x0⟩ /- EVT_SWB_STAT -/]

/-- The EVT block (Table 17.1). -/
def blockEvt : PageBlock := ⟨0x051, 1, [2, 1, 0], regMapEvt⟩

/-- Register map of the LPM page. -/
def regMapLpm : List RegEntry := [
  ⟨0x40, 4, 1, 0x0, 0x3F011F, 0x0, 0x0, 0x0, 0x0⟩ /- LPM_SEL -/,
  ⟨0x44, 4, 1, 0x0, 0x0, 0x0, 0x0, 0x0, 0x0⟩ /- LPM_BIN_INFO -/,
  ⟨0x48, 4, 1, 0x0, 0x0, 0x0, 0x0, 0x0, 0x0⟩ /- LPM_BIN_START_HI -/,
  ⟨0x4C, 4, 1, 0x0, 0x0, 0x0, 0x0, 0x0, 0x0⟩ /- LPM_BIN_START_LO -/,
  ⟨0x50, 4, 1, 0x0, 0x0, 0x0, 0x0, 0x0, 0x0⟩ /- LPM_ES -/,
  ⟨0x54, 4, 1, 0x0, 0x0, 0x0, 0x0, 0x0, 0x0⟩ /- LPM_SES -/,
  ⟨0x58, 4, 1, 0x0, 0x0, 0x0, 0x0, 0x0, 0x0⟩ /- LPM_BBE -/,
  ⟨0x5C, 4, 1, 0x0, 0x0, 0x0, 0x0, 0x0, 0x0⟩ /- LPM_UAS -/,
  ⟨0x60, 4, 1, 0x0, 0x0, 0x0, 0x0, 0x0, 0x0⟩ /- LPM_SLIP -/,
  ⟨0x64, 4, 1, 0x0, 0x0, 0x0, 0x0, 0x0, 0x0⟩ /- LPM_LOSS -/,
  ⟨0x68, 4, 1, 0x0, 0x0, 0x0, 0x0, 0x0, 0x0⟩ /- LPM_UNAV_NE -/,
  ⟨0x6C, 4, 1, 0x0, 0x0, 0x0, 0x0, 0x0, 0x0⟩ /- LPM_UNAV_FE -/,
  ⟨0x80, 4, 10, 0x0, 0xFFFFFFFF, 0x0, 0x0, 0x0, 0x0⟩ /- LPM_THR15 -/,
  ⟨0xC0, 4, 10, 0x0, 0xFFFFFFFF, 0x0, 0x0, 0x0, 0x0⟩ /- LPM_THRDAY -/,
  ⟨0x100, 4, 24, 0x0, 0x0, 0x0, 0x0, 0x0, 0x0⟩ /- LPM_TCA -/]

/-- The LPM block (Table 17.1). -/
def blockLpm : PageBlock := ⟨0x052, 1, [1, 1, 0], regMapLpm⟩

/-- Register map of the LIF page. -/
def regMapLif : List RegEntry := [
  ⟨0x40, 4, 1, 0x0, 0x1FFFFC, 0x0, 0x0, 0x0, 0x0⟩ /- LIF_ADDR -/,
  ⟨0x44, 4, 1, 0x0, 0xFFFFFFFF, 0x0, 0x0, 0x0, 0x0⟩ /- LIF_DATA -/,
  ⟨0x48, 4, 1, 0x0, 0x0, 0x80000000, 0x0, 0x0, 0x0⟩ /- LIF_STAT -/,
  ⟨0x4C, 4, 1, 0x0, 0x0, 0x0, 0x0, 0x0, 0x0⟩ /- LIF_POH -/,
  ⟨0x50, 4, 1, 0x0, 0x0, 0x0, 0x0, 0x0, 0x0⟩ /- LIF_CYCLES -/,
  ⟨0x54, 4, 1, 0x0, 0x0, 0x0, 0x0, 0x0, 0x0⟩ /- LIF_WEAR -/,
  ⟨0x58, 4, 1, 0x1DCD6500, 0xFFFFFFFF, 0x0, 0x0, 0x0, 0x0⟩ /- LIF_WEAR_THR -/,
  ⟨0x60, 4, 1, 0x0, 0x0, 0x0, 0x0, 0x0, 0x0⟩ /- LIF_FAULT_GO -/,
  ⟨0x80, 4, 56, 0x0, 0xFFFFFFFF, 0x0, 0x0, 0x0, 0x0⟩ /- LIF_FAULT_W -/]

/-- The LIF block (Table 17.1). -/
def blockLif : PageBlock := ⟨0x053, 1, [0, 1, 3], regMapLif⟩

/-- Register map of the PER page. -/
def regMapPer : List RegEntry := [
  ⟨0x40, 16, 2, 0x1639, 0x800EFFFF, 0x0, 0x0, 0x0, 0x0⟩ /- PER_UART_CTL -/,
  ⟨0x44, 16, 2, 0x0, 0xFF, 0x0, 0x0, 0x0, 0x0⟩ /- PER_UART_DATA -/,
  ⟨0x48, 16, 2, 0x0, 0x0, 0xF0000000, 0x0, 0x0, 0x0⟩ /- PER_UART_STAT -/,
  ⟨0x80, 32, 4, 0x0, 0x80000003, 0x0, 0x0, 0x0, 0x0⟩ /- PER_I2C_CTL -/,
  ⟨0x84, 32, 4, 0x0, 0x0, 0x0, 0x0, 0x0, 0x0⟩ /- PER_I2C_CMD -/,
  ⟨0x88, 32, 4, 0x0, 0x0, 0x0, 0x0, 0x0, 0x0⟩ /- PER_I2C_STAT -/,
  ⟨0x8C, 32, 4, 0x0, 0xFFFFFFFF, 0x0, 0x0, 0x0, 0x0⟩ /- PER_I2C_DATA -/,
  ⟨0x90, 32, 4, 0x0, 0xFFFFFFFF, 0x0, 0x0, 0x0, 0x0⟩ /- PER_I2C_DATA -/,
  ⟨0x94, 32, 4, 0x0, 0xFFFFFFFF, 0x0, 0x0, 0x0, 0x0⟩ /- PER_I2C_DATA -/,
  ⟨0x98, 32, 4, 0x0, 0xFFFFFFFF, 0x0, 0x0, 0x0, 0x0⟩ /- PER_I2C_DATA -/,
  ⟨0x100, 4, 1, 0x0, 0x3, 0x0, 0x0, 0x0, 0x0⟩ /- PER_QSPI_CTL -/,
  ⟨0x104, 4, 1, 0x0, 0x0, 0x0, 0x0, 0x0, 0x0⟩ /- PER_QSPI_CMD -/,
  ⟨0x108, 4, 1, 0x0, 0xFFFFFFFF, 0x0, 0x0, 0x0, 0x0⟩ /- PER_QSPI_ADDR -/,
  ⟨0x10C, 4, 1, 0x0, 0x0, 0x0, 0x0, 0x0, 0x0⟩ /- PER_QSPI_STAT -/,
  ⟨0x140, 4, 1, 0x0, 0xFFFFFFFF, 0x0, 0x0, 0x0, 0x0⟩ /- PER_GPIO_OUT -/,
  ⟨0x144, 4, 1, 0x0, 0x0, 0x0, 0x0, 0x0, 0x0⟩ /- PER_GPIO_IN -/,
  ⟨0x148, 4, 1, 0x0, 0xFFFF0000, 0xFFFF, 0x0, 0x0, 0x0⟩ /- PER_GPIO_EDGE -/,
  ⟨0x160, 4, 1, 0x1, 0x3, 0x0, 0x0, 0x0, 0x0⟩ /- PER_AVS_CTL -/,
  ⟨0x164, 4, 1, 0x0, 0x0, 0x0, 0x0, 0x0, 0x0⟩ /- PER_AVS_STAT -/,
  ⟨0x168, 4, 1, 0x0, 0x0, 0x0, 0x0, 0x0, 0x0⟩ /- PER_CNT_CLR -/,
  ⟨0x180, 4, 1, 0x0, 0x3, 0x0, 0x0, 0x0, 0x0⟩ /- PER_ALM_CTL -/,
  ⟨0x184, 4, 1, 0x0, 0x0, 0x0, 0x0, 0x0, 0x0⟩ /- PER_ALM_STAT -/,
  ⟨0x200, 4, 64, 0x0, 0xFFFFFFFF, 0x0, 0x0, 0x0, 0x0⟩ /- PER_QSPI_DATA -/]

/-- The PER block (Table 17.1). -/
def blockPer : PageBlock := ⟨0x058, 1, [1, 0, 1, 0, 0, 1], regMapPer⟩

/-- Register map of the LRX pages. -/
def regMapLrx : List RegEntry := [
  ⟨0x40, 4, 1, 0x0, 0x301, 0x0, 0x0, 0x0, 0x0⟩ /- LRX_CTL -/,
  ⟨0x44, 4, 1, 0x10000000, 0x0, 0x0, 0x0, 0x0, 0x0⟩ /- LRX_STAT -/,
  ⟨0x48, 4, 1, 0x7, 0x0, 0x0, 0x0, 0x0, 0x0⟩ /- LRX_DEF_RAW -/,
  ⟨0x4C, 4, 1, 0x0, 0x0, 0x0, 0x0, 0x0, 0x0⟩ /- LRX_ALIGN_DLY -/,
  ⟨0x50, 4, 1, 0x101, 0xF7F, 0x0, 0x0, 0x0, 0x0⟩ /- LRX_WIN -/,
  ⟨0x54, 4, 1, 0x280050, 0xFFFFFFFF, 0x0, 0x0, 0x0, 0x0⟩ /- LRX_EXC_THR -/,
  ⟨0x58, 4, 1, 0x15A1, 0x1FFFF, 0x0, 0x0, 0x0, 0x0⟩ /- LRX_DEG_DECL -/,
  ⟨0x5C, 4, 1, 0xAD0, 0x1FFFF, 0x0, 0x0, 0x0, 0x0⟩ /- LRX_DEG_CLR -/,
  ⟨0x60, 4, 1, 0x0, 0xFF0F, 0x0, 0x80, 0x0, 0x0⟩ /- LRX_BOND -/,
  ⟨0x64, 4, 1, 0x0, 0x0, 0x0, 0x0, 0x0, 0x0⟩ /- LRX_BOND_STAT -/,
  ⟨0x68, 4, 1, 0x0, 0x1, 0x0, 0x0, 0x0, 0x0⟩ /- LRX_EQ -/,
  ⟨0x6C, 4, 1, 0x0, 0x0, 0x0, 0x0, 0x0, 0x0⟩ /- LRX_EYE -/,
  ⟨0x70, 4, 1, 0x0, 0x0, 0x0, 0x0, 0x0, 0x0⟩ /- LRX_CNT_BIP -/,
  ⟨0x74, 4, 1, 0x0, 0x0, 0x0, 0x0, 0x0, 0x0⟩ /- LRX_CNT_EFR -/,
  ⟨0x78, 4, 1, 0x0, 0x0, 0x0, 0x0, 0x0, 0x0⟩ /- LRX_CNT_FAW -/,
  ⟨0x7C, 4, 1, 0x0, 0x0, 0x0, 0x0, 0x0, 0x0⟩ /- LRX_CNT_MFI -/,
  ⟨0x80, 4, 1, 0x0, 0x0, 0x0, 0x0, 0x0, 0x0⟩ /- LRX_CNT_SLIP -/,
  ⟨0x84, 4, 1, 0x0, 0x0, 0x0, 0x0, 0x0, 0x0⟩ /- LRX_CNT_HUNT -/,
  ⟨0x88, 4, 1, 0x0, 0x0, 0x0, 0x0, 0x0, 0x0⟩ /- LRX_CNT_CLR -/]

/-- The LRX block (Table 17.1). -/
def blockLrx : PageBlock := ⟨0x100, 24, [2, 0, 1, 0, 1, 2, 0], regMapLrx⟩

/-- Register map of the LTX pages. -/
def regMapLtx : List RegEntry := [
  ⟨0x40, 4, 1, 0x0, 0x301, 0x0, 0x0, 0x0, 0x0⟩ /- LTX_CTL -/,
  ⟨0x44, 4, 1, 0x0, 0x3, 0x0, 0x0, 0x0, 0x0⟩ /- LTX_TEST -/,
  ⟨0x48, 4, 1, 0x3F00, 0x1F3F1F, 0x0, 0x0, 0x0, 0x0⟩ /- LTX_FFE -/,
  ⟨0x4C, 4, 1, 0x100, 0x0, 0x0, 0x0, 0x0, 0x0⟩ /- LTX_STAT -/]

/-- The LTX block (Table 17.1). -/
def blockLtx : PageBlock := ⟨0x120, 24, [0], regMapLtx⟩

/-- Register map of the LOH pages, part 1. -/
def regMapLoha : List RegEntry := [
  ⟨0x40, 4, 1, 0x0, 0xE000001F, 0x0, 0x0, 0x0, 0x0⟩ /- LOH_CTL -/,
  ⟨0x44, 4, 1, 0x7E7E0000, 0xFFFF0F07, 0x0, 0x0, 0x0, 0x0⟩ /- LOH_DCC_CTL -/,
  ⟨0x48, 4, 1, 0x0, 0xC0000000, 0x0, 0x0, 0x0, 0x0⟩ /- LOH_SEAL -/,
  ⟨0x4C, 4, 1, 0x0, 0xFFFFFFFF, 0x0, 0x0, 0x0, 0x0⟩ /- LOH_SEAL_RXHI -/,
  ⟨0x50, 4, 1, 0x0, 0x0, 0x0, 0x0, 0x0, 0x0⟩ /- LOH_SEAL_STAT -/,
  ⟨0x54, 4, 1, 0x0, 0x0, 0x0, 0x0, 0x0, 0x0⟩ /- LOH_SEAL_SLAST_LO -/,
  ⟨0x58, 4, 1, 0x0, 0x0, 0x0, 0x0, 0x0, 0x0⟩ /- LOH_SEAL_SLAST_HI -/,
  ⟨0x5C, 4, 1, 0xFF00, 0x0, 0x0, 0x0, 0x0, 0x0⟩ /- LOH_RX_STAT -/,
  ⟨0x60, 4, 8, 0x0, 0x0, 0x0, 0x0, 0x0, 0x0⟩ /- LOH_RX_MOB -/,
  ⟨0x80, 4, 1, 0x0, 0x0, 0x0, 0x0, 0x0, 0x0⟩ /- LOH_RX_CAPS -/,
  ⟨0x84, 4, 1, 0x0, 0x0, 0x0, 0x0, 0x0, 0x0⟩ /- LOH_CNT_GARB -/,
  ⟨0x88, 4, 1, 0x0, 0x0, 0x0, 0x0, 0x0, 0x0⟩ /- LOH_CNT_APS -/,
  ⟨0x8C, 4, 1, 0x0, 0x0, 0x0, 0x0, 0x0, 0x0⟩ /- LOH_CNT_AUTH -/,
  ⟨0x90, 4, 1, 0x0, 0x0, 0x0, 0x0, 0x0, 0x0⟩ /- LOH_CNT_MISC -/,
  ⟨0x94, 4, 1, 0x0, 0x0, 0x0, 0x0, 0x0, 0x0⟩ /- LOH_CNT_CLR -/,
  ⟨0xA0, 16, 4, 0x0, 0x8F3FFFFF, 0x0, 0x0, 0x0, 0x0⟩ /- LOH_RING_CFG -/,
  ⟨0xA4, 32, 2, 0x0, 0x0, 0x0, 0x0, 0x0, 0x0⟩ /- LOH_RING_WR rings 0, 2 -/,
  ⟨0xA8, 32, 2, 0x0, 0xFFFF, 0x0, 0x0, 0x0, 0x0⟩ /- LOH_RING_RD rings 0, 2 -/,
  ⟨0xAC, 16, 4, 0x0, 0x0, 0x0, 0x0, 0x0, 0x0⟩ /- LOH_RING_CNT -/,
  ⟨0xB4, 32, 2, 0x0, 0xFFFF, 0x0, 0x0, 0x0, 0x0⟩ /- LOH_RING_WR rings 1, 3 -/,
  ⟨0xB8, 32, 2, 0x0, 0x0, 0x0, 0x0, 0x0, 0x0⟩ /- LOH_RING_RD rings 1, 3 -/,
  ⟨0x100, 4, 16, 0x0, 0xFFFFFFFF, 0x0, 0x0, 0x0, 0x0⟩ /- LOH_TRACE_TX -/,
  ⟨0x140, 4, 16, 0x0, 0xFFFFFFFF, 0x0, 0x0, 0x0, 0x0⟩ /- LOH_TRACE_EXP -/,
  ⟨0x180, 4, 16, 0x0, 0x0, 0x0, 0x0, 0x0, 0x0⟩ /- LOH_TRACE_RX -/]

/-- Register map of the LOH pages, part 2. -/
def regMapLohb : List RegEntry := [
  ⟨0x1C0, 4, 8, 0x0, 0x0, 0x0, 0x0, 0x0, 0x0⟩ /- LOH_RX_TIME -/]

/-- The LOH block (Table 17.1). -/
def blockLoh : PageBlock := ⟨0x140, 24, [0, 0, 1, 1, 2, 0, 0, 0], regMapLoha ++ regMapLohb⟩

/-- Table 17.1, in page order. -/
def pageBlocks : List PageBlock := [
  blockTop, blockDir, blockHst, blockTmu, blockTbs, blockTbl, blockUpr, blockXcc,
  blockCmp, blockPgs, blockLgr, blockMgn, blockOhc, blockHl, blockRl, blockPl,
  blockCip, blockSlr, blockCpx, blockSpm, blockMbx, blockMtx, blockMem, blockPmc,
  blockEvt, blockLpm, blockLif, blockPer, blockLrx, blockLtx, blockLoh]

end Sys2Proof.Machine
end

