-- ==== Sys2Proof/Machine/RegNames.lean ====
section
/-! DEFINITION. The names of the registers (namespace `R`: the address, page × 0x1000 + offset) and of their fields
(namespace `F`), as the chapters spell them. The first argument of an indexed name is the page's instance where the block
has several pages; the others are the register's own indices, in the order of the spec's name. -/

namespace Sys2Proof.Machine.R

/-! The common page header (R474): the argument is the page number. -/

def HDR_ID (p : Nat) : Nat := p * 0x1000 + 0x0
def HDR_VER (p : Nat) : Nat := p * 0x1000 + 0x4
def HDR_CAP (p : Nat) : Nat := p * 0x1000 + 0x8
def HDR_CTL (p : Nat) : Nat := p * 0x1000 + 0xC
def HDR_STAT (p : Nat) : Nat := p * 0x1000 + 0x10
def HDR_EVT (p : Nat) : Nat := p * 0x1000 + 0x14
def HDR_EVT_EN (p : Nat) : Nat := p * 0x1000 + 0x18
def HDR_EVT_CLASS (p : Nat) : Nat := p * 0x1000 + 0x1C
def HDR_FAULT (p : Nat) : Nat := p * 0x1000 + 0x20
def HDR_SCRATCH (p : Nat) : Nat := p * 0x1000 + 0x24

def TOP_ID : Nat := 0x40
def TOP_DEVID : Nat := 0x44
def TOP_STRAPS : Nat := 0x48
def TOP_MODE : Nat := 0x4C
def TOP_MODE_REQ : Nat := 0x50
def TOP_MODE_STAT : Nat := 0x54
def TOP_MAINT_LANES : Nat := 0x58
def TOP_RST_CAUSE : Nat := 0x5C
def TOP_RESET : Nat := 0x60
def TOP_CORE_RUN : Nat := 0x64
def TOP_REMAP : Nat := 0x68
def TOP_WDOG_CTL : Nat := 0x6C
def TOP_WDOG_KICK : Nat := 0x70
def TOP_WDOG_LEFT : Nat := 0x74
def TOP_RECOV_CAUSE : Nat := 0x78
def TOP_BOOT_STAT : Nat := 0x7C
def TOP_HOSTBOOT : Nat := 0x80
def TOP_COMM_STAT : Nat := 0x84
def TOP_COMM_ROLLBACK : Nat := 0x88
def TOP_MAINT_SET : Nat := 0x8C
def TOP_BOOT_WHY : Nat := 0x90
def LRX_CTL (n : Nat) : Nat := 0x100040 + 0x1000 * n
def LRX_STAT (n : Nat) : Nat := 0x100044 + 0x1000 * n
def LRX_DEF_RAW (n : Nat) : Nat := 0x100048 + 0x1000 * n
def LRX_ALIGN_DLY (n : Nat) : Nat := 0x10004C + 0x1000 * n
def LRX_WIN (n : Nat) : Nat := 0x100050 + 0x1000 * n
def LRX_EXC_THR (n : Nat) : Nat := 0x100054 + 0x1000 * n
def LRX_DEG_DECL (n : Nat) : Nat := 0x100058 + 0x1000 * n
def LRX_DEG_CLR (n : Nat) : Nat := 0x10005C + 0x1000 * n
def LRX_BOND (n : Nat) : Nat := 0x100060 + 0x1000 * n
def LRX_BOND_STAT (n : Nat) : Nat := 0x100064 + 0x1000 * n
def LRX_EQ (n : Nat) : Nat := 0x100068 + 0x1000 * n
def LRX_EYE (n : Nat) : Nat := 0x10006C + 0x1000 * n
def LRX_CNT_BIP (n : Nat) : Nat := 0x100070 + 0x1000 * n
def LRX_CNT_EFR (n : Nat) : Nat := 0x100074 + 0x1000 * n
def LRX_CNT_FAW (n : Nat) : Nat := 0x100078 + 0x1000 * n
def LRX_CNT_MFI (n : Nat) : Nat := 0x10007C + 0x1000 * n
def LRX_CNT_SLIP (n : Nat) : Nat := 0x100080 + 0x1000 * n
def LRX_CNT_HUNT (n : Nat) : Nat := 0x100084 + 0x1000 * n
def LRX_CNT_CLR (n : Nat) : Nat := 0x100088 + 0x1000 * n
def LTX_CTL (n : Nat) : Nat := 0x120040 + 0x1000 * n
def LTX_TEST (n : Nat) : Nat := 0x120044 + 0x1000 * n
def LTX_FFE (n : Nat) : Nat := 0x120048 + 0x1000 * n
def LTX_STAT (n : Nat) : Nat := 0x12004C + 0x1000 * n
def OHC_OSP_CTL (i : Nat) : Nat := 0x30040 + 8 * i
def OHC_OSP_STAT (i : Nat) : Nat := 0x30044 + 8 * i
def OHC_UNIT_CONFL : Nat := 0x30080
def LOH_CTL (n : Nat) : Nat := 0x140040 + 0x1000 * n
def LOH_DCC_CTL (n : Nat) : Nat := 0x140044 + 0x1000 * n
def LOH_SEAL (n : Nat) : Nat := 0x140048 + 0x1000 * n
def LOH_SEAL_RXHI (n : Nat) : Nat := 0x14004C + 0x1000 * n
def LOH_SEAL_STAT (n : Nat) : Nat := 0x140050 + 0x1000 * n
def LOH_RX_STAT (n : Nat) : Nat := 0x14005C + 0x1000 * n
def LOH_RX_MOB (n i : Nat) : Nat := 0x140060 + 0x1000 * n + 4 * i
def LOH_RX_CAPS (n : Nat) : Nat := 0x140080 + 0x1000 * n
def LOH_CNT_GARB (n : Nat) : Nat := 0x140084 + 0x1000 * n
def LOH_CNT_APS (n : Nat) : Nat := 0x140088 + 0x1000 * n
def LOH_CNT_AUTH (n : Nat) : Nat := 0x14008C + 0x1000 * n
def LOH_CNT_MISC (n : Nat) : Nat := 0x140090 + 0x1000 * n
def LOH_CNT_CLR (n : Nat) : Nat := 0x140094 + 0x1000 * n
def LOH_RING_CFG (n i : Nat) : Nat := 0x1400A0 + 0x1000 * n + 16 * i
def LOH_RING_CNT (n i : Nat) : Nat := 0x1400AC + 0x1000 * n + 16 * i
def LOH_RX_TIME (n i : Nat) : Nat := 0x1401C0 + 0x1000 * n + 4 * i
def XCC_CONST : Nat := 0x20040
def XCC_BAD : Nat := 0x20044
def XCC_ASM_TIME : Nat := 0x20048
def XCC_CNT_DM_REP : Nat := 0x2004C
def XCC_CNT_DM_FAIL : Nat := 0x20050
def XCC_CNT_CM : Nat := 0x20054
def XCC_CNT_SEL : Nat := 0x20058
def XCC_CNT_STG : Nat := 0x2005C
def XCC_CNT_OVR : Nat := 0x20060
def XCC_DM_LAST : Nat := 0x20064
def XCC_CNT_CLR : Nat := 0x20068
def XCC_INJ : Nat := 0x2006C
def XCC_BADLOG_STAT : Nat := 0x20070
def XCC_BADLOG (i : Nat) : Nat := 0x20100 + 4 * i
def CMP_STAT : Nat := 0x21040
def CMP_SEAL : Nat := 0x21044
def CMP_SWAP : Nat := 0x21048
def CMP_SWAP_FN : Nat := 0x2104C
def CMP_SWAP_STAT : Nat := 0x21050
def CMP_SEAL_BAD : Nat := 0x21068
def CMP_SEAL_LOC : Nat := 0x2106C
def CMP_SEAL_HOTBANK : Nat := 0x21078
def CMP_SEAL_ASM : Nat := 0x21080
def CMP_SEAL_RATES : Nat := 0x21084
def CMP_COPY : Nat := 0x21088
def CMP_COPY_STAT : Nat := 0x2108C
def CMP_PAIR : Nat := 0x21090
def CMP_CNT : Nat := 0x21094
def LGR_ASM_LIMIT : Nat := 0x24040
def LGR_ASM_CEIL : Nat := 0x24044
def LGR_STAT : Nat := 0x24050
def LGR_CLAIM : Nat := 0x24054
def LGR_CLAIM_STAT : Nat := 0x24058
def MGN_CTL : Nat := 0x25040
def MGN_AVS_CFG : Nat := 0x25044
def MGN_AVS_STAT : Nat := 0x25048
def MGN_SI : Nat := 0x2504C
def MGN_AGE : Nat := 0x25050
def MGN_PS : Nat := 0x25054
def MGN_STAT : Nat := 0x25058
def MGN_MON (i : Nat) : Nat := 0x25100 + 4 * i
def PGS_CMD : Nat := 0x22040
def PGS_CMD_STAT : Nat := 0x22044
def PGS_CTL : Nat := 0x22048
def PGS_EVAL_TIME : Nat := 0x2204C
def PGS_CNT_SW : Nat := 0x22050
def PGS_CNT_APS : Nat := 0x22054
def PGS_CNT_CLR : Nat := 0x22068
def PGS_LG_CFG_A (i : Nat) : Nat := 0x22080 + 16 * i
def PGS_LG_CFG_B (i : Nat) : Nat := 0x22084 + 16 * i
def PGS_LG_STAT (i : Nat) : Nat := 0x22088 + 16 * i
def PGS_LG_CNT (i : Nat) : Nat := 0x2208C + 16 * i
def HL_PTR_BASE (n : Nat) : Nat := 0x38040 + 0x1000 * n
def HL_CIR_IDX (n : Nat) : Nat := 0x38044 + 0x1000 * n
def HL_CIR_OP (n : Nat) : Nat := 0x38054 + 0x1000 * n
def HL_CIR_STAT (n : Nat) : Nat := 0x38058 + 0x1000 * n
def HL_LAST (n : Nat) : Nat := 0x38068 + 0x1000 * n
def HL_CNT_CLR (n : Nat) : Nat := 0x3806C + 0x1000 * n
def RL_SET_IDX (n : Nat) : Nat := 0x3A040 + 0x1000 * n
def RL_SET_OP (n : Nat) : Nat := 0x3A05C + 0x1000 * n
def RL_SET_STAT (n : Nat) : Nat := 0x3A060 + 0x1000 * n
def RL_CTL (n : Nat) : Nat := 0x3A064 + 0x1000 * n
def RL_TRIG (n : Nat) : Nat := 0x3A068 + 0x1000 * n
def RL_TRIG_PG (n : Nat) : Nat := 0x3A06C + 0x1000 * n
def RL_POST (n : Nat) : Nat := 0x3A070 + 0x1000 * n
def RL_STAT (n : Nat) : Nat := 0x3A074 + 0x1000 * n
def RL_CNT_CLR (n : Nat) : Nat := 0x3A090 + 0x1000 * n
def PL_GRP_IDX (n : Nat) : Nat := 0x3C040 + 0x1000 * n
def PL_GRP_SYNC (n : Nat) : Nat := 0x3C054 + 0x1000 * n
def PL_GRP_OP (n : Nat) : Nat := 0x3C058 + 0x1000 * n
def PL_GRP_STAT (n : Nat) : Nat := 0x3C05C + 0x1000 * n
def PL_SNAP (n : Nat) : Nat := 0x3C060 + 0x1000 * n
def PL_INJ (n : Nat) : Nat := 0x3C06C + 0x1000 * n
def TMU_TT_GLOBAL : Nat := 0x10040
def TMU_REFIN_CFG : Nat := 0x10044
def TMU_STAT : Nat := 0x10048
def TMU_PHASE : Nat := 0x1004C
def TMU_HO_N : Nat := 0x1005C
def TMU_OUT_CTL : Nat := 0x10060
def TMU_CAND_MAP : Nat := 0x10064
def TMU_CNT : Nat := 0x10068
def TMU_CNT_CLR : Nat := 0x1006C
def TMU_CAND_STAT (i : Nat) : Nat := 0x10100 + 16 * i
def TMU_CAND_FREQ (i : Nat) : Nat := 0x10104 + 16 * i
def TMU_CAND_TIE (i : Nat) : Nat := 0x10108 + 16 * i
def TBS_CTL (i : Nat) : Nat := 0x11040 + 64 * i
def TBS_STAT (i : Nat) : Nat := 0x11044 + 64 * i
def TBS_CMD (i : Nat) : Nat := 0x11048 + 64 * i
def TBS_JUMP (i : Nat) : Nat := 0x1107C + 64 * i
def TBS_SEL_CMD : Nat := 0x110C0
def TBS_SEL_STAT : Nat := 0x110C4
def TBS_CONV_STAT : Nat := 0x110F8
def TBS_RX_DOM : Nat := 0x11108
def TBS_MFS_SEL : Nat := 0x11140
def TBS_MFS_STAT : Nat := 0x11144
def TBS_MFS_XSEQ : Nat := 0x11148
def TBS_TXQ_W0 (i : Nat) : Nat := 0x111D0 + 32 * i
def TBS_TXQ_STAT (i : Nat) : Nat := 0x111E0 + 32 * i
def TBS_CMP_CTL (i : Nat) : Nat := 0x11240 + 16 * i
def TBS_CAL (i : Nat) : Nat := 0x11300 + 4 * i
def TBL_CTL : Nat := 0x12040
def TBL_NSEC : Nat := 0x12044
def TBL_SEC_LO : Nat := 0x12048
def TBL_SEC_HI : Nat := 0x1204C
def UPR_CFG : Nat := 0x18040
def UPR_MATE_CFG : Nat := 0x18044
def UPR_STAT : Nat := 0x18048
def UPR_MATE_STATE : Nat := 0x1805C
def UPR_MATE_PROT : Nat := 0x18060
def UPR_PHASE : Nat := 0x18064
def UPR_WTR : Nat := 0x18074
def UPR_CNT_CLR : Nat := 0x1808C
def CIP_LATCH : Nat := 0x40040
def CIP_LEASE : Nat := 0x40044
def CIP_LATCH_STAT : Nat := 0x40048
def CIP_JOB_CTL : Nat := 0x4004C
def CIP_JOB_GO : Nat := 0x40080
def CIP_JOB_STAT : Nat := 0x40084
def CIP_JOB_DONE : Nat := 0x40088
def CIP_KEY_SEL : Nat := 0x40090
def CIP_KEY_W (i : Nat) : Nat := 0x40094 + 4 * i
def CIP_KEY_CTL : Nat := 0x400B4
def CIP_KEY_STAT : Nat := 0x400B8
def CIP_RESET : Nat := 0x400BC
def CIP_STAT : Nat := 0x400C0
def CIP_CNT_CLR : Nat := 0x400CC
def CIP_SLOT_POL (i : Nat) : Nat := 0x40100 + 4 * i
def CIP_SLOT_STAT (i : Nat) : Nat := 0x40200 + 4 * i
def SLR_STAT : Nat := 0x41040
def SLR_CNT_MASK : Nat := 0x41044
def SLR_CNT_OND : Nat := 0x41048
def SLR_CNT_GRACE : Nat := 0x4104C
def SLR_WAIT : Nat := 0x41050
def SLR_CNT_CLR : Nat := 0x41054
def CPX_CORE_STAT (i : Nat) : Nat := 0x48080 + 4 * i
def CPX_PC (i : Nat) : Nat := 0x48090 + 4 * i
def CPX_CNT_CLR : Nat := 0x480A0
def SPM_CASE_CFG (i : Nat) : Nat := 0x49040 + 4 * i
def SPM_STARVE_CFG : Nat := 0x49080
def SPM_STARVE_LAST : Nat := 0x49084
def SPM_PAR_CNT : Nat := 0x49088
def SPM_CNT_CLR : Nat := 0x49094
def SPM_STARVE_CNT (i : Nat) : Nat := 0x490C0 + 4 * i
def MBX_BIND (i : Nat) : Nat := 0x4A080 + 4 * i
def MBX_CH (i : Nat) : Nat := 0x4A100 + 4 * i
def MBX_DATA (i j : Nat) : Nat := 0x4A800 + 64 * i + 4 * j
def DMA_CTL (i : Nat) : Nat := 0x4B08C + 32 * i
def MEM_STAT : Nat := 0x4C040
def MEM_SEG (i : Nat) : Nat := 0x4C050 + 4 * i
def MEM_CNT_CLR : Nat := 0x4C080
def LPM_SEL : Nat := 0x52040
def LPM_BIN_INFO : Nat := 0x52044
def LPM_TCA (i : Nat) : Nat := 0x52100 + 4 * i
def PMC_GCTL : Nat := 0x50040
def EVT_RING_CFG : Nat := 0x51040
def EVT_LOG_CFG : Nat := 0x5104C
def EVT_ALM_IDX : Nat := 0x5106C
def EVT_LV_CFG : Nat := 0x51070
def EVT_ROUTE : Nat := 0x51074
def EVT_CORE_PEND (i : Nat) : Nat := 0x51080 + 4 * i
def EVT_ALM_SUM (i : Nat) : Nat := 0x510C0 + 4 * i
def EVT_CNT_CLR : Nat := 0x510F0
def EVT_SWB_STAT : Nat := 0x510F4
def LIF_STAT : Nat := 0x53048
def LIF_FAULT_GO : Nat := 0x53060
def LIF_FAULT_W (i : Nat) : Nat := 0x53080 + 4 * i
def DIR_N : Nat := 0x1040
def HST_CTL : Nat := 0x8040
def HST_STAT : Nat := 0x8044
def HST_APERTURE : Nat := 0x8048
def HST_SUBSYS : Nat := 0x804C
def HST_CNT : Nat := 0x8050
def HST_CNT_CLR : Nat := 0x8054
def PER_UART_CTL (i : Nat) : Nat := 0x58040 + 16 * i
def PER_UART_DATA (i : Nat) : Nat := 0x58044 + 16 * i
def PER_UART_STAT (i : Nat) : Nat := 0x58048 + 16 * i
def PER_I2C_CTL (i : Nat) : Nat := 0x58080 + 32 * i
def PER_I2C_CMD (i : Nat) : Nat := 0x58084 + 32 * i
def PER_I2C_STAT (i : Nat) : Nat := 0x58088 + 32 * i
def PER_I2C_DATA (i j : Nat) : Nat := 0x5808C + 32 * i + 4 * j
def PER_QSPI_CTL : Nat := 0x58100
def PER_QSPI_CMD : Nat := 0x58104
def PER_QSPI_ADDR : Nat := 0x58108
def PER_QSPI_STAT : Nat := 0x5810C
def PER_QSPI_DATA (i : Nat) : Nat := 0x58200 + 4 * i
def PER_AVS_CTL : Nat := 0x58160
def PER_AVS_STAT : Nat := 0x58164
def PER_CNT_CLR : Nat := 0x58168
def PER_ALM_CTL : Nat := 0x58180
def PER_ALM_STAT : Nat := 0x58184
def LOH_SEAL_SLAST_LO (n : Nat) : Nat := 0x140054 + 0x1000 * n
def LOH_SEAL_SLAST_HI (n : Nat) : Nat := 0x140058 + 0x1000 * n
def LOH_RING_WR (n i : Nat) : Nat := 0x1400A4 + 0x1000 * n + 16 * i
def LOH_RING_RD (n i : Nat) : Nat := 0x1400A8 + 0x1000 * n + 16 * i
def LOH_TRACE_TX (n i : Nat) : Nat := 0x140100 + 0x1000 * n + 4 * i
def LOH_TRACE_EXP (n i : Nat) : Nat := 0x140140 + 0x1000 * n + 4 * i
def LOH_TRACE_RX (n i : Nat) : Nat := 0x140180 + 0x1000 * n + 4 * i
def CMP_SWAP_TGT : Nat := 0x21054
def CMP_ACT_FN : Nat := 0x21058
def CMP_FP_STBY : Nat := 0x2105C
def CMP_FP_ACTIVE : Nat := 0x21060
def CMP_FP_MATE : Nat := 0x21064
def CMP_SEAL_DM : Nat := 0x21070
def CMP_SEAL_SELRD : Nat := 0x21074
def CMP_SEAL_HOTRD : Nat := 0x2107C
def LGR_ASM_ACT : Nat := 0x24048
def LGR_ASM_STBY : Nat := 0x2404C
def LGR_ACCT_LIM (i : Nat) : Nat := 0x24060 + 16 * i
def LGR_ACCT_USED (i : Nat) : Nat := 0x24064 + 16 * i
def LGR_ACCT_SW (i : Nat) : Nat := 0x24068 + 16 * i
def PGS_N_PROT : Nat := 0x22058
def PGS_N_FROZEN : Nat := 0x2205C
def PGS_N_FELOST : Nat := 0x22060
def PGS_N_FEMISM : Nat := 0x22064
def HL_CIR_W0 (n : Nat) : Nat := 0x38048 + 0x1000 * n
def HL_CIR_W1 (n : Nat) : Nat := 0x3804C + 0x1000 * n
def HL_CIR_W2 (n : Nat) : Nat := 0x38050 + 0x1000 * n
def HL_CNT_OVF (n : Nat) : Nat := 0x3805C + 0x1000 * n
def HL_CNT_UNF (n : Nat) : Nat := 0x38060 + 0x1000 * n
def HL_CNT_POISON (n : Nat) : Nat := 0x38064 + 0x1000 * n
def RL_SET_W (n i : Nat) : Nat := 0x3A044 + 0x1000 * n + 4 * i
def RL_SET_W5 (n : Nat) : Nat := 0x3A058 + 0x1000 * n
def RL_TRIG_FN (n : Nat) : Nat := 0x3A078 + 0x1000 * n
def RL_FRZ_FN (n : Nat) : Nat := 0x3A07C + 0x1000 * n
def RL_ARM_FN (n : Nat) : Nat := 0x3A080 + 0x1000 * n
def RL_CNT (n : Nat) : Nat := 0x3A084 + 0x1000 * n
def RL_CNT_LATE (n : Nat) : Nat := 0x3A088 + 0x1000 * n
def RL_CNT_POISON (n : Nat) : Nat := 0x3A08C + 0x1000 * n
def PL_GRP_W0 (n : Nat) : Nat := 0x3C044 + 0x1000 * n
def PL_GRP_W1 (n : Nat) : Nat := 0x3C048 + 0x1000 * n
def PL_GRP_ERR (n : Nat) : Nat := 0x3C04C + 0x1000 * n
def PL_GRP_FRAMES (n : Nat) : Nat := 0x3C050 + 0x1000 * n
def PL_SYNC_LO (n : Nat) : Nat := 0x3C064 + 0x1000 * n
def PL_SYNC_HI (n : Nat) : Nat := 0x3C068 + 0x1000 * n
def TMU_FREQ : Nat := 0x10050
def TMU_MEDIAN : Nat := 0x10054
def TMU_HO_FREQ : Nat := 0x10058
def TMU_TT_A (i : Nat) : Nat := 0x10080 + 8 * i
def TMU_TT_B (i : Nat) : Nat := 0x10084 + 8 * i
def TBS_INC_INT (i : Nat) : Nat := 0x1104C + 64 * i
def TBS_INC_FRAC (i : Nat) : Nat := 0x11050 + 64 * i
def TBS_STEP_HI (i : Nat) : Nat := 0x11054 + 64 * i
def TBS_STEP_LO (i : Nat) : Nat := 0x11058 + 64 * i
def TBS_STEP_FRAC (i : Nat) : Nat := 0x1105C + 64 * i
def TBS_SLEW_HI (i : Nat) : Nat := 0x11060 + 64 * i
def TBS_SLEW_LO (i : Nat) : Nat := 0x11064 + 64 * i
def TBS_LEFT_HI (i : Nat) : Nat := 0x11068 + 64 * i
def TBS_LEFT_LO (i : Nat) : Nat := 0x1106C + 64 * i
def TBS_TIME_HI (i : Nat) : Nat := 0x11070 + 64 * i
def TBS_TIME_LO (i : Nat) : Nat := 0x11074 + 64 * i
def TBS_TIME_FRAC (i : Nat) : Nat := 0x11078 + 64 * i
def TBS_SEL_OFS_HI : Nat := 0x110C8
def TBS_SEL_OFS_LO : Nat := 0x110CC
def TBS_SEL_OFS_FRAC : Nat := 0x110D0
def TBS_SEL_TIME_HI : Nat := 0x110D4
def TBS_SEL_TIME_LO : Nat := 0x110D8
def TBS_SEL_TIME_FRAC : Nat := 0x110DC
def TBS_FRAME_FN : Nat := 0x110E0
def TBS_FRAME_S_HI : Nat := 0x110E4
def TBS_FRAME_S_LO : Nat := 0x110E8
def TBS_CONV_T_HI : Nat := 0x110EC
def TBS_CONV_T_LO : Nat := 0x110F0
def TBS_CONV_FN : Nat := 0x110F4
def TBS_MOB_DOM : Nat := 0x11100
def TBS_DCCW_STAMP : Nat := 0x11104
def TBS_PPS_CTL : Nat := 0x11110
def TBS_PPS_OFS : Nat := 0x11114
def TBS_PPS_SEQ : Nat := 0x11118
def TBS_PPS_FN : Nat := 0x1111C
def TBS_PPS_A (i : Nat) : Nat := 0x11120 + 4 * i
def TBS_PPS_B (i : Nat) : Nat := 0x1112C + 4 * i
def TBS_MFS_HI (i : Nat) : Nat := 0x11150 + 16 * i
def TBS_MFS_LO (i : Nat) : Nat := 0x11154 + 16 * i
def TBS_MFS_FRAC (i : Nat) : Nat := 0x11158 + 16 * i
def TBS_TXQ_W123 (i j : Nat) : Nat := 0x111D4 + 32 * i + 4 * j
def TBS_CMP_HI (i : Nat) : Nat := 0x11244 + 16 * i
def TBS_CMP_LO (i : Nat) : Nat := 0x11248 + 16 * i
def UPR_COUNT : Nat := 0x1804C
def UPR_MATE_COUNT : Nat := 0x18050
def UPR_MATE_ACK : Nat := 0x18054
def UPR_MATE_DEVID : Nat := 0x18058
def UPR_SUSP_FN : Nat := 0x18068
def UPR_DEC_FN : Nat := 0x1806C
def UPR_HO : Nat := 0x18070
def UPR_EVID_ALIVE : Nat := 0x18078
def UPR_EVID_SILENT : Nat := 0x1807C
def UPR_CNT_PENN : Nat := 0x18080
def UPR_CNT_LINK : Nat := 0x18084
def UPR_CNT_ROLE : Nat := 0x18088
def CIP_JOB_AAD : Nat := 0x40050
def CIP_JOB_AADLEN : Nat := 0x40054
def CIP_JOB_SRC : Nat := 0x40058
def CIP_JOB_DST : Nat := 0x4005C
def CIP_JOB_LEN : Nat := 0x40060
def CIP_JOB_IV (i : Nat) : Nat := 0x40064 + 4 * i
def CIP_JOB_TAG (i : Nat) : Nat := 0x40070 + 4 * i
def CIP_CNT_DONE : Nat := 0x400C4
def CIP_CNT_ABORT : Nat := 0x400C8
def CPX_MTIME_LO : Nat := 0x48040
def CPX_MTIME_HI : Nat := 0x48044
def CPX_MTIMECMP_LO (i : Nat) : Nat := 0x48050 + 8 * i
def CPX_MTIMECMP_HI (i : Nat) : Nat := 0x48054 + 8 * i
def SPM_PAR_LAST : Nat := 0x4908C
def SPM_PAR_LAST_M : Nat := 0x49090
def MBX_INBOX : Nat := 0x4A040
def MBX_CROSSED : Nat := 0x4A044
def MTX_DT_FIRST_ADDR : Nat := 0x4B040
def MTX_DT_LAST_ADDR : Nat := 0x4B048
def MTX_DT_FIRST_INFO : Nat := 0x4B044
def MTX_DT_LAST_INFO : Nat := 0x4B04C
def MTX_DT_CNT : Nat := 0x4B050
def MTX_DT_CLR : Nat := 0x4B054
def DMA_SRC (i : Nat) : Nat := 0x4B080 + 32 * i
def DMA_DST (i : Nat) : Nat := 0x4B084 + 32 * i
def DMA_LEN (i : Nat) : Nat := 0x4B088 + 32 * i
def DMA_STAT (i : Nat) : Nat := 0x4B090 + 32 * i
def DMA_DONE (i : Nat) : Nat := 0x4B094 + 32 * i
def MEM_CNT_REP : Nat := 0x4C070
def MEM_CNT_POISON : Nat := 0x4C074
def MEM_POISON_ADDR : Nat := 0x4C078
def MEM_POISON_INFO : Nat := 0x4C07C
def LPM_BIN_START_HI : Nat := 0x52048
def LPM_BIN_START_LO : Nat := 0x5204C
def LPM_ES : Nat := 0x52050
def LPM_SES : Nat := 0x52054
def LPM_BBE : Nat := 0x52058
def LPM_UAS : Nat := 0x5205C
def LPM_SLIP : Nat := 0x52060
def LPM_LOSS : Nat := 0x52064
def LPM_UNAV_NE : Nat := 0x52068
def LPM_UNAV_FE : Nat := 0x5206C
def LPM_THR15 (i : Nat) : Nat := 0x52080 + 4 * i
def LPM_THRDAY (i : Nat) : Nat := 0x520C0 + 4 * i
def PMC_SEL (i : Nat) : Nat := 0x50100 + 16 * i
def PMC_CSEL (i j : Nat) : Nat := 0x50600 + 128 * i + 16 * j
def PMC_LO (i : Nat) : Nat := 0x50104 + 16 * i
def PMC_HI (i : Nat) : Nat := 0x50108 + 16 * i
def PMC_CLO (i j : Nat) : Nat := 0x50604 + 128 * i + 16 * j
def PMC_CHI (i j : Nat) : Nat := 0x50608 + 128 * i + 16 * j
def PMC_STAT (i : Nat) : Nat := 0x5010C + 16 * i
def PMC_CSTAT (i j : Nat) : Nat := 0x5060C + 128 * i + 16 * j
def EVT_RING_WR : Nat := 0x51044
def EVT_RING_RD : Nat := 0x51048
def EVT_LOG_WR : Nat := 0x51050
def EVT_SEQ : Nat := 0x51054
def EVT_CNT_DROP : Nat := 0x51058
def EVT_CNT_OVW : Nat := 0x5105C
def EVT_CNT_SUPP : Nat := 0x51060
def EVT_SWB_CFG : Nat := 0x51064
def EVT_SWB_LOG : Nat := 0x51068
def EVT_ALM_MAJ : Nat := 0x51078
def EVT_ALM_MIN : Nat := 0x5107C
def EVT_MSIX_REARM_LO : Nat := 0x51090
def EVT_MSIX_REARM_HI : Nat := 0x51094
def LIF_ADDR : Nat := 0x53040
def LIF_DATA : Nat := 0x53044
def LIF_POH : Nat := 0x5304C
def LIF_CYCLES : Nat := 0x53050
def LIF_WEAR : Nat := 0x53054
def LIF_WEAR_THR : Nat := 0x53058
def HST_MSIX_PBA_LO : Nat := 0x8C00
def HST_MSIX_PBA_HI : Nat := 0x8C04
def PER_GPIO_OUT : Nat := 0x58140
def PER_GPIO_IN : Nat := 0x58144
def PER_GPIO_EDGE : Nat := 0x58148
def HST_MSIX_ADDR_LO (i : Nat) : Nat := 0x8800 + 16 * i
def HST_MSIX_ADDR_HI (i : Nat) : Nat := 0x8804 + 16 * i
def HST_MSIX_DATA (i : Nat) : Nat := 0x8808 + 16 * i
def HST_MSIX_CTL (i : Nat) : Nat := 0x880C + 16 * i
def DIR_ENTRY (i : Nat) : Nat := 0x1080 + 4 * i

end Sys2Proof.Machine.R

namespace Sys2Proof.Machine.F

def HDR_CTL_LOCKED (p : Nat) : Fld := ⟨R.HDR_CTL p, 31, 31⟩
def HDR_CTL_ENABLE (p : Nat) : Fld := ⟨R.HDR_CTL p, 0, 0⟩
def HDR_FAULT_RECORDED (p : Nat) : Fld := ⟨R.HDR_FAULT p, 31, 31⟩
def HDR_FAULT_RECORD_TAG (p : Nat) : Fld := ⟨R.HDR_FAULT p, 4, 4⟩
def HDR_FAULT_CAUSE (p : Nat) : Fld := ⟨R.HDR_FAULT p, 3, 0⟩
def TOP_ID_PART : Fld := ⟨R.TOP_ID, 31, 16⟩
def TOP_ID_REV : Fld := ⟨R.TOP_ID, 15, 8⟩
def TOP_DEVID_DEVID : Fld := ⟨R.TOP_DEVID, 31, 0⟩
def TOP_STRAPS_SEC_LOCK : Fld := ⟨R.TOP_STRAPS, 5, 5⟩
def TOP_STRAPS_COMMISSION_EN : Fld := ⟨R.TOP_STRAPS, 4, 4⟩
def TOP_STRAPS_BOOT_SRC : Fld := ⟨R.TOP_STRAPS, 3, 2⟩
def TOP_STRAPS_PAIR_EN : Fld := ⟨R.TOP_STRAPS, 1, 1⟩
def TOP_STRAPS_UNIT_ROLE : Fld := ⟨R.TOP_STRAPS, 0, 0⟩
def TOP_MODE_BUSY : Fld := ⟨R.TOP_MODE, 8, 8⟩
def TOP_MODE_SVC_ROLE : Fld := ⟨R.TOP_MODE, 5, 4⟩
def TOP_MODE_MODE : Fld := ⟨R.TOP_MODE, 2, 0⟩
def TOP_MODE_REQ_REQ : Fld := ⟨R.TOP_MODE_REQ, 2, 0⟩
def TOP_MODE_STAT_LAST_REQ : Fld := ⟨R.TOP_MODE_STAT, 10, 8⟩
def TOP_MODE_STAT_REFUSE : Fld := ⟨R.TOP_MODE_STAT, 3, 0⟩
def TOP_MAINT_LANES_LANES : Fld := ⟨R.TOP_MAINT_LANES, 23, 0⟩
def TOP_RST_CAUSE_PERST : Fld := ⟨R.TOP_RST_CAUSE, 8, 8⟩
def TOP_RST_CAUSE_XO_LOST : Fld := ⟨R.TOP_RST_CAUSE, 5, 5⟩
def TOP_RST_CAUSE_TAP : Fld := ⟨R.TOP_RST_CAUSE, 4, 4⟩
def TOP_RST_CAUSE_SW_SYS : Fld := ⟨R.TOP_RST_CAUSE, 3, 3⟩
def TOP_RST_CAUSE_WDOG : Fld := ⟨R.TOP_RST_CAUSE, 2, 2⟩
def TOP_RST_CAUSE_PIN : Fld := ⟨R.TOP_RST_CAUSE, 1, 1⟩
def TOP_RST_CAUSE_POR : Fld := ⟨R.TOP_RST_CAUSE, 0, 0⟩
def TOP_RESET_KEY : Fld := ⟨R.TOP_RESET, 31, 16⟩
def TOP_RESET_SYS : Fld := ⟨R.TOP_RESET, 0, 0⟩
def TOP_CORE_RUN_RUN : Fld := ⟨R.TOP_CORE_RUN, 3, 0⟩
def TOP_REMAP_REMAP : Fld := ⟨R.TOP_REMAP, 0, 0⟩
def TOP_WDOG_CTL_EN : Fld := ⟨R.TOP_WDOG_CTL, 31, 31⟩
def TOP_WDOG_CTL_TIMEOUT : Fld := ⟨R.TOP_WDOG_CTL, 15, 0⟩
def TOP_WDOG_KICK_CODE : Fld := ⟨R.TOP_WDOG_KICK, 15, 0⟩
def TOP_WDOG_LEFT_LEFT_MS : Fld := ⟨R.TOP_WDOG_LEFT, 15, 0⟩
def TOP_RECOV_CAUSE_CAUSE : Fld := ⟨R.TOP_RECOV_CAUSE, 3, 0⟩
def TOP_BOOT_STAT_IMAGE_VERSION : Fld := ⟨R.TOP_BOOT_STAT, 31, 16⟩
def TOP_BOOT_STAT_FAIL : Fld := ⟨R.TOP_BOOT_STAT, 15, 8⟩
def TOP_BOOT_STAT_SOURCE : Fld := ⟨R.TOP_BOOT_STAT, 7, 4⟩
def TOP_BOOT_STAT_PHASE : Fld := ⟨R.TOP_BOOT_STAT, 3, 0⟩
def TOP_HOSTBOOT_HB_FAIL : Fld := ⟨R.TOP_HOSTBOOT, 2, 2⟩
def TOP_HOSTBOOT_HB_DONE : Fld := ⟨R.TOP_HOSTBOOT, 1, 1⟩
def TOP_HOSTBOOT_HB_READY : Fld := ⟨R.TOP_HOSTBOOT, 0, 0⟩
def TOP_COMM_STAT_SEAL_FAIL : Fld := ⟨R.TOP_COMM_STAT, 18, 18⟩
def TOP_COMM_STAT_SEAL_BUSY : Fld := ⟨R.TOP_COMM_STAT, 17, 17⟩
def TOP_COMM_STAT_VALID : Fld := ⟨R.TOP_COMM_STAT, 16, 16⟩
def TOP_COMM_STAT_GEN : Fld := ⟨R.TOP_COMM_STAT, 15, 0⟩
def TOP_COMM_ROLLBACK_MIN : Fld := ⟨R.TOP_COMM_ROLLBACK, 15, 0⟩
def TOP_MAINT_SET_LANES : Fld := ⟨R.TOP_MAINT_SET, 23, 0⟩
def TOP_BOOT_WHY_HOST : Fld := ⟨R.TOP_BOOT_WHY, 11, 8⟩
def TOP_BOOT_WHY_SLOT_B : Fld := ⟨R.TOP_BOOT_WHY, 7, 4⟩
def TOP_BOOT_WHY_SLOT_A : Fld := ⟨R.TOP_BOOT_WHY, 3, 0⟩
def LRX_CTL_TERM_LOOP (n : Nat) : Fld := ⟨R.LRX_CTL n, 9, 9⟩
def LRX_CTL_RX_INV (n : Nat) : Fld := ⟨R.LRX_CTL n, 8, 8⟩
def LRX_CTL_RATE (n : Nat) : Fld := ⟨R.LRX_CTL n, 0, 0⟩
def LRX_STAT_TOP (n : Nat) : Fld := ⟨R.LRX_STAT n, 31, 28⟩
def LRX_STAT_ALIGN (n : Nat) : Fld := ⟨R.LRX_STAT n, 27, 26⟩
def LRX_STAT_MF_ALIGNED (n : Nat) : Fld := ⟨R.LRX_STAT n, 25, 25⟩
def LRX_STAT_CDR_LOCK (n : Nat) : Fld := ⟨R.LRX_STAT n, 24, 24⟩
def LRX_STAT_EQ_CONV (n : Nat) : Fld := ⟨R.LRX_STAT n, 23, 23⟩
def LRX_STAT_SIG_DET (n : Nat) : Fld := ⟨R.LRX_STAT n, 22, 22⟩
def LRX_STAT_CAND (n : Nat) : Fld := ⟨R.LRX_STAT n, 19, 16⟩
def LRX_STAT_MFI (n : Nat) : Fld := ⟨R.LRX_STAT n, 4, 0⟩
def LRX_DEF_RAW_RAW (n : Nat) : Fld := ⟨R.LRX_DEF_RAW n, 9, 0⟩
def LRX_ALIGN_DLY_VALID (n : Nat) : Fld := ⟨R.LRX_ALIGN_DLY n, 31, 31⟩
def LRX_ALIGN_DLY_DLY (n : Nat) : Fld := ⟨R.LRX_ALIGN_DLY n, 23, 0⟩
def LRX_WIN_DEG_WIN (n : Nat) : Fld := ⟨R.LRX_WIN n, 11, 8⟩
def LRX_WIN_EXC_WIN (n : Nat) : Fld := ⟨R.LRX_WIN n, 6, 0⟩
def LRX_EXC_THR_CLR (n : Nat) : Fld := ⟨R.LRX_EXC_THR n, 31, 16⟩
def LRX_EXC_THR_DECL (n : Nat) : Fld := ⟨R.LRX_EXC_THR n, 15, 0⟩
def LRX_DEG_DECL_DECL (n : Nat) : Fld := ⟨R.LRX_DEG_DECL n, 16, 0⟩
def LRX_DEG_CLR_CLR (n : Nat) : Fld := ⟨R.LRX_DEG_CLR n, 16, 0⟩
def LRX_BOND_GUARD (n : Nat) : Fld := ⟨R.LRX_BOND n, 15, 8⟩
def LRX_BOND_REFORM (n : Nat) : Fld := ⟨R.LRX_BOND n, 7, 7⟩
def LRX_BOND_ID (n : Nat) : Fld := ⟨R.LRX_BOND n, 3, 0⟩
def LRX_BOND_STAT_IN_BOND (n : Nat) : Fld := ⟨R.LRX_BOND_STAT n, 31, 31⟩
def LRX_BOND_STAT_REF (n : Nat) : Fld := ⟨R.LRX_BOND_STAT n, 30, 30⟩
def LRX_BOND_STAT_LEAD (n : Nat) : Fld := ⟨R.LRX_BOND_STAT n, 27, 0⟩
def LRX_EQ_RESTART (n : Nat) : Fld := ⟨R.LRX_EQ n, 1, 1⟩
def LRX_EQ_FREEZE (n : Nat) : Fld := ⟨R.LRX_EQ n, 0, 0⟩
def LRX_EYE_EYE_V (n : Nat) : Fld := ⟨R.LRX_EYE n, 31, 16⟩
def LRX_EYE_EYE_H (n : Nat) : Fld := ⟨R.LRX_EYE n, 15, 0⟩
def LRX_CNT_BIP_BITS (n : Nat) : Fld := ⟨R.LRX_CNT_BIP n, 31, 0⟩
def LRX_CNT_EFR_FRAMES (n : Nat) : Fld := ⟨R.LRX_CNT_EFR n, 31, 0⟩
def LRX_CNT_FAW_FAW (n : Nat) : Fld := ⟨R.LRX_CNT_FAW n, 31, 0⟩
def LRX_CNT_MFI_MFI (n : Nat) : Fld := ⟨R.LRX_CNT_MFI n, 31, 0⟩
def LRX_CNT_SLIP_DEL (n : Nat) : Fld := ⟨R.LRX_CNT_SLIP n, 31, 16⟩
def LRX_CNT_SLIP_REP (n : Nat) : Fld := ⟨R.LRX_CNT_SLIP n, 15, 0⟩
def LRX_CNT_HUNT_AMBIG (n : Nat) : Fld := ⟨R.LRX_CNT_HUNT n, 31, 16⟩
def LRX_CNT_HUNT_LOSS (n : Nat) : Fld := ⟨R.LRX_CNT_HUNT n, 15, 0⟩
def LRX_CNT_CLR_ALL (n : Nat) : Fld := ⟨R.LRX_CNT_CLR n, 0, 0⟩
def LTX_CTL_RDI_FORCE (n : Nat) : Fld := ⟨R.LTX_CTL n, 9, 9⟩
def LTX_CTL_TX_INV (n : Nat) : Fld := ⟨R.LTX_CTL n, 8, 8⟩
def LTX_CTL_AIS_FORCE (n : Nat) : Fld := ⟨R.LTX_CTL n, 0, 0⟩
def LTX_TEST_MODE (n : Nat) : Fld := ⟨R.LTX_TEST n, 1, 0⟩
def LTX_FFE_POST (n : Nat) : Fld := ⟨R.LTX_FFE n, 20, 16⟩
def LTX_FFE_MAIN (n : Nat) : Fld := ⟨R.LTX_FFE n, 13, 8⟩
def LTX_FFE_PRE (n : Nat) : Fld := ⟨R.LTX_FFE n, 4, 0⟩
def LTX_STAT_SOURCE (n : Nat) : Fld := ⟨R.LTX_STAT n, 9, 8⟩
def LTX_STAT_RDI (n : Nat) : Fld := ⟨R.LTX_STAT n, 4, 4⟩
def LTX_STAT_REI (n : Nat) : Fld := ⟨R.LTX_STAT n, 3, 0⟩
def OHC_OSP_CTL_EN (i : Nat) : Fld := ⟨R.OHC_OSP_CTL i, 31, 31⟩
def OHC_OSP_CTL_IDLE (i : Nat) : Fld := ⟨R.OHC_OSP_CTL i, 15, 8⟩
def OHC_OSP_CTL_LANE (i : Nat) : Fld := ⟨R.OHC_OSP_CTL i, 4, 0⟩
def OHC_OSP_STAT_SLIP (i : Nat) : Fld := ⟨R.OHC_OSP_STAT i, 31, 16⟩
def OHC_OSP_STAT_FILL (i : Nat) : Fld := ⟨R.OHC_OSP_STAT i, 8, 0⟩
def OHC_UNIT_CONFL_LANES : Fld := ⟨R.OHC_UNIT_CONFL, 23, 0⟩
def LOH_CTL_EVID_EN (n : Nat) : Fld := ⟨R.LOH_CTL n, 31, 31⟩
def LOH_CTL_ECHO_EN (n : Nat) : Fld := ⟨R.LOH_CTL n, 30, 30⟩
def LOH_CTL_TIM_EN (n : Nat) : Fld := ⟨R.LOH_CTL n, 29, 29⟩
def LOH_CTL_ECHO_LANE (n : Nat) : Fld := ⟨R.LOH_CTL n, 4, 0⟩
def LOH_DCC_CTL_IDLE_W (n : Nat) : Fld := ⟨R.LOH_DCC_CTL n, 31, 24⟩
def LOH_DCC_CTL_IDLE_N (n : Nat) : Fld := ⟨R.LOH_DCC_CTL n, 23, 16⟩
def LOH_DCC_CTL_W_SRC (n : Nat) : Fld := ⟨R.LOH_DCC_CTL n, 11, 10⟩
def LOH_DCC_CTL_N_SRC (n : Nat) : Fld := ⟨R.LOH_DCC_CTL n, 9, 8⟩
def LOH_DCC_CTL_N_OSP (n : Nat) : Fld := ⟨R.LOH_DCC_CTL n, 2, 0⟩
def LOH_SEAL_TX_EN (n : Nat) : Fld := ⟨R.LOH_SEAL n, 31, 31⟩
def LOH_SEAL_RX_EN (n : Nat) : Fld := ⟨R.LOH_SEAL n, 30, 30⟩
def LOH_SEAL_RXHI_HI (n : Nat) : Fld := ⟨R.LOH_SEAL_RXHI n, 31, 0⟩
def LOH_SEAL_STAT_TX_ACTIVE (n : Nat) : Fld := ⟨R.LOH_SEAL_STAT n, 31, 31⟩
def LOH_SEAL_STAT_TX_NOKEY (n : Nat) : Fld := ⟨R.LOH_SEAL_STAT n, 30, 30⟩
def LOH_SEAL_STAT_RX_HAVE_SEQ (n : Nat) : Fld := ⟨R.LOH_SEAL_STAT n, 29, 29⟩
def LOH_RX_STAT_MOB_SEQ (n : Nat) : Fld := ⟨R.LOH_RX_STAT n, 31, 16⟩
def LOH_RX_STAT_AGE (n : Nat) : Fld := ⟨R.LOH_RX_STAT n, 15, 8⟩
def LOH_RX_STAT_FE_ACTIVE (n : Nat) : Fld := ⟨R.LOH_RX_STAT n, 7, 7⟩
def LOH_RX_STAT_SEALED_ACC (n : Nat) : Fld := ⟨R.LOH_RX_STAT n, 6, 6⟩
def LOH_RX_MOB_BYTES (n i : Nat) : Fld := ⟨R.LOH_RX_MOB n i, 31, 0⟩
def LOH_RX_CAPS_CAPS (n : Nat) : Fld := ⟨R.LOH_RX_CAPS n, 31, 0⟩
def LOH_CNT_GARB_GARB (n : Nat) : Fld := ⟨R.LOH_CNT_GARB n, 31, 0⟩
def LOH_CNT_APS_NOGRP (n : Nat) : Fld := ⟨R.LOH_CNT_APS n, 31, 16⟩
def LOH_CNT_APS_MALF (n : Nat) : Fld := ⟨R.LOH_CNT_APS n, 15, 0⟩
def LOH_CNT_AUTH_NOCHK (n : Nat) : Fld := ⟨R.LOH_CNT_AUTH n, 31, 24⟩
def LOH_CNT_AUTH_UNSEALED (n : Nat) : Fld := ⟨R.LOH_CNT_AUTH n, 23, 16⟩
def LOH_CNT_AUTH_REPLAY (n : Nat) : Fld := ⟨R.LOH_CNT_AUTH n, 15, 8⟩
def LOH_CNT_AUTH_TAGFAIL (n : Nat) : Fld := ⟨R.LOH_CNT_AUTH n, 7, 0⟩
def LOH_CNT_MISC_SEAL_LATE (n : Nat) : Fld := ⟨R.LOH_CNT_MISC n, 31, 16⟩
def LOH_CNT_MISC_MISMATCH (n : Nat) : Fld := ⟨R.LOH_CNT_MISC n, 15, 0⟩
def LOH_CNT_CLR_ALL (n : Nat) : Fld := ⟨R.LOH_CNT_CLR n, 0, 0⟩
def LOH_RING_CFG_EN (n i : Nat) : Fld := ⟨R.LOH_RING_CFG n i, 31, 31⟩
def LOH_RING_CFG_SIZE (n i : Nat) : Fld := ⟨R.LOH_RING_CFG n i, 27, 24⟩
def LOH_RING_CFG_BASE (n i : Nat) : Fld := ⟨R.LOH_RING_CFG n i, 21, 0⟩
def LOH_RING_CNT_CNT (n i : Nat) : Fld := ⟨R.LOH_RING_CNT n i, 31, 0⟩
def LOH_RX_TIME_BYTES (n i : Nat) : Fld := ⟨R.LOH_RX_TIME n i, 31, 0⟩
def XCC_CONST_D_RX : Fld := ⟨R.XCC_CONST, 31, 16⟩
def XCC_CONST_D_TX : Fld := ⟨R.XCC_CONST, 15, 0⟩
def XCC_BAD_SEL : Fld := ⟨R.XCC_BAD, 31, 16⟩
def XCC_BAD_ENTRY : Fld := ⟨R.XCC_BAD, 15, 0⟩
def XCC_ASM_TIME_MAX : Fld := ⟨R.XCC_ASM_TIME, 31, 16⟩
def XCC_ASM_TIME_LAST : Fld := ⟨R.XCC_ASM_TIME, 15, 0⟩
def XCC_CNT_DM_REP_REP : Fld := ⟨R.XCC_CNT_DM_REP, 31, 0⟩
def XCC_CNT_DM_FAIL_FAIL : Fld := ⟨R.XCC_CNT_DM_FAIL, 31, 0⟩
def XCC_CNT_CM_FAIL : Fld := ⟨R.XCC_CNT_CM, 31, 16⟩
def XCC_CNT_CM_REP : Fld := ⟨R.XCC_CNT_CM, 15, 0⟩
def XCC_CNT_SEL_FAIL : Fld := ⟨R.XCC_CNT_SEL, 31, 16⟩
def XCC_CNT_SEL_REP : Fld := ⟨R.XCC_CNT_SEL, 15, 0⟩
def XCC_CNT_STG_FAIL : Fld := ⟨R.XCC_CNT_STG, 31, 16⟩
def XCC_CNT_STG_REP : Fld := ⟨R.XCC_CNT_STG, 15, 0⟩
def XCC_CNT_OVR_FRAMES : Fld := ⟨R.XCC_CNT_OVR, 31, 0⟩
def XCC_DM_LAST_VALID : Fld := ⟨R.XCC_DM_LAST, 31, 31⟩
def XCC_DM_LAST_PERSIST : Fld := ⟨R.XCC_DM_LAST, 30, 30⟩
def XCC_DM_LAST_HALF : Fld := ⟨R.XCC_DM_LAST, 29, 29⟩
def XCC_DM_LAST_LANE : Fld := ⟨R.XCC_DM_LAST, 22, 18⟩
def XCC_DM_LAST_SLOT : Fld := ⟨R.XCC_DM_LAST, 17, 0⟩
def XCC_CNT_CLR_BADLOG : Fld := ⟨R.XCC_CNT_CLR, 1, 1⟩
def XCC_CNT_CLR_ALL : Fld := ⟨R.XCC_CNT_CLR, 0, 0⟩
def XCC_INJ_ARM : Fld := ⟨R.XCC_INJ, 31, 31⟩
def XCC_INJ_TARGET : Fld := ⟨R.XCC_INJ, 29, 28⟩
def XCC_INJ_DOUBLE : Fld := ⟨R.XCC_INJ, 27, 27⟩
def XCC_INJ_LOC : Fld := ⟨R.XCC_INJ, 22, 0⟩
def XCC_BADLOG_STAT_OVF : Fld := ⟨R.XCC_BADLOG_STAT, 31, 31⟩
def XCC_BADLOG_STAT_N : Fld := ⟨R.XCC_BADLOG_STAT, 6, 0⟩
def XCC_BADLOG_VALID (i : Nat) : Fld := ⟨R.XCC_BADLOG i, 31, 31⟩
def XCC_BADLOG_SEL (i : Nat) : Fld := ⟨R.XCC_BADLOG i, 30, 30⟩
def XCC_BADLOG_ACTIVE (i : Nat) : Fld := ⟨R.XCC_BADLOG i, 29, 29⟩
def XCC_BADLOG_LOC (i : Nat) : Fld := ⟨R.XCC_BADLOG i, 22, 0⟩
def CMP_STAT_INIT_DONE : Fld := ⟨R.CMP_STAT, 31, 31⟩
def CMP_STAT_SWAP_PENDING : Fld := ⟨R.CMP_STAT, 30, 30⟩
def CMP_STAT_ACT_MEM : Fld := ⟨R.CMP_STAT, 16, 16⟩
def CMP_STAT_SEAL_REFUSE : Fld := ⟨R.CMP_STAT, 15, 12⟩
def CMP_STAT_SEAL_ABORTED : Fld := ⟨R.CMP_STAT, 11, 11⟩
def CMP_STAT_VERDICT : Fld := ⟨R.CMP_STAT, 5, 4⟩
def CMP_STAT_STATE : Fld := ⟨R.CMP_STAT, 1, 0⟩
def CMP_SEAL_GO : Fld := ⟨R.CMP_SEAL, 0, 0⟩
def CMP_SWAP_CANCEL : Fld := ⟨R.CMP_SWAP, 4, 4⟩
def CMP_SWAP_AGREE : Fld := ⟨R.CMP_SWAP, 3, 3⟩
def CMP_SWAP_STRICT : Fld := ⟨R.CMP_SWAP, 2, 2⟩
def CMP_SWAP_SCHED : Fld := ⟨R.CMP_SWAP, 1, 1⟩
def CMP_SWAP_GO : Fld := ⟨R.CMP_SWAP, 0, 0⟩
def CMP_SWAP_FN_T : Fld := ⟨R.CMP_SWAP_FN, 31, 0⟩
def CMP_SWAP_STAT_SCHED_MISSED : Fld := ⟨R.CMP_SWAP_STAT, 9, 9⟩
def CMP_SWAP_STAT_SCHED_LATE : Fld := ⟨R.CMP_SWAP_STAT, 8, 8⟩
def CMP_SWAP_STAT_RESULT : Fld := ⟨R.CMP_SWAP_STAT, 3, 0⟩
def CMP_SEAL_BAD_COUNT : Fld := ⟨R.CMP_SEAL_BAD, 31, 9⟩
def CMP_SEAL_BAD_REASON : Fld := ⟨R.CMP_SEAL_BAD, 5, 0⟩
def CMP_SEAL_LOC_VALID : Fld := ⟨R.CMP_SEAL_LOC, 31, 31⟩
def CMP_SEAL_LOC_SEL : Fld := ⟨R.CMP_SEAL_LOC, 30, 30⟩
def CMP_SEAL_LOC_LOC : Fld := ⟨R.CMP_SEAL_LOC, 22, 0⟩
def CMP_SEAL_HOTBANK_SUBBANK : Fld := ⟨R.CMP_SEAL_HOTBANK, 8, 0⟩
def CMP_SEAL_ASM_CEIL : Fld := ⟨R.CMP_SEAL_ASM, 31, 16⟩
def CMP_SEAL_ASM_ASM : Fld := ⟨R.CMP_SEAL_ASM, 15, 0⟩
def CMP_SEAL_RATES_RATES : Fld := ⟨R.CMP_SEAL_RATES, 23, 0⟩
def CMP_COPY_GO : Fld := ⟨R.CMP_COPY, 0, 0⟩
def CMP_COPY_STAT_BAD : Fld := ⟨R.CMP_COPY_STAT, 22, 0⟩
def CMP_PAIR_MATE_VALID : Fld := ⟨R.CMP_PAIR, 31, 31⟩
def CMP_PAIR_MIRROR_STALE : Fld := ⟨R.CMP_PAIR, 30, 30⟩
def CMP_PAIR_MATE_AGREE : Fld := ⟨R.CMP_PAIR, 29, 29⟩
def CMP_CNT_SWAPS : Fld := ⟨R.CMP_CNT, 31, 16⟩
def CMP_CNT_SEALS : Fld := ⟨R.CMP_CNT, 15, 0⟩
def LGR_ASM_LIMIT_LIMIT : Fld := ⟨R.LGR_ASM_LIMIT, 15, 0⟩
def LGR_ASM_CEIL_LOWERED : Fld := ⟨R.LGR_ASM_CEIL, 31, 31⟩
def LGR_ASM_CEIL_CEIL : Fld := ⟨R.LGR_ASM_CEIL, 15, 0⟩
def LGR_STAT_REFUSE_ACCT : Fld := ⟨R.LGR_STAT, 11, 8⟩
def LGR_STAT_WAITING : Fld := ⟨R.LGR_STAT, 7, 7⟩
def LGR_STAT_STBY_VALID : Fld := ⟨R.LGR_STAT, 6, 6⟩
def LGR_STAT_OVER : Fld := ⟨R.LGR_STAT, 4, 1⟩
def LGR_CLAIM_OP : Fld := ⟨R.LGR_CLAIM, 31, 31⟩
def LGR_CLAIM_ACCT : Fld := ⟨R.LGR_CLAIM, 26, 24⟩
def LGR_CLAIM_AMOUNT : Fld := ⟨R.LGR_CLAIM, 23, 0⟩
def LGR_CLAIM_STAT_RESULT : Fld := ⟨R.LGR_CLAIM_STAT, 2, 0⟩
def MGN_CTL_TARGET : Fld := ⟨R.MGN_CTL, 26, 16⟩
def MGN_CTL_MEAS_NOW : Fld := ⟨R.MGN_CTL, 0, 0⟩
def MGN_AVS_CFG_EN : Fld := ⟨R.MGN_AVS_CFG, 31, 31⟩
def MGN_AVS_CFG_RAIL : Fld := ⟨R.MGN_AVS_CFG, 27, 24⟩
def MGN_AVS_CFG_VMAX : Fld := ⟨R.MGN_AVS_CFG, 23, 12⟩
def MGN_AVS_CFG_VFIX : Fld := ⟨R.MGN_AVS_CFG, 11, 0⟩
def MGN_AVS_STAT_RAMP : Fld := ⟨R.MGN_AVS_STAT, 31, 31⟩
def MGN_AVS_STAT_FAIL : Fld := ⟨R.MGN_AVS_STAT, 30, 30⟩
def MGN_AVS_STAT_REQ_MV : Fld := ⟨R.MGN_AVS_STAT, 27, 16⟩
def MGN_AVS_STAT_SET_MV : Fld := ⟨R.MGN_AVS_STAT, 11, 0⟩
def MGN_SI_VALID : Fld := ⟨R.MGN_SI, 31, 31⟩
def MGN_SI_RINGS : Fld := ⟨R.MGN_SI, 29, 24⟩
def MGN_SI_SI_LAST : Fld := ⟨R.MGN_SI, 22, 12⟩
def MGN_SI_SI_AVG : Fld := ⟨R.MGN_SI, 10, 0⟩
def MGN_AGE_DEFAULT : Fld := ⟨R.MGN_AGE, 31, 31⟩
def MGN_AGE_M : Fld := ⟨R.MGN_AGE, 11, 8⟩
def MGN_AGE_L : Fld := ⟨R.MGN_AGE, 7, 0⟩
def MGN_PS_FLOOR : Fld := ⟨R.MGN_PS, 31, 31⟩
def MGN_PS_K : Fld := ⟨R.MGN_PS, 26, 16⟩
def MGN_PS_PS : Fld := ⟨R.MGN_PS, 11, 0⟩
def MGN_STAT_DISCARDS : Fld := ⟨R.MGN_STAT, 5, 4⟩
def MGN_STAT_MON_FAIL : Fld := ⟨R.MGN_STAT, 3, 3⟩
def MGN_STAT_AVS_FAIL : Fld := ⟨R.MGN_STAT, 2, 2⟩
def MGN_STAT_MARGIN_CRITICAL : Fld := ⟨R.MGN_STAT, 1, 1⟩
def MGN_STAT_AT_RISK : Fld := ⟨R.MGN_STAT, 0, 0⟩
def MGN_MON_VALID (i : Nat) : Fld := ⟨R.MGN_MON i, 31, 31⟩
def MGN_MON_TJ (i : Nat) : Fld := ⟨R.MGN_MON i, 23, 16⟩
def MGN_MON_SI (i : Nat) : Fld := ⟨R.MGN_MON i, 10, 0⟩
def PGS_CMD_OP : Fld := ⟨R.PGS_CMD, 31, 28⟩
def PGS_CMD_LG : Fld := ⟨R.PGS_CMD, 24, 24⟩
def PGS_CMD_GROUP : Fld := ⟨R.PGS_CMD, 15, 0⟩
def PGS_CMD_STAT_RESULT : Fld := ⟨R.PGS_CMD_STAT, 31, 28⟩
def PGS_CMD_STAT_OP : Fld := ⟨R.PGS_CMD_STAT, 27, 24⟩
def PGS_CMD_STAT_LG : Fld := ⟨R.PGS_CMD_STAT, 23, 23⟩
def PGS_CMD_STAT_MASTER : Fld := ⟨R.PGS_CMD_STAT, 19, 16⟩
def PGS_CMD_STAT_GROUP : Fld := ⟨R.PGS_CMD_STAT, 15, 0⟩
def PGS_CTL_REFRESH_EN : Fld := ⟨R.PGS_CTL, 0, 0⟩
def PGS_EVAL_TIME_MAX : Fld := ⟨R.PGS_EVAL_TIME, 31, 16⟩
def PGS_EVAL_TIME_LAST : Fld := ⟨R.PGS_EVAL_TIME, 15, 0⟩
def PGS_CNT_SW_SWITCHES : Fld := ⟨R.PGS_CNT_SW, 31, 0⟩
def PGS_CNT_APS_REFRESH : Fld := ⟨R.PGS_CNT_APS, 31, 16⟩
def PGS_CNT_APS_CHANGE : Fld := ⟨R.PGS_CNT_APS, 15, 0⟩
def PGS_CNT_CLR_ALL : Fld := ⟨R.PGS_CNT_CLR, 0, 0⟩
def PGS_LG_CFG_A_EN (i : Nat) : Fld := ⟨R.PGS_LG_CFG_A i, 31, 31⟩
def PGS_LG_CFG_A_REVERT (i : Nat) : Fld := ⟨R.PGS_LG_CFG_A i, 30, 30⟩
def PGS_LG_CFG_A_BIDIR (i : Nat) : Fld := ⟨R.PGS_LG_CFG_A i, 29, 29⟩
def PGS_LG_CFG_A_FE_SEL (i : Nat) : Fld := ⟨R.PGS_LG_CFG_A i, 28, 28⟩
def PGS_LG_CFG_A_TX_BRIDGE (i : Nat) : Fld := ⟨R.PGS_LG_CFG_A i, 27, 27⟩
def PGS_LG_CFG_A_HOLDOFF (i : Nat) : Fld := ⟨R.PGS_LG_CFG_A i, 24, 15⟩
def PGS_LG_CFG_A_P_LANE (i : Nat) : Fld := ⟨R.PGS_LG_CFG_A i, 12, 8⟩
def PGS_LG_CFG_A_W_LANE (i : Nat) : Fld := ⟨R.PGS_LG_CFG_A i, 4, 0⟩
def PGS_LG_CFG_B_APS_ID (i : Nat) : Fld := ⟨R.PGS_LG_CFG_B i, 31, 16⟩
def PGS_LG_CFG_B_WTR (i : Nat) : Fld := ⟨R.PGS_LG_CFG_B i, 9, 0⟩
def PGS_LG_STAT_STATE (i : Nat) : Fld := ⟨R.PGS_LG_STAT i, 31, 0⟩
def PGS_LG_CNT_SWITCHES (i : Nat) : Fld := ⟨R.PGS_LG_CNT i, 31, 0⟩
def HL_PTR_BASE_BASE (n : Nat) : Fld := ⟨R.HL_PTR_BASE n, 8, 0⟩
def HL_CIR_IDX_IDX (n : Nat) : Fld := ⟨R.HL_CIR_IDX n, 9, 0⟩
def HL_CIR_OP_OP (n : Nat) : Fld := ⟨R.HL_CIR_OP n, 1, 0⟩
def HL_CIR_STAT_RESULT (n : Nat) : Fld := ⟨R.HL_CIR_STAT n, 31, 28⟩
def HL_CIR_STAT_N_EN (n : Nat) : Fld := ⟨R.HL_CIR_STAT n, 10, 0⟩
def HL_LAST_VALID (n : Nat) : Fld := ⟨R.HL_LAST n, 31, 31⟩
def HL_LAST_KIND (n : Nat) : Fld := ⟨R.HL_LAST n, 30, 29⟩
def HL_LAST_CIRCUIT (n : Nat) : Fld := ⟨R.HL_LAST n, 9, 0⟩
def HL_CNT_CLR_ALL (n : Nat) : Fld := ⟨R.HL_CNT_CLR n, 0, 0⟩
def RL_SET_IDX_IDX (n : Nat) : Fld := ⟨R.RL_SET_IDX n, 7, 0⟩
def RL_SET_OP_OP (n : Nat) : Fld := ⟨R.RL_SET_OP n, 1, 0⟩
def RL_SET_STAT_RESULT (n : Nat) : Fld := ⟨R.RL_SET_STAT n, 31, 28⟩
def RL_SET_STAT_N_EN (n : Nat) : Fld := ⟨R.RL_SET_STAT n, 8, 0⟩
def RL_CTL_FREEZE_NOW (n : Nat) : Fld := ⟨R.RL_CTL n, 1, 1⟩
def RL_CTL_ARM (n : Nat) : Fld := ⟨R.RL_CTL n, 0, 0⟩
def RL_TRIG_CODE (n : Nat) : Fld := ⟨R.RL_TRIG n, 19, 16⟩
def RL_TRIG_LANE (n : Nat) : Fld := ⟨R.RL_TRIG n, 12, 8⟩
def RL_TRIG_DEF_EN (n : Nat) : Fld := ⟨R.RL_TRIG n, 2, 2⟩
def RL_TRIG_PG_EN (n : Nat) : Fld := ⟨R.RL_TRIG n, 1, 1⟩
def RL_TRIG_PIN_EN (n : Nat) : Fld := ⟨R.RL_TRIG n, 0, 0⟩
def RL_TRIG_PG_ANY (n : Nat) : Fld := ⟨R.RL_TRIG_PG n, 31, 31⟩
def RL_TRIG_PG_LG (n : Nat) : Fld := ⟨R.RL_TRIG_PG n, 24, 24⟩
def RL_TRIG_PG_GROUP (n : Nat) : Fld := ⟨R.RL_TRIG_PG n, 15, 0⟩
def RL_POST_POST (n : Nat) : Fld := ⟨R.RL_POST n, 16, 0⟩
def RL_STAT_STATE (n : Nat) : Fld := ⟨R.RL_STAT n, 31, 30⟩
def RL_STAT_CAUSE (n : Nat) : Fld := ⟨R.RL_STAT n, 3, 0⟩
def RL_CNT_CLR_ALL (n : Nat) : Fld := ⟨R.RL_CNT_CLR n, 0, 0⟩
def PL_GRP_IDX_IDX (n : Nat) : Fld := ⟨R.PL_GRP_IDX n, 5, 0⟩
def PL_GRP_SYNC_SYNC (n : Nat) : Fld := ⟨R.PL_GRP_SYNC n, 31, 31⟩
def PL_GRP_SYNC_LOSS (n : Nat) : Fld := ⟨R.PL_GRP_SYNC n, 15, 0⟩
def PL_GRP_OP_OP (n : Nat) : Fld := ⟨R.PL_GRP_OP n, 1, 0⟩
def PL_GRP_STAT_RESULT (n : Nat) : Fld := ⟨R.PL_GRP_STAT n, 31, 28⟩
def PL_SNAP_CLR (n : Nat) : Fld := ⟨R.PL_SNAP n, 1, 1⟩
def PL_SNAP_GO (n : Nat) : Fld := ⟨R.PL_SNAP n, 0, 0⟩
def PL_INJ_ARM (n : Nat) : Fld := ⟨R.PL_INJ n, 31, 31⟩
def PL_INJ_GROUP (n : Nat) : Fld := ⟨R.PL_INJ n, 5, 0⟩
def TMU_TT_GLOBAL_HO_AVG : Fld := ⟨R.TMU_TT_GLOBAL, 25, 16⟩
def TMU_TT_GLOBAL_BW : Fld := ⟨R.TMU_TT_GLOBAL, 1, 0⟩
def TMU_REFIN_CFG_CMOS : Fld := ⟨R.TMU_REFIN_CFG, 3, 0⟩
def TMU_STAT_XO_LOST : Fld := ⟨R.TMU_STAT, 31, 31⟩
def TMU_STAT_REF_CONFLICT : Fld := ⟨R.TMU_STAT, 29, 29⟩
def TMU_STAT_MATE_FOLLOW : Fld := ⟨R.TMU_STAT, 28, 28⟩
def TMU_STAT_HO_SHORT : Fld := ⟨R.TMU_STAT, 27, 27⟩
def TMU_STAT_SEL : Fld := ⟨R.TMU_STAT, 11, 8⟩
def TMU_STAT_STATE : Fld := ⟨R.TMU_STAT, 2, 0⟩
def TMU_PHASE_ERR : Fld := ⟨R.TMU_PHASE, 31, 0⟩
def TMU_HO_N_VALID : Fld := ⟨R.TMU_HO_N, 31, 31⟩
def TMU_HO_N_N : Fld := ⟨R.TMU_HO_N, 9, 0⟩
def TMU_OUT_CTL_FSYNC_EN : Fld := ⟨R.TMU_OUT_CTL, 31, 31⟩
def TMU_OUT_CTL_PPS_EN : Fld := ⟨R.TMU_OUT_CTL, 30, 30⟩
def TMU_OUT_CTL_CLK_EN : Fld := ⟨R.TMU_OUT_CTL, 29, 29⟩
def TMU_OUT_CTL_CLK_FREQ : Fld := ⟨R.TMU_OUT_CTL, 26, 24⟩
def TMU_OUT_CTL_SQ_FREERUN : Fld := ⟨R.TMU_OUT_CTL, 3, 3⟩
def TMU_OUT_CTL_SQ_HOLDOVER : Fld := ⟨R.TMU_OUT_CTL, 2, 2⟩
def TMU_CAND_MAP_SELECTABLE : Fld := ⟨R.TMU_CAND_MAP, 23, 16⟩
def TMU_CAND_MAP_QUALIFIED : Fld := ⟨R.TMU_CAND_MAP, 15, 8⟩
def TMU_CAND_MAP_MEDIAN_SET : Fld := ⟨R.TMU_CAND_MAP, 7, 0⟩
def TMU_CNT_SWITCHES : Fld := ⟨R.TMU_CNT, 31, 16⟩
def TMU_CNT_HOLDOVERS : Fld := ⟨R.TMU_CNT, 15, 0⟩
def TMU_CNT_CLR_ALL : Fld := ⟨R.TMU_CNT_CLR, 0, 0⟩
def TMU_CAND_STAT_STATE (i : Nat) : Fld := ⟨R.TMU_CAND_STAT i, 31, 30⟩
def TMU_CAND_STAT_FAIL_MED (i : Nat) : Fld := ⟨R.TMU_CAND_STAT i, 29, 29⟩
def TMU_CAND_STAT_FAIL_TIE (i : Nat) : Fld := ⟨R.TMU_CAND_STAT i, 28, 28⟩
def TMU_CAND_STAT_FAIL_XO (i : Nat) : Fld := ⟨R.TMU_CAND_STAT i, 27, 27⟩
def TMU_CAND_STAT_COUNT (i : Nat) : Fld := ⟨R.TMU_CAND_STAT i, 23, 20⟩
def TMU_CAND_STAT_WTR_LEFT (i : Nat) : Fld := ⟨R.TMU_CAND_STAT i, 9, 0⟩
def TMU_CAND_FREQ_Y (i : Nat) : Fld := ⟨R.TMU_CAND_FREQ i, 31, 0⟩
def TMU_CAND_TIE_VALID (i : Nat) : Fld := ⟨R.TMU_CAND_TIE i, 31, 31⟩
def TMU_CAND_TIE_TIE (i : Nat) : Fld := ⟨R.TMU_CAND_TIE i, 19, 0⟩
def TBS_CTL_VALID (i : Nat) : Fld := ⟨R.TBS_CTL i, 31, 31⟩
def TBS_STAT_HEALTHY (i : Nat) : Fld := ⟨R.TBS_STAT i, 31, 31⟩
def TBS_STAT_SET (i : Nat) : Fld := ⟨R.TBS_STAT i, 30, 30⟩
def TBS_STAT_SUSPECT (i : Nat) : Fld := ⟨R.TBS_STAT i, 29, 29⟩
def TBS_STAT_SLEWING (i : Nat) : Fld := ⟨R.TBS_STAT i, 28, 28⟩
def TBS_STAT_STEP_AVAIL (i : Nat) : Fld := ⟨R.TBS_STAT i, 27, 27⟩
def TBS_STAT_ARMED (i : Nat) : Fld := ⟨R.TBS_STAT i, 26, 26⟩
def TBS_STAT_RESULT (i : Nat) : Fld := ⟨R.TBS_STAT i, 1, 0⟩
def TBS_CMD_ARM (i : Nat) : Fld := ⟨R.TBS_CMD i, 1, 1⟩
def TBS_CMD_STEP (i : Nat) : Fld := ⟨R.TBS_CMD i, 0, 0⟩
def TBS_JUMP_JUMP (i : Nat) : Fld := ⟨R.TBS_JUMP i, 19, 0⟩
def TBS_SEL_CMD_GO : Fld := ⟨R.TBS_SEL_CMD, 31, 31⟩
def TBS_SEL_CMD_DOM : Fld := ⟨R.TBS_SEL_CMD, 0, 0⟩
def TBS_SEL_STAT_UNTIMED : Fld := ⟨R.TBS_SEL_STAT, 31, 31⟩
def TBS_SEL_STAT_REDUCING : Fld := ⟨R.TBS_SEL_STAT, 30, 30⟩
def TBS_SEL_STAT_DEGRADED : Fld := ⟨R.TBS_SEL_STAT, 29, 29⟩
def TBS_SEL_STAT_RESULT : Fld := ⟨R.TBS_SEL_STAT, 3, 2⟩
def TBS_SEL_STAT_DOM : Fld := ⟨R.TBS_SEL_STAT, 0, 0⟩
def TBS_CONV_STAT_VALID : Fld := ⟨R.TBS_CONV_STAT, 31, 31⟩
def TBS_CONV_STAT_PAST : Fld := ⟨R.TBS_CONV_STAT, 30, 30⟩
def TBS_RX_DOM_DOM : Fld := ⟨R.TBS_RX_DOM, 2, 0⟩
def TBS_MFS_SEL_LANE : Fld := ⟨R.TBS_MFS_SEL, 4, 0⟩
def TBS_MFS_STAT_XCH_VALID : Fld := ⟨R.TBS_MFS_STAT, 31, 31⟩
def TBS_MFS_STAT_RX_VALID : Fld := ⟨R.TBS_MFS_STAT, 30, 30⟩
def TBS_MFS_STAT_DOM : Fld := ⟨R.TBS_MFS_STAT, 29, 29⟩
def TBS_MFS_STAT_FAR_FLAGS : Fld := ⟨R.TBS_MFS_STAT, 28, 26⟩
def TBS_MFS_STAT_MF_SEQ : Fld := ⟨R.TBS_MFS_STAT, 15, 0⟩
def TBS_MFS_XSEQ_MISS : Fld := ⟨R.TBS_MFS_XSEQ, 31, 16⟩
def TBS_MFS_XSEQ_T2_SEQ : Fld := ⟨R.TBS_MFS_XSEQ, 15, 0⟩
def TBS_TXQ_W0_VALID (i : Nat) : Fld := ⟨R.TBS_TXQ_W0 i, 31, 31⟩
def TBS_TXQ_W0_DOM (i : Nat) : Fld := ⟨R.TBS_TXQ_W0 i, 30, 30⟩
def TBS_TXQ_W0_SRC (i : Nat) : Fld := ⟨R.TBS_TXQ_W0 i, 25, 16⟩
def TBS_TXQ_W0_ID (i : Nat) : Fld := ⟨R.TBS_TXQ_W0 i, 15, 0⟩
def TBS_TXQ_STAT_OVF (i : Nat) : Fld := ⟨R.TBS_TXQ_STAT i, 31, 31⟩
def TBS_TXQ_STAT_BAD (i : Nat) : Fld := ⟨R.TBS_TXQ_STAT i, 30, 30⟩
def TBS_TXQ_STAT_N (i : Nat) : Fld := ⟨R.TBS_TXQ_STAT i, 20, 16⟩
def TBS_TXQ_STAT_DROP (i : Nat) : Fld := ⟨R.TBS_TXQ_STAT i, 15, 0⟩
def TBS_CMP_CTL_EN (i : Nat) : Fld := ⟨R.TBS_CMP_CTL i, 31, 31⟩
def TBS_CMP_CTL_LATE (i : Nat) : Fld := ⟨R.TBS_CMP_CTL i, 30, 30⟩
def TBS_CMP_CTL_SRC (i : Nat) : Fld := ⟨R.TBS_CMP_CTL i, 29, 28⟩
def TBS_CAL_TX_CAL (i : Nat) : Fld := ⟨R.TBS_CAL i, 31, 16⟩
def TBS_CAL_RX_CAL (i : Nat) : Fld := ⟨R.TBS_CAL i, 15, 0⟩
def TBL_CTL_SRC : Fld := ⟨R.TBL_CTL, 1, 0⟩
def TBL_NSEC_NSEC : Fld := ⟨R.TBL_NSEC, 29, 0⟩
def TBL_SEC_LO_SEC : Fld := ⟨R.TBL_SEC_LO, 31, 0⟩
def TBL_SEC_HI_UNSET : Fld := ⟨R.TBL_SEC_HI, 31, 31⟩
def TBL_SEC_HI_SEC : Fld := ⟨R.TBL_SEC_HI, 15, 0⟩
def UPR_CFG_ROLE_BIND : Fld := ⟨R.UPR_CFG, 31, 31⟩
def UPR_CFG_WTR_MIN : Fld := ⟨R.UPR_CFG, 29, 24⟩
def UPR_CFG_PAIR_ID : Fld := ⟨R.UPR_CFG, 23, 0⟩
def UPR_MATE_CFG_MATE_DEVID : Fld := ⟨R.UPR_MATE_CFG, 31, 0⟩
def UPR_STAT_MATE_VALID : Fld := ⟨R.UPR_STAT, 31, 31⟩
def UPR_STAT_PHASE_VALID : Fld := ⟨R.UPR_STAT, 30, 30⟩
def UPR_STAT_HALYARD_FAIL : Fld := ⟨R.UPR_STAT, 29, 29⟩
def UPR_STAT_ROLE_CLASH : Fld := ⟨R.UPR_STAT, 28, 28⟩
def UPR_STAT_ROLE_BIND_FAIL : Fld := ⟨R.UPR_STAT, 27, 27⟩
def UPR_STAT_ELIGIBLE : Fld := ⟨R.UPR_STAT, 26, 26⟩
def UPR_STAT_DEVID_REC : Fld := ⟨R.UPR_STAT, 25, 25⟩
def UPR_STAT_HO_PEND : Fld := ⟨R.UPR_STAT, 24, 24⟩
def UPR_STAT_REL_COMMIT : Fld := ⟨R.UPR_STAT, 23, 23⟩
def UPR_STAT_VERDICT : Fld := ⟨R.UPR_STAT, 18, 16⟩
def UPR_STAT_PSTATE : Fld := ⟨R.UPR_STAT, 2, 0⟩
def UPR_MATE_STATE_ROLES : Fld := ⟨R.UPR_MATE_STATE, 31, 24⟩
def UPR_MATE_STATE_TMU : Fld := ⟨R.UPR_MATE_STATE, 23, 16⟩
def UPR_MATE_STATE_CMP : Fld := ⟨R.UPR_MATE_STATE, 15, 8⟩
def UPR_MATE_STATE_KIND : Fld := ⟨R.UPR_MATE_STATE, 7, 0⟩
def UPR_MATE_PROT_PROT : Fld := ⟨R.UPR_MATE_PROT, 31, 0⟩
def UPR_PHASE_THETA : Fld := ⟨R.UPR_PHASE, 31, 0⟩
def UPR_WTR_RUNNING : Fld := ⟨R.UPR_WTR, 31, 31⟩
def UPR_WTR_LEFT : Fld := ⟨R.UPR_WTR, 11, 0⟩
def UPR_CNT_CLR_ALL : Fld := ⟨R.UPR_CNT_CLR, 0, 0⟩
def CIP_LATCH_GRANTED : Fld := ⟨R.CIP_LATCH, 31, 31⟩
def CIP_LATCH_RELEASE : Fld := ⟨R.CIP_LATCH, 8, 8⟩
def CIP_LATCH_HOLDER : Fld := ⟨R.CIP_LATCH, 3, 0⟩
def CIP_LEASE_LEASE : Fld := ⟨R.CIP_LEASE, 15, 0⟩
def CIP_LATCH_STAT_HELD : Fld := ⟨R.CIP_LATCH_STAT, 31, 31⟩
def CIP_LATCH_STAT_SLR_WAIT : Fld := ⟨R.CIP_LATCH_STAT, 30, 30⟩
def CIP_LATCH_STAT_EXP_VALID : Fld := ⟨R.CIP_LATCH_STAT, 29, 29⟩
def CIP_LATCH_STAT_EXP_ID : Fld := ⟨R.CIP_LATCH_STAT, 27, 24⟩
def CIP_LATCH_STAT_LEFT : Fld := ⟨R.CIP_LATCH_STAT, 15, 0⟩
def CIP_JOB_CTL_FIRST : Fld := ⟨R.CIP_JOB_CTL, 31, 31⟩
def CIP_JOB_CTL_LAST : Fld := ⟨R.CIP_JOB_CTL, 30, 30⟩
def CIP_JOB_CTL_OP : Fld := ⟨R.CIP_JOB_CTL, 27, 25⟩
def CIP_JOB_CTL_POLICY : Fld := ⟨R.CIP_JOB_CTL, 24, 24⟩
def CIP_JOB_CTL_TAGLEN : Fld := ⟨R.CIP_JOB_CTL, 23, 22⟩
def CIP_JOB_CTL_SLOT : Fld := ⟨R.CIP_JOB_CTL, 5, 0⟩
def CIP_JOB_GO_GO : Fld := ⟨R.CIP_JOB_GO, 0, 0⟩
def CIP_JOB_STAT_BUSY : Fld := ⟨R.CIP_JOB_STAT, 31, 31⟩
def CIP_JOB_STAT_SUSP : Fld := ⟨R.CIP_JOB_STAT, 30, 30⟩
def CIP_JOB_STAT_UNTRUSTED : Fld := ⟨R.CIP_JOB_STAT, 29, 29⟩
def CIP_JOB_STAT_MASTER : Fld := ⟨R.CIP_JOB_STAT, 27, 24⟩
def CIP_JOB_STAT_RESULT : Fld := ⟨R.CIP_JOB_STAT, 3, 0⟩
def CIP_JOB_DONE_BYTES : Fld := ⟨R.CIP_JOB_DONE, 31, 0⟩
def CIP_KEY_SEL_SLOT : Fld := ⟨R.CIP_KEY_SEL, 5, 0⟩
def CIP_KEY_W_KEY (i : Nat) : Fld := ⟨R.CIP_KEY_W i, 31, 0⟩
def CIP_KEY_CTL_LOAD : Fld := ⟨R.CIP_KEY_CTL, 31, 31⟩
def CIP_KEY_CTL_ZEROISE : Fld := ⟨R.CIP_KEY_CTL, 30, 30⟩
def CIP_KEY_CTL_SIZE : Fld := ⟨R.CIP_KEY_CTL, 29, 29⟩
def CIP_KEY_CTL_SIDE : Fld := ⟨R.CIP_KEY_CTL, 28, 28⟩
def CIP_KEY_CTL_EPOCH : Fld := ⟨R.CIP_KEY_CTL, 23, 0⟩
def CIP_KEY_STAT_RESULT : Fld := ⟨R.CIP_KEY_STAT, 31, 28⟩
def CIP_KEY_STAT_SLOT : Fld := ⟨R.CIP_KEY_STAT, 5, 0⟩
def CIP_RESET_KEY : Fld := ⟨R.CIP_RESET, 31, 16⟩
def CIP_RESET_GO : Fld := ⟨R.CIP_RESET, 0, 0⟩
def CIP_STAT_LOCKED : Fld := ⟨R.CIP_STAT, 31, 31⟩
def CIP_STAT_KAT_BUSY : Fld := ⟨R.CIP_STAT, 30, 30⟩
def CIP_STAT_RANDOMISED : Fld := ⟨R.CIP_STAT, 29, 29⟩
def CIP_STAT_KAT_FAIL : Fld := ⟨R.CIP_STAT, 28, 28⟩
def CIP_CNT_CLR_ALL : Fld := ⟨R.CIP_CNT_CLR, 0, 0⟩
def CIP_SLOT_POL_MODE (i : Nat) : Fld := ⟨R.CIP_SLOT_POL i, 31, 30⟩
def CIP_SLOT_POL_LOAD (i : Nat) : Fld := ⟨R.CIP_SLOT_POL i, 20, 16⟩
def CIP_SLOT_POL_USE (i : Nat) : Fld := ⟨R.CIP_SLOT_POL i, 6, 0⟩
def CIP_SLOT_STAT_KEY (i : Nat) : Fld := ⟨R.CIP_SLOT_STAT i, 31, 31⟩
def CIP_SLOT_STAT_STAGED (i : Nat) : Fld := ⟨R.CIP_SLOT_STAT i, 30, 30⟩
def CIP_SLOT_STAT_SIZE (i : Nat) : Fld := ⟨R.CIP_SLOT_STAT i, 29, 29⟩
def CIP_SLOT_STAT_EXHAUSTED (i : Nat) : Fld := ⟨R.CIP_SLOT_STAT i, 28, 28⟩
def CIP_SLOT_STAT_PREV (i : Nat) : Fld := ⟨R.CIP_SLOT_STAT i, 27, 27⟩
def CIP_SLOT_STAT_SIDE (i : Nat) : Fld := ⟨R.CIP_SLOT_STAT i, 26, 26⟩
def CIP_SLOT_STAT_EPOCH (i : Nat) : Fld := ⟨R.CIP_SLOT_STAT i, 23, 0⟩
def SLR_STAT_WAITING : Fld := ⟨R.SLR_STAT, 31, 31⟩
def SLR_STAT_HOLDING : Fld := ⟨R.SLR_STAT, 30, 30⟩
def SLR_STAT_PEND : Fld := ⟨R.SLR_STAT, 6, 0⟩
def SLR_CNT_MASK_JOBS : Fld := ⟨R.SLR_CNT_MASK, 31, 0⟩
def SLR_CNT_OND_MISSED : Fld := ⟨R.SLR_CNT_OND, 31, 16⟩
def SLR_CNT_OND_ON_DEMAND : Fld := ⟨R.SLR_CNT_OND, 15, 0⟩
def SLR_CNT_GRACE_GHASH_MISM : Fld := ⟨R.SLR_CNT_GRACE, 31, 16⟩
def SLR_CNT_GRACE_GRACE : Fld := ⟨R.SLR_CNT_GRACE, 15, 0⟩
def SLR_WAIT_MAX : Fld := ⟨R.SLR_WAIT, 31, 16⟩
def SLR_WAIT_LAST : Fld := ⟨R.SLR_WAIT, 15, 0⟩
def SLR_CNT_CLR_ALL : Fld := ⟨R.SLR_CNT_CLR, 0, 0⟩
def CPX_CORE_STAT_STATE (i : Nat) : Fld := ⟨R.CPX_CORE_STAT i, 31, 30⟩
def CPX_CORE_STAT_TIP (i : Nat) : Fld := ⟨R.CPX_CORE_STAT i, 29, 29⟩
def CPX_CORE_STAT_EIP (i : Nat) : Fld := ⟨R.CPX_CORE_STAT i, 28, 28⟩
def CPX_CORE_STAT_PAR (i : Nat) : Fld := ⟨R.CPX_CORE_STAT i, 15, 0⟩
def CPX_PC_PC (i : Nat) : Fld := ⟨R.CPX_PC i, 31, 0⟩
def CPX_CNT_CLR_ALL : Fld := ⟨R.CPX_CNT_CLR, 0, 0⟩
def SPM_CASE_CFG_EN (i : Nat) : Fld := ⟨R.SPM_CASE_CFG i, 31, 31⟩
def SPM_CASE_CFG_SIZE (i : Nat) : Fld := ⟨R.SPM_CASE_CFG i, 26, 16⟩
def SPM_CASE_CFG_BASE (i : Nat) : Fld := ⟨R.SPM_CASE_CFG i, 15, 0⟩
def SPM_STARVE_CFG_LIMIT : Fld := ⟨R.SPM_STARVE_CFG, 7, 0⟩
def SPM_STARVE_LAST_VALID : Fld := ⟨R.SPM_STARVE_LAST, 31, 31⟩
def SPM_STARVE_LAST_MASTER : Fld := ⟨R.SPM_STARVE_LAST, 27, 24⟩
def SPM_STARVE_LAST_BANK : Fld := ⟨R.SPM_STARVE_LAST, 19, 16⟩
def SPM_STARVE_LAST_WAIT : Fld := ⟨R.SPM_STARVE_LAST, 15, 0⟩
def SPM_PAR_CNT_FAIL : Fld := ⟨R.SPM_PAR_CNT, 31, 16⟩
def SPM_PAR_CNT_REP : Fld := ⟨R.SPM_PAR_CNT, 15, 0⟩
def SPM_CNT_CLR_ALL : Fld := ⟨R.SPM_CNT_CLR, 0, 0⟩
def SPM_STARVE_CNT_COUNT (i : Nat) : Fld := ⟨R.SPM_STARVE_CNT i, 31, 0⟩
def MBX_BIND_EN (i : Nat) : Fld := ⟨R.MBX_BIND i, 31, 31⟩
def MBX_BIND_VALID (i : Nat) : Fld := ⟨R.MBX_BIND i, 30, 30⟩
def MBX_BIND_A (i : Nat) : Fld := ⟨R.MBX_BIND i, 7, 4⟩
def MBX_BIND_B (i : Nat) : Fld := ⟨R.MBX_BIND i, 3, 0⟩
def MBX_CH_OUT_FULL (i : Nat) : Fld := ⟨R.MBX_CH i, 31, 31⟩
def MBX_CH_OUT_ACK (i : Nat) : Fld := ⟨R.MBX_CH i, 30, 30⟩
def MBX_CH_IN_FULL (i : Nat) : Fld := ⟨R.MBX_CH i, 29, 29⟩
def MBX_CH_CROSSED (i : Nat) : Fld := ⟨R.MBX_CH i, 28, 28⟩
def MBX_CH_PEER (i : Nat) : Fld := ⟨R.MBX_CH i, 27, 24⟩
def MBX_CH_CLR_ACK (i : Nat) : Fld := ⟨R.MBX_CH i, 2, 2⟩
def MBX_CH_TAKE (i : Nat) : Fld := ⟨R.MBX_CH i, 1, 1⟩
def MBX_CH_SEND (i : Nat) : Fld := ⟨R.MBX_CH i, 0, 0⟩
def MBX_DATA_WORD (i j : Nat) : Fld := ⟨R.MBX_DATA i j, 31, 0⟩
def DMA_CTL_ABORT (i : Nat) : Fld := ⟨R.DMA_CTL i, 1, 1⟩
def DMA_CTL_GO (i : Nat) : Fld := ⟨R.DMA_CTL i, 0, 0⟩
def MEM_STAT_READY : Fld := ⟨R.MEM_STAT, 31, 31⟩
def MEM_STAT_CAP_BAD : Fld := ⟨R.MEM_STAT, 30, 30⟩
def MEM_STAT_CAP : Fld := ⟨R.MEM_STAT, 29, 28⟩
def MEM_STAT_MR4_RATE : Fld := ⟨R.MEM_STAT, 2, 0⟩
def MEM_SEG_SEG (i : Nat) : Fld := ⟨R.MEM_SEG i, 2, 0⟩
def MEM_CNT_CLR_ALL : Fld := ⟨R.MEM_CNT_CLR, 0, 0⟩
def LPM_SEL_BIN : Fld := ⟨R.LPM_SEL, 21, 16⟩
def LPM_SEL_SIDE : Fld := ⟨R.LPM_SEL, 8, 8⟩
def LPM_SEL_LANE : Fld := ⟨R.LPM_SEL, 4, 0⟩
def LPM_BIN_INFO_VALID : Fld := ⟨R.LPM_BIN_INFO, 31, 31⟩
def LPM_BIN_INFO_FINAL : Fld := ⟨R.LPM_BIN_INFO, 30, 30⟩
def LPM_BIN_INFO_UNTIMED : Fld := ⟨R.LPM_BIN_INFO, 29, 29⟩
def LPM_BIN_INFO_PARTIAL : Fld := ⟨R.LPM_BIN_INFO, 28, 28⟩
def LPM_BIN_INFO_SECS : Fld := ⟨R.LPM_BIN_INFO, 16, 0⟩
def LPM_TCA_DAY (i : Nat) : Fld := ⟨R.LPM_TCA i, 25, 16⟩
def LPM_TCA_Q (i : Nat) : Fld := ⟨R.LPM_TCA i, 9, 0⟩
def PMC_GCTL_FREEZE : Fld := ⟨R.PMC_GCTL, 0, 0⟩
def EVT_RING_CFG_EN : Fld := ⟨R.EVT_RING_CFG, 31, 31⟩
def EVT_RING_CFG_SIZE : Fld := ⟨R.EVT_RING_CFG, 26, 24⟩
def EVT_RING_CFG_BASE : Fld := ⟨R.EVT_RING_CFG, 21, 0⟩
def EVT_LOG_CFG_EN : Fld := ⟨R.EVT_LOG_CFG, 31, 31⟩
def EVT_LOG_CFG_SIZE : Fld := ⟨R.EVT_LOG_CFG, 27, 24⟩
def EVT_LOG_CFG_BASE : Fld := ⟨R.EVT_LOG_CFG, 12, 0⟩
def EVT_ALM_IDX_PAGE : Fld := ⟨R.EVT_ALM_IDX, 11, 0⟩
def EVT_LV_CFG_BURST : Fld := ⟨R.EVT_LV_CFG, 31, 24⟩
def EVT_LV_CFG_RATE : Fld := ⟨R.EVT_LV_CFG, 13, 0⟩
def EVT_ROUTE_HOST_EN : Fld := ⟨R.EVT_ROUTE, 31, 31⟩
def EVT_ROUTE_VECTOR : Fld := ⟨R.EVT_ROUTE, 29, 24⟩
def EVT_ROUTE_CORES : Fld := ⟨R.EVT_ROUTE, 19, 16⟩
def EVT_ROUTE_MIN_CLASS : Fld := ⟨R.EVT_ROUTE, 9, 8⟩
def EVT_CORE_PEND_PEND (i : Nat) : Fld := ⟨R.EVT_CORE_PEND i, 0, 0⟩
def EVT_ALM_SUM_PAGES (i : Nat) : Fld := ⟨R.EVT_ALM_SUM i, 31, 0⟩
def EVT_CNT_CLR_ALL : Fld := ⟨R.EVT_CNT_CLR, 0, 0⟩
def EVT_SWB_STAT_VALID : Fld := ⟨R.EVT_SWB_STAT, 31, 31⟩
def EVT_SWB_STAT_BIN : Fld := ⟨R.EVT_SWB_STAT, 30, 0⟩
def LIF_STAT_WFAIL : Fld := ⟨R.LIF_STAT, 31, 31⟩
def LIF_STAT_BUSY : Fld := ⟨R.LIF_STAT, 30, 30⟩
def LIF_STAT_OFS : Fld := ⟨R.LIF_STAT, 20, 0⟩
def LIF_FAULT_GO_GO : Fld := ⟨R.LIF_FAULT_GO, 0, 0⟩
def LIF_FAULT_W_PAYLOAD (i : Nat) : Fld := ⟨R.LIF_FAULT_W i, 31, 0⟩
def DIR_N_N : Fld := ⟨R.DIR_N, 7, 0⟩
def HST_CTL_LINK_EN : Fld := ⟨R.HST_CTL, 0, 0⟩
def HST_STAT_LINK_UP : Fld := ⟨R.HST_STAT, 31, 31⟩
def HST_STAT_SPEED : Fld := ⟨R.HST_STAT, 27, 24⟩
def HST_STAT_WIDTH : Fld := ⟨R.HST_STAT, 17, 16⟩
def HST_STAT_MSE : Fld := ⟨R.HST_STAT, 15, 15⟩
def HST_STAT_BME : Fld := ⟨R.HST_STAT, 14, 14⟩
def HST_STAT_MSIX_EN : Fld := ⟨R.HST_STAT, 13, 13⟩
def HST_STAT_FN_MASK : Fld := ⟨R.HST_STAT, 12, 12⟩
def HST_STAT_DSTATE : Fld := ⟨R.HST_STAT, 9, 8⟩
def HST_APERTURE_BASE : Fld := ⟨R.HST_APERTURE, 7, 0⟩
def HST_SUBSYS_SVID : Fld := ⟨R.HST_SUBSYS, 31, 16⟩
def HST_SUBSYS_SID : Fld := ⟨R.HST_SUBSYS, 15, 0⟩
def HST_CNT_RD_ABORT : Fld := ⟨R.HST_CNT, 31, 16⟩
def HST_CNT_WR_ERR : Fld := ⟨R.HST_CNT, 15, 0⟩
def HST_CNT_CLR_ALL : Fld := ⟨R.HST_CNT_CLR, 0, 0⟩
def PER_UART_CTL_EN (i : Nat) : Fld := ⟨R.PER_UART_CTL i, 31, 31⟩
def PER_UART_CTL_PARITY (i : Nat) : Fld := ⟨R.PER_UART_CTL i, 19, 18⟩
def PER_UART_CTL_STOP2 (i : Nat) : Fld := ⟨R.PER_UART_CTL i, 17, 17⟩
def PER_UART_CTL_DIV (i : Nat) : Fld := ⟨R.PER_UART_CTL i, 15, 0⟩
def PER_UART_DATA_VALID (i : Nat) : Fld := ⟨R.PER_UART_DATA i, 31, 31⟩
def PER_UART_DATA_BYTE (i : Nat) : Fld := ⟨R.PER_UART_DATA i, 7, 0⟩
def PER_UART_STAT_TX_OVF (i : Nat) : Fld := ⟨R.PER_UART_STAT i, 31, 31⟩
def PER_UART_STAT_RX_OVF (i : Nat) : Fld := ⟨R.PER_UART_STAT i, 30, 30⟩
def PER_UART_STAT_FERR (i : Nat) : Fld := ⟨R.PER_UART_STAT i, 29, 29⟩
def PER_UART_STAT_PERR (i : Nat) : Fld := ⟨R.PER_UART_STAT i, 28, 28⟩
def PER_UART_STAT_TX_LVL (i : Nat) : Fld := ⟨R.PER_UART_STAT i, 14, 8⟩
def PER_UART_STAT_RX_LVL (i : Nat) : Fld := ⟨R.PER_UART_STAT i, 6, 0⟩
def PER_I2C_CTL_EN (i : Nat) : Fld := ⟨R.PER_I2C_CTL i, 31, 31⟩
def PER_I2C_CTL_SPEED (i : Nat) : Fld := ⟨R.PER_I2C_CTL i, 1, 0⟩
def PER_I2C_CMD_GO (i : Nat) : Fld := ⟨R.PER_I2C_CMD i, 31, 31⟩
def PER_I2C_CMD_ADDR (i : Nat) : Fld := ⟨R.PER_I2C_CMD i, 22, 16⟩
def PER_I2C_CMD_RLEN (i : Nat) : Fld := ⟨R.PER_I2C_CMD i, 12, 8⟩
def PER_I2C_CMD_WLEN (i : Nat) : Fld := ⟨R.PER_I2C_CMD i, 4, 0⟩
def PER_I2C_STAT_BUSY (i : Nat) : Fld := ⟨R.PER_I2C_STAT i, 31, 31⟩
def PER_I2C_STAT_ACKED (i : Nat) : Fld := ⟨R.PER_I2C_STAT i, 20, 16⟩
def PER_I2C_STAT_RESULT (i : Nat) : Fld := ⟨R.PER_I2C_STAT i, 3, 0⟩
def PER_I2C_DATA_BYTES (i j : Nat) : Fld := ⟨R.PER_I2C_DATA i j, 31, 0⟩
def PER_QSPI_CTL_CLK : Fld := ⟨R.PER_QSPI_CTL, 1, 0⟩
def PER_QSPI_CMD_GO : Fld := ⟨R.PER_QSPI_CMD, 31, 31⟩
def PER_QSPI_CMD_WRITE : Fld := ⟨R.PER_QSPI_CMD, 30, 30⟩
def PER_QSPI_CMD_LINES : Fld := ⟨R.PER_QSPI_CMD, 29, 28⟩
def PER_QSPI_CMD_ABYTES : Fld := ⟨R.PER_QSPI_CMD, 27, 26⟩
def PER_QSPI_CMD_DUMMY : Fld := ⟨R.PER_QSPI_CMD, 25, 21⟩
def PER_QSPI_CMD_LEN : Fld := ⟨R.PER_QSPI_CMD, 16, 8⟩
def PER_QSPI_CMD_OPCODE : Fld := ⟨R.PER_QSPI_CMD, 7, 0⟩
def PER_QSPI_ADDR_ADDR : Fld := ⟨R.PER_QSPI_ADDR, 31, 0⟩
def PER_QSPI_STAT_BUSY : Fld := ⟨R.PER_QSPI_STAT, 31, 31⟩
def PER_QSPI_STAT_RESULT : Fld := ⟨R.PER_QSPI_STAT, 3, 0⟩
def PER_QSPI_DATA_BYTES (i : Nat) : Fld := ⟨R.PER_QSPI_DATA i, 31, 0⟩
def PER_AVS_CTL_CLK : Fld := ⟨R.PER_AVS_CTL, 1, 0⟩
def PER_AVS_STAT_CRC_ERR : Fld := ⟨R.PER_AVS_STAT, 31, 16⟩
def PER_AVS_STAT_NO_RESP : Fld := ⟨R.PER_AVS_STAT, 15, 0⟩
def PER_CNT_CLR_ALL : Fld := ⟨R.PER_CNT_CLR, 0, 0⟩
def PER_ALM_CTL_TEST_MAJ : Fld := ⟨R.PER_ALM_CTL, 1, 1⟩
def PER_ALM_CTL_TEST_MIN : Fld := ⟨R.PER_ALM_CTL, 0, 0⟩
def PER_ALM_STAT_MAJ_DRV : Fld := ⟨R.PER_ALM_STAT, 3, 3⟩
def PER_ALM_STAT_MIN_DRV : Fld := ⟨R.PER_ALM_STAT, 2, 2⟩
def PER_ALM_STAT_MAJ_LOW : Fld := ⟨R.PER_ALM_STAT, 1, 1⟩
def PER_ALM_STAT_MIN_LOW : Fld := ⟨R.PER_ALM_STAT, 0, 0⟩
def LOH_SEAL_SLAST_LO_SLAST (n : Nat) : Fld := ⟨R.LOH_SEAL_SLAST_LO n, 31, 0⟩
def LOH_SEAL_SLAST_HI_SLAST (n : Nat) : Fld := ⟨R.LOH_SEAL_SLAST_HI n, 31, 0⟩
def LOH_RING_WR_PTR (n i : Nat) : Fld := ⟨R.LOH_RING_WR n i, 15, 0⟩
def LOH_RING_RD_PTR (n i : Nat) : Fld := ⟨R.LOH_RING_RD n i, 15, 0⟩
def LOH_TRACE_TX_OCTETS (n i : Nat) : Fld := ⟨R.LOH_TRACE_TX n i, 31, 0⟩
def LOH_TRACE_EXP_OCTETS (n i : Nat) : Fld := ⟨R.LOH_TRACE_EXP n i, 31, 0⟩
def LOH_TRACE_RX_OCTETS (n i : Nat) : Fld := ⟨R.LOH_TRACE_RX n i, 31, 0⟩
def CMP_SWAP_TGT_FN : Fld := ⟨R.CMP_SWAP_TGT, 31, 0⟩
def CMP_ACT_FN_FN : Fld := ⟨R.CMP_ACT_FN, 31, 0⟩
def CMP_FP_STBY_FP : Fld := ⟨R.CMP_FP_STBY, 31, 0⟩
def CMP_FP_ACTIVE_FP : Fld := ⟨R.CMP_FP_ACTIVE, 31, 0⟩
def CMP_FP_MATE_FP : Fld := ⟨R.CMP_FP_MATE, 31, 0⟩
def CMP_SEAL_DM_READS : Fld := ⟨R.CMP_SEAL_DM, 31, 0⟩
def CMP_SEAL_SELRD_READS : Fld := ⟨R.CMP_SEAL_SELRD, 31, 0⟩
def CMP_SEAL_HOTRD_READS : Fld := ⟨R.CMP_SEAL_HOTRD, 31, 0⟩
def LGR_ASM_ACT_REF : Fld := ⟨R.LGR_ASM_ACT, 31, 16⟩
def LGR_ASM_ACT_ASM : Fld := ⟨R.LGR_ASM_ACT, 15, 0⟩
def LGR_ASM_STBY_REF : Fld := ⟨R.LGR_ASM_STBY, 31, 16⟩
def LGR_ASM_STBY_ASM : Fld := ⟨R.LGR_ASM_STBY, 15, 0⟩
def LGR_ACCT_LIM_VALUE (i : Nat) : Fld := ⟨R.LGR_ACCT_LIM i, 23, 0⟩
def LGR_ACCT_USED_VALUE (i : Nat) : Fld := ⟨R.LGR_ACCT_USED i, 23, 0⟩
def LGR_ACCT_SW_VALUE (i : Nat) : Fld := ⟨R.LGR_ACCT_SW i, 23, 0⟩
def PGS_N_PROT_COUNT : Fld := ⟨R.PGS_N_PROT, 16, 0⟩
def PGS_N_FROZEN_COUNT : Fld := ⟨R.PGS_N_FROZEN, 16, 0⟩
def PGS_N_FELOST_COUNT : Fld := ⟨R.PGS_N_FELOST, 16, 0⟩
def PGS_N_FEMISM_COUNT : Fld := ⟨R.PGS_N_FEMISM, 16, 0⟩
def HL_CIR_W0_DATA (n : Nat) : Fld := ⟨R.HL_CIR_W0 n, 31, 0⟩
def HL_CIR_W1_DATA (n : Nat) : Fld := ⟨R.HL_CIR_W1 n, 31, 0⟩
def HL_CIR_W2_DATA (n : Nat) : Fld := ⟨R.HL_CIR_W2 n, 31, 0⟩
def HL_CNT_OVF_FRAMES (n : Nat) : Fld := ⟨R.HL_CNT_OVF n, 31, 0⟩
def HL_CNT_UNF_FRAMES (n : Nat) : Fld := ⟨R.HL_CNT_UNF n, 31, 0⟩
def HL_CNT_POISON_FRAMES (n : Nat) : Fld := ⟨R.HL_CNT_POISON n, 31, 0⟩
def RL_SET_W_DATA (n i : Nat) : Fld := ⟨R.RL_SET_W n i, 31, 0⟩
def RL_SET_W5_DATA (n : Nat) : Fld := ⟨R.RL_SET_W5 n, 31, 0⟩
def RL_TRIG_FN_FN (n : Nat) : Fld := ⟨R.RL_TRIG_FN n, 31, 0⟩
def RL_FRZ_FN_FN (n : Nat) : Fld := ⟨R.RL_FRZ_FN n, 31, 0⟩
def RL_ARM_FN_FN (n : Nat) : Fld := ⟨R.RL_ARM_FN n, 31, 0⟩
def RL_CNT_COUNT (n : Nat) : Fld := ⟨R.RL_CNT n, 15, 0⟩
def RL_CNT_LATE_COUNT (n : Nat) : Fld := ⟨R.RL_CNT_LATE n, 31, 0⟩
def RL_CNT_POISON_COUNT (n : Nat) : Fld := ⟨R.RL_CNT_POISON n, 31, 0⟩
def PL_GRP_W0_DATA (n : Nat) : Fld := ⟨R.PL_GRP_W0 n, 31, 0⟩
def PL_GRP_W1_DATA (n : Nat) : Fld := ⟨R.PL_GRP_W1 n, 31, 0⟩
def PL_GRP_ERR_COUNT (n : Nat) : Fld := ⟨R.PL_GRP_ERR n, 31, 0⟩
def PL_GRP_FRAMES_COUNT (n : Nat) : Fld := ⟨R.PL_GRP_FRAMES n, 31, 0⟩
def PL_SYNC_LO_SYNC (n : Nat) : Fld := ⟨R.PL_SYNC_LO n, 31, 0⟩
def PL_SYNC_HI_SYNC (n : Nat) : Fld := ⟨R.PL_SYNC_HI n, 31, 0⟩
def TMU_FREQ_Y : Fld := ⟨R.TMU_FREQ, 31, 0⟩
def TMU_MEDIAN_Y : Fld := ⟨R.TMU_MEDIAN, 31, 0⟩
def TMU_HO_FREQ_Y : Fld := ⟨R.TMU_HO_FREQ, 31, 0⟩
def TMU_TT_A_ENTRY (i : Nat) : Fld := ⟨R.TMU_TT_A i, 31, 0⟩
def TMU_TT_B_ENTRY (i : Nat) : Fld := ⟨R.TMU_TT_B i, 31, 0⟩
def TBS_INC_INT_INC (i : Nat) : Fld := ⟨R.TBS_INC_INT i, 7, 0⟩
def TBS_INC_FRAC_INC (i : Nat) : Fld := ⟨R.TBS_INC_FRAC i, 31, 0⟩
def TBS_STEP_HI_STEP (i : Nat) : Fld := ⟨R.TBS_STEP_HI i, 31, 0⟩
def TBS_STEP_LO_STEP (i : Nat) : Fld := ⟨R.TBS_STEP_LO i, 31, 0⟩
def TBS_STEP_FRAC_STEP (i : Nat) : Fld := ⟨R.TBS_STEP_FRAC i, 31, 0⟩
def TBS_SLEW_HI_SLEW (i : Nat) : Fld := ⟨R.TBS_SLEW_HI i, 31, 0⟩
def TBS_SLEW_LO_SLEW (i : Nat) : Fld := ⟨R.TBS_SLEW_LO i, 31, 0⟩
def TBS_LEFT_HI_LEFT (i : Nat) : Fld := ⟨R.TBS_LEFT_HI i, 31, 0⟩
def TBS_LEFT_LO_LEFT (i : Nat) : Fld := ⟨R.TBS_LEFT_LO i, 31, 0⟩
def TBS_TIME_HI_TIME (i : Nat) : Fld := ⟨R.TBS_TIME_HI i, 31, 0⟩
def TBS_TIME_LO_TIME (i : Nat) : Fld := ⟨R.TBS_TIME_LO i, 31, 0⟩
def TBS_TIME_FRAC_TIME (i : Nat) : Fld := ⟨R.TBS_TIME_FRAC i, 31, 0⟩
def TBS_SEL_OFS_HI_VALUE : Fld := ⟨R.TBS_SEL_OFS_HI, 31, 0⟩
def TBS_SEL_OFS_LO_VALUE : Fld := ⟨R.TBS_SEL_OFS_LO, 31, 0⟩
def TBS_SEL_OFS_FRAC_VALUE : Fld := ⟨R.TBS_SEL_OFS_FRAC, 31, 0⟩
def TBS_SEL_TIME_HI_VALUE : Fld := ⟨R.TBS_SEL_TIME_HI, 31, 0⟩
def TBS_SEL_TIME_LO_VALUE : Fld := ⟨R.TBS_SEL_TIME_LO, 31, 0⟩
def TBS_SEL_TIME_FRAC_VALUE : Fld := ⟨R.TBS_SEL_TIME_FRAC, 31, 0⟩
def TBS_FRAME_FN_VALUE : Fld := ⟨R.TBS_FRAME_FN, 31, 0⟩
def TBS_FRAME_S_HI_VALUE : Fld := ⟨R.TBS_FRAME_S_HI, 31, 0⟩
def TBS_FRAME_S_LO_VALUE : Fld := ⟨R.TBS_FRAME_S_LO, 31, 0⟩
def TBS_CONV_T_HI_VALUE : Fld := ⟨R.TBS_CONV_T_HI, 31, 0⟩
def TBS_CONV_T_LO_VALUE : Fld := ⟨R.TBS_CONV_T_LO, 31, 0⟩
def TBS_CONV_FN_VALUE : Fld := ⟨R.TBS_CONV_FN, 31, 0⟩
def TBS_MOB_DOM_LANES : Fld := ⟨R.TBS_MOB_DOM, 23, 0⟩
def TBS_DCCW_STAMP_LANES : Fld := ⟨R.TBS_DCCW_STAMP, 23, 0⟩
def TBS_PPS_CTL_WIDTH : Fld := ⟨R.TBS_PPS_CTL, 25, 16⟩
def TBS_PPS_OFS_VALUE : Fld := ⟨R.TBS_PPS_OFS, 31, 0⟩
def TBS_PPS_SEQ_VALUE : Fld := ⟨R.TBS_PPS_SEQ, 15, 0⟩
def TBS_PPS_FN_VALUE : Fld := ⟨R.TBS_PPS_FN, 31, 0⟩
def TBS_PPS_A_VALUE (i : Nat) : Fld := ⟨R.TBS_PPS_A i, 31, 0⟩
def TBS_PPS_B_VALUE (i : Nat) : Fld := ⟨R.TBS_PPS_B i, 31, 0⟩
def TBS_MFS_HI_STAMP (i : Nat) : Fld := ⟨R.TBS_MFS_HI i, 31, 0⟩
def TBS_MFS_LO_STAMP (i : Nat) : Fld := ⟨R.TBS_MFS_LO i, 31, 0⟩
def TBS_MFS_FRAC_STAMP (i : Nat) : Fld := ⟨R.TBS_MFS_FRAC i, 31, 0⟩
def TBS_TXQ_W123_STAMP (i j : Nat) : Fld := ⟨R.TBS_TXQ_W123 i j, 31, 0⟩
def TBS_CMP_HI_VALUE (i : Nat) : Fld := ⟨R.TBS_CMP_HI i, 31, 0⟩
def TBS_CMP_LO_VALUE (i : Nat) : Fld := ⟨R.TBS_CMP_LO i, 31, 0⟩
def UPR_COUNT_VALUE : Fld := ⟨R.UPR_COUNT, 31, 0⟩
def UPR_MATE_COUNT_VALUE : Fld := ⟨R.UPR_MATE_COUNT, 31, 0⟩
def UPR_MATE_ACK_VALUE : Fld := ⟨R.UPR_MATE_ACK, 31, 0⟩
def UPR_MATE_DEVID_VALUE : Fld := ⟨R.UPR_MATE_DEVID, 31, 0⟩
def UPR_SUSP_FN_FN : Fld := ⟨R.UPR_SUSP_FN, 31, 0⟩
def UPR_DEC_FN_FN : Fld := ⟨R.UPR_DEC_FN, 31, 0⟩
def UPR_HO_FN : Fld := ⟨R.UPR_HO, 31, 0⟩
def UPR_EVID_ALIVE_LANES : Fld := ⟨R.UPR_EVID_ALIVE, 23, 0⟩
def UPR_EVID_SILENT_LANES : Fld := ⟨R.UPR_EVID_SILENT, 23, 0⟩
def UPR_CNT_PENN_HIGH : Fld := ⟨R.UPR_CNT_PENN, 31, 16⟩
def UPR_CNT_PENN_LOW : Fld := ⟨R.UPR_CNT_PENN, 15, 0⟩
def UPR_CNT_LINK_HIGH : Fld := ⟨R.UPR_CNT_LINK, 31, 16⟩
def UPR_CNT_LINK_LOW : Fld := ⟨R.UPR_CNT_LINK, 15, 0⟩
def UPR_CNT_ROLE_HIGH : Fld := ⟨R.UPR_CNT_ROLE, 31, 16⟩
def UPR_CNT_ROLE_LOW : Fld := ⟨R.UPR_CNT_ROLE, 15, 0⟩
def CIP_JOB_AAD_VALUE : Fld := ⟨R.CIP_JOB_AAD, 31, 0⟩
def CIP_JOB_AADLEN_VALUE : Fld := ⟨R.CIP_JOB_AADLEN, 31, 0⟩
def CIP_JOB_SRC_VALUE : Fld := ⟨R.CIP_JOB_SRC, 31, 0⟩
def CIP_JOB_DST_VALUE : Fld := ⟨R.CIP_JOB_DST, 31, 0⟩
def CIP_JOB_LEN_VALUE : Fld := ⟨R.CIP_JOB_LEN, 31, 0⟩
def CIP_JOB_IV_BYTES (i : Nat) : Fld := ⟨R.CIP_JOB_IV i, 31, 0⟩
def CIP_JOB_TAG_BYTES (i : Nat) : Fld := ⟨R.CIP_JOB_TAG i, 31, 0⟩
def CIP_CNT_DONE_JOBS : Fld := ⟨R.CIP_CNT_DONE, 31, 0⟩
def CIP_CNT_ABORT_JOBS : Fld := ⟨R.CIP_CNT_ABORT, 31, 0⟩
def CPX_MTIME_LO_MTIME : Fld := ⟨R.CPX_MTIME_LO, 31, 0⟩
def CPX_MTIME_HI_MTIME : Fld := ⟨R.CPX_MTIME_HI, 31, 0⟩
def CPX_MTIMECMP_LO_CMP (i : Nat) : Fld := ⟨R.CPX_MTIMECMP_LO i, 31, 0⟩
def CPX_MTIMECMP_HI_CMP (i : Nat) : Fld := ⟨R.CPX_MTIMECMP_HI i, 31, 0⟩
def SPM_PAR_LAST_VALUE : Fld := ⟨R.SPM_PAR_LAST, 31, 0⟩
def SPM_PAR_LAST_M_VALID : Fld := ⟨R.SPM_PAR_LAST_M, 31, 31⟩
def SPM_PAR_LAST_M_MASTER : Fld := ⟨R.SPM_PAR_LAST_M, 3, 0⟩
def MBX_INBOX_CHANNELS : Fld := ⟨R.MBX_INBOX, 31, 0⟩
def MBX_CROSSED_CHANNELS : Fld := ⟨R.MBX_CROSSED, 31, 0⟩
def MTX_DT_FIRST_ADDR_ADDR : Fld := ⟨R.MTX_DT_FIRST_ADDR, 31, 0⟩
def MTX_DT_LAST_ADDR_ADDR : Fld := ⟨R.MTX_DT_LAST_ADDR, 31, 0⟩
def MTX_DT_FIRST_INFO_VALID : Fld := ⟨R.MTX_DT_FIRST_INFO, 31, 31⟩
def MTX_DT_FIRST_INFO_WRITE : Fld := ⟨R.MTX_DT_FIRST_INFO, 30, 30⟩
def MTX_DT_FIRST_INFO_SIZE : Fld := ⟨R.MTX_DT_FIRST_INFO, 29, 28⟩
def MTX_DT_FIRST_INFO_MASTER : Fld := ⟨R.MTX_DT_FIRST_INFO, 27, 24⟩
def MTX_DT_FIRST_INFO_CAUSE : Fld := ⟨R.MTX_DT_FIRST_INFO, 1, 0⟩
def MTX_DT_LAST_INFO_VALID : Fld := ⟨R.MTX_DT_LAST_INFO, 31, 31⟩
def MTX_DT_LAST_INFO_WRITE : Fld := ⟨R.MTX_DT_LAST_INFO, 30, 30⟩
def MTX_DT_LAST_INFO_SIZE : Fld := ⟨R.MTX_DT_LAST_INFO, 29, 28⟩
def MTX_DT_LAST_INFO_MASTER : Fld := ⟨R.MTX_DT_LAST_INFO, 27, 24⟩
def MTX_DT_LAST_INFO_CAUSE : Fld := ⟨R.MTX_DT_LAST_INFO, 1, 0⟩
def MTX_DT_CNT_VALUE : Fld := ⟨R.MTX_DT_CNT, 31, 0⟩
def MTX_DT_CLR_CLR : Fld := ⟨R.MTX_DT_CLR, 0, 0⟩
def DMA_SRC_VALUE (i : Nat) : Fld := ⟨R.DMA_SRC i, 31, 0⟩
def DMA_DST_VALUE (i : Nat) : Fld := ⟨R.DMA_DST i, 31, 0⟩
def DMA_LEN_VALUE (i : Nat) : Fld := ⟨R.DMA_LEN i, 31, 0⟩
def DMA_STAT_BUSY (i : Nat) : Fld := ⟨R.DMA_STAT i, 31, 31⟩
def DMA_STAT_RESULT (i : Nat) : Fld := ⟨R.DMA_STAT i, 3, 0⟩
def DMA_DONE_VALUE (i : Nat) : Fld := ⟨R.DMA_DONE i, 31, 0⟩
def MEM_CNT_REP_COUNT : Fld := ⟨R.MEM_CNT_REP, 31, 0⟩
def MEM_CNT_POISON_COUNT : Fld := ⟨R.MEM_CNT_POISON, 31, 0⟩
def MEM_POISON_ADDR_VALUE : Fld := ⟨R.MEM_POISON_ADDR, 31, 0⟩
def MEM_POISON_INFO_VALID : Fld := ⟨R.MEM_POISON_INFO, 31, 31⟩
def MEM_POISON_INFO_MASTER : Fld := ⟨R.MEM_POISON_INFO, 27, 24⟩
def MEM_POISON_INFO_OFS_HI : Fld := ⟨R.MEM_POISON_INFO, 2, 0⟩
def LPM_BIN_START_HI_START : Fld := ⟨R.LPM_BIN_START_HI, 31, 0⟩
def LPM_BIN_START_LO_START : Fld := ⟨R.LPM_BIN_START_LO, 31, 0⟩
def LPM_ES_COUNT : Fld := ⟨R.LPM_ES, 31, 0⟩
def LPM_SES_COUNT : Fld := ⟨R.LPM_SES, 31, 0⟩
def LPM_BBE_COUNT : Fld := ⟨R.LPM_BBE, 31, 0⟩
def LPM_UAS_COUNT : Fld := ⟨R.LPM_UAS, 31, 0⟩
def LPM_SLIP_COUNT : Fld := ⟨R.LPM_SLIP, 31, 0⟩
def LPM_LOSS_COUNT : Fld := ⟨R.LPM_LOSS, 31, 0⟩
def LPM_UNAV_NE_LANES : Fld := ⟨R.LPM_UNAV_NE, 23, 0⟩
def LPM_UNAV_FE_LANES : Fld := ⟨R.LPM_UNAV_FE, 23, 0⟩
def LPM_THR15_THR (i : Nat) : Fld := ⟨R.LPM_THR15 i, 31, 0⟩
def LPM_THRDAY_THR (i : Nat) : Fld := ⟨R.LPM_THRDAY i, 31, 0⟩
def PMC_SEL_EN (i : Nat) : Fld := ⟨R.PMC_SEL i, 31, 31⟩
def PMC_SEL_MODE (i : Nat) : Fld := ⟨R.PMC_SEL i, 8, 8⟩
def PMC_SEL_EVENT (i : Nat) : Fld := ⟨R.PMC_SEL i, 7, 0⟩
def PMC_CSEL_EN (i j : Nat) : Fld := ⟨R.PMC_CSEL i j, 31, 31⟩
def PMC_CSEL_MODE (i j : Nat) : Fld := ⟨R.PMC_CSEL i j, 8, 8⟩
def PMC_CSEL_EVENT (i j : Nat) : Fld := ⟨R.PMC_CSEL i j, 7, 0⟩
def PMC_LO_CNT (i : Nat) : Fld := ⟨R.PMC_LO i, 31, 0⟩
def PMC_HI_CNT (i : Nat) : Fld := ⟨R.PMC_HI i, 15, 0⟩
def PMC_CLO_CNT (i j : Nat) : Fld := ⟨R.PMC_CLO i j, 31, 0⟩
def PMC_CHI_CNT (i j : Nat) : Fld := ⟨R.PMC_CHI i j, 15, 0⟩
def PMC_STAT_OVF (i : Nat) : Fld := ⟨R.PMC_STAT i, 31, 31⟩
def PMC_STAT_WCOLL (i : Nat) : Fld := ⟨R.PMC_STAT i, 30, 30⟩
def PMC_CSTAT_OVF (i j : Nat) : Fld := ⟨R.PMC_CSTAT i j, 31, 31⟩
def PMC_CSTAT_WCOLL (i j : Nat) : Fld := ⟨R.PMC_CSTAT i j, 30, 30⟩
def EVT_RING_WR_PTR : Fld := ⟨R.EVT_RING_WR, 13, 0⟩
def EVT_RING_RD_PTR : Fld := ⟨R.EVT_RING_RD, 13, 0⟩
def EVT_LOG_WR_VALUE : Fld := ⟨R.EVT_LOG_WR, 23, 0⟩
def EVT_SEQ_VALUE : Fld := ⟨R.EVT_SEQ, 31, 0⟩
def EVT_CNT_DROP_COUNT : Fld := ⟨R.EVT_CNT_DROP, 31, 0⟩
def EVT_CNT_OVW_COUNT : Fld := ⟨R.EVT_CNT_OVW, 31, 0⟩
def EVT_CNT_SUPP_COUNT : Fld := ⟨R.EVT_CNT_SUPP, 31, 0⟩
def EVT_SWB_CFG_EN : Fld := ⟨R.EVT_SWB_CFG, 31, 31⟩
def EVT_SWB_CFG_BASE : Fld := ⟨R.EVT_SWB_CFG, 21, 0⟩
def EVT_SWB_LOG_BASE : Fld := ⟨R.EVT_SWB_LOG, 12, 0⟩
def EVT_ALM_MAJ_MASK : Fld := ⟨R.EVT_ALM_MAJ, 31, 0⟩
def EVT_ALM_MIN_MASK : Fld := ⟨R.EVT_ALM_MIN, 31, 0⟩
def EVT_MSIX_REARM_LO_ARMED : Fld := ⟨R.EVT_MSIX_REARM_LO, 31, 0⟩
def EVT_MSIX_REARM_HI_ARMED : Fld := ⟨R.EVT_MSIX_REARM_HI, 31, 0⟩
def LIF_ADDR_ADDR : Fld := ⟨R.LIF_ADDR, 20, 2⟩
def LIF_DATA_VALUE : Fld := ⟨R.LIF_DATA, 31, 0⟩
def LIF_POH_COUNT : Fld := ⟨R.LIF_POH, 31, 0⟩
def LIF_CYCLES_COUNT : Fld := ⟨R.LIF_CYCLES, 31, 0⟩
def LIF_WEAR_BLOCK : Fld := ⟨R.LIF_WEAR, 8, 0⟩
def LIF_WEAR_THR_VALUE : Fld := ⟨R.LIF_WEAR_THR, 31, 0⟩
def HST_MSIX_PBA_LO_PENDING : Fld := ⟨R.HST_MSIX_PBA_LO, 31, 0⟩
def HST_MSIX_PBA_HI_PENDING : Fld := ⟨R.HST_MSIX_PBA_HI, 31, 0⟩
def PER_GPIO_OUT_OE : Fld := ⟨R.PER_GPIO_OUT, 31, 16⟩
def PER_GPIO_OUT_OUT : Fld := ⟨R.PER_GPIO_OUT, 15, 0⟩
def PER_GPIO_IN_IN : Fld := ⟨R.PER_GPIO_IN, 15, 0⟩
def PER_GPIO_EDGE_EN : Fld := ⟨R.PER_GPIO_EDGE, 31, 16⟩
def PER_GPIO_EDGE_SEEN : Fld := ⟨R.PER_GPIO_EDGE, 15, 0⟩
def HST_MSIX_ADDR_LO_ENTRY (i : Nat) : Fld := ⟨R.HST_MSIX_ADDR_LO i, 31, 0⟩
def HST_MSIX_ADDR_HI_ENTRY (i : Nat) : Fld := ⟨R.HST_MSIX_ADDR_HI i, 31, 0⟩
def HST_MSIX_DATA_ENTRY (i : Nat) : Fld := ⟨R.HST_MSIX_DATA i, 31, 0⟩
def HST_MSIX_CTL_MASK (i : Nat) : Fld := ⟨R.HST_MSIX_CTL i, 0, 0⟩
def DIR_ENTRY_BLOCK (i : Nat) : Fld := ⟨R.DIR_ENTRY i, 31, 16⟩
def DIR_ENTRY_PAGE (i : Nat) : Fld := ⟨R.DIR_ENTRY i, 11, 0⟩

end Sys2Proof.Machine.F
end

