-- ==== Sys2Proof/Machine/State.lean ====
section
/-! DEFINITION. The state of the block: plain data. It has layers, so that a definition's type says what it can touch:
`Ctl` (registers and control state), `Mem` (the addressed memories), `Xc` (the connection pages and selector tables), `Dp`
(the data path) and the queue of waiting commands. -/

namespace Sys2Proof.Machine

/-- Why the machine stops. No command of this block has a stop that the spec gives: the type has no constructor. -/
inductive Fault where
  deriving DecidableEq, Repr

/-- Why a command is refused. -/
inductive Refusal where
  /-- Raised by an arm of `exec` whose command has no meaning in the model. Safe: the machine stops. -/
  | notModelled (mnemonic : String)
  deriving DecidableEq, Repr

/-- The six modes of Table 2.1 (R31). -/
inductive Mode where
  | boot | commission | active | standby | maintenance | recovery
  deriving DecidableEq, Repr

/-- The mode's code in TOP_MODE.MODE (Table 2.1). -/
def Mode.code : Mode → Nat
  | .boot => 0 | .commission => 1 | .active => 2 | .standby => 3 | .maintenance => 4 | .recovery => 5

/-- The unit's service role (R33). -/
inductive SvcRole where
  | none | active | standby | isolated
  deriving DecidableEq, Repr

/-- The role's code in TOP_MODE.SVC_ROLE (R33). -/
def SvcRole.code : SvcRole → Nat
  | .none => 0 | .active => 1 | .standby => 2 | .isolated => 3

/-- The sources of a system reset (Table 2.4). -/
inductive ResetSource where
  | por | pin | wdog | software | tap
  deriving DecidableEq, Repr

/-- The cause bit of TOP_RST_CAUSE that a source sets (R48). -/
def ResetSource.bit : ResetSource → Nat
  | .por => 0 | .pin => 1 | .wdog => 2 | .software => 3 | .tap => 4

/-- The copy of the commissioning record that the device runs on (R61, R63): the CW register values by address, its
generation and the MRAM copy that holds it. -/
structure CommRecord where
  gen : Nat
  copy : Nat
  vals : Tbl Word
  deriving DecidableEq, Repr

/-- A key as it is used: its bytes, its epoch and, in a seal slot, its SIDE (R396, R399). -/
structure KeyVal where
  bytes : List Byte
  epoch : Nat
  side : Bool
  deriving DecidableEq, Repr

/-- A domain of the timebase (R329 to R338). Times are in units of 2⁻³² ns. -/
structure Domain where
  /-- the 96-bit value -/
  val : Nat := 0
  /-- INC, the increment applied outside a slew -/
  inc : Nat := 0x4E2000000
  /-- the INC_INT written and not yet acted on -/
  incInt : Option Nat := none
  /-- SLEW_LEFT -/
  slew : Int := 0
  isSet : Bool := false
  suspect : Bool := false
  /-- the allowance held from reset until the first step (R334) -/
  first : Bool := true
  /-- the allowance granted by ARM -/
  armed : Bool := false
  /-- the mode in which ARM granted it -/
  armMode : Mode := .boot
  result : Nat := 0
  deriving DecidableEq, Repr

/-- A stamp in both domains (R344). -/
structure Stamp2 where
  a : Nat
  b : Nat
  deriving DecidableEq, Repr

/-- A time exchange of a lane (R346). -/
structure Exchange where
  domB : Bool
  t1 : Nat
  t2 : Nat
  t3 : Nat
  t4 : Nat
  flags : Nat
  t2seq : Nat
  deriving DecidableEq, Repr

/-- The multiframe stamps of a lane (R344, R346): the last 8 transmit stamps with their MF_SEQ, oldest first. -/
structure MfStamps where
  /-- the instant of the last transmit stamp, in 2⁻³² ns of the machine timer, and the domain of the lane's exchanges, as the last latch
  took it (R345) -/
  due : Int := 0
  domB : Bool := false
  tx : List (Nat × Stamp2) := []
  rx : Option Stamp2 := none
  xch : Option Exchange := none
  miss : Nat := 0
  deriving DecidableEq, Repr

/-- An entry of a transmit stamp queue (R350). -/
structure TxStamp where
  id : Nat
  domB : Bool
  src : Nat
  stamp : Nat
  deriving DecidableEq, Repr

/-- A transmit stamp that has been asked for: its event crosses the plane at an instant, in 2⁻³² ns of the machine timer (R343, R350). -/
structure StampWant where
  id : Nat
  domB : Bool
  src : Nat
  due : Int
  deriving DecidableEq, Repr

/-- A transmit stamp queue (R350, R351). -/
structure TxQueue where
  items : List TxStamp := []
  ovf : Bool := false
  bad : Bool := false
  drop : Nat := 0
  deriving DecidableEq, Repr

/-- The timebase. -/
structure Timebase where
  a : Domain := {}
  b : Domain := {}
  /-- the selected domain: `true` is B -/
  selB : Bool := false
  /-- the offset O -/
  ofs : Int := 0
  selResult : Nat := 0
  /-- S at the latest frame boundary, in 2⁻³² ns (R356) -/
  sb : Nat := 0
  /-- captured values, by group × 16 + master (R332) -/
  caps : Tbl (List Nat) := []
  /-- PPS_IN: edge count, FN[31:0] and both domains at the last edge (R353) -/
  ppsSeq : Nat := 0
  ppsFn : Nat := 0
  pps : Stamp2 := ⟨0, 0⟩
  /-- PPS_OUT is high, and the whole second for which it last rose (R354) -/
  ppsHigh : Bool := false
  ppsLast : Nat := 0
  /-- the moment at which the present pulse ends -/
  ppsEnd : Nat := 0
  lanes : Tbl MfStamps := []
  txq : Tbl TxQueue := []
  /-- requested stamps that have not been pushed, oldest first, with their queues (R350) -/
  txPend : List (Nat × StampWant) := []
  /-- both domains at the last frame boundaries and at each later change of a rate or value, newest first, with their moments: what a stamp
  of an instant that has passed is taken from (R343) -/
  past : List (Nat × Domain × Domain) := []
  /-- TMU outputs are squelched (R326) -/
  squelched : Bool := false
  deriving DecidableEq, Repr

/-- A candidate of the alignment hunt (R104): its bit position, how often it has matched (a third match confirms it), and the
last MFI bytes and BIP-8 results at it, oldest first. -/
structure Cand where
  pos : Nat
  hits : Nat
  mfis : List Nat
  bips : List Nat
  deriving DecidableEq, Repr

/-- What an aligner does in a system frame: whole frames that its delay holds back, its slip and its blanking (R121 to R128). (DEDUCED: log entry 27.) -/
structure Release where
  held : Nat := 0
  slip : Nat := 0
  blank : Bool := false
  deriving DecidableEq, Repr

/-- A receive lane: CDR, equaliser, hunt, alignment, detectors, aligner and bond membership. -/
structure LaneRx where
  /-- the input is above the LOS threshold -/
  sig : Bool := false
  cdr : Bool := false
  eqConv : Bool := false
  eyeV : Nat := 0
  eyeH : Nat := 0
  /-- the rate in force (R100) -/
  rate : Nat := 0
  /-- the terminal loop is made (R131) -/
  looped : Bool := false
  inFrame : Bool := false
  ambig : Bool := false
  cands : List Cand := []
  /-- a decision window is open (R106) -/
  window : Bool := false
  /-- consecutive errored FAWs (R109) -/
  fawErr : Nat := 0
  mfAligned : Bool := false
  /-- the MFI byte last received -/
  mfi : Nat := 0
  /-- consecutive frames with a counting MFI (R111) -/
  mfRun : Nat := 0
  mfExp : Nat := 0
  /-- consecutive MFI errors (R111) -/
  mfErr : Nat := 0
  /-- the BIP-8 of the last received frame (R79) -/
  lastXor : Option Nat := none
  los : Bool := true
  lol : Bool := true
  lof : Bool := true
  ais : Bool := false
  tim : Bool := false
  auth : Bool := false
  exc : Bool := false
  deg : Bool := false
  rdi : Bool := false
  top : Nat := 1
  aisUp : Nat := 0
  aisDown : Nat := 0
  rdiUp : Nat := 0
  rdiDown : Nat := 0
  excCnt : Nat := 0
  degCnt : Nat := 0
  /-- DECL and CLR of the windows that run, their lengths in frames, and the moments at which they end, in machine-timer ticks (R116) -/
  excSet : Nat × Nat := (80, 40)
  degSet : Nat × Nat := (5537, 2768)
  excLen : Nat := 80
  degLen : Nat := 8000
  excEnd : Nat := 0
  degEnd : Nat := 0
  /-- errored bits found since the REI of the last sent frame was taken (R77) -/
  reiSum : Nat := 0
  /-- d_align, 1/64 ns (R121) -/
  dly : Nat := 0
  /-- arrival of the lane's MFI-0 FAW, 1/64 ns modulo 4 ms (R125) -/
  arr : Nat := 0
  joined : Bool := false
  /-- the member waits to join at the next frame boundary (R126) -/
  joining : Bool := false
  bondOut : Bool := false
  /-- the aligner delivers 0xFF in the frame that begins next (R128) -/
  blank : Bool := false
  /-- what the aligner does in the frame that begins next: 0 nothing, 1 repeats a frame, 2 deletes one (R122) -/
  slip : Nat := 0
  /-- how the aligner releases the frame in progress (R121 to R128) -/
  rel : Release := {}
  deriving DecidableEq, Repr

/-- A lane bond that exists (R125): reference arrival and delay in 1/64 ns, and the member whose arrival fixed it. -/
structure Bond where
  refArr : Nat
  dly : Nat
  refLane : Nat
  deriving DecidableEq, Repr

/-- A transmit lane. -/
structure LaneTx where
  /-- what the lane sends: 0 page output, 1 lane AIS, 2 line loopback, 3 electrical idle (Table 4.5) -/
  source : Nat := 1
  /-- the FFE combination in force (R517) -/
  ffe : Nat := 0x3F00
  /-- STAT.RDI and REI of the last frame sent -/
  rdi : Bool := false
  rei : Nat := 0
  /-- the BIP-8 of the last frame sent (R79) -/
  lastXor : Option Nat := none
  /-- the MOB of the multiframe in progress, as it is sent (R83) -/
  mob : List Byte := []
  /-- TX_EN as in effect since the last multiframe boundary at which it changed (R157) -/
  sealOn : Bool := false
  /-- the lane seals in this multiframe: its key and its sequence (R157, R158) -/
  sealed : Option (KeyVal × Nat) := none
  /-- the tag of this multiframe stands in its MOB (R159) -/
  tagged : Bool := false
  /-- the APS bytes of this multiframe so far (R89), and those of frame 31 fixed with frame 30 (R159) -/
  apsMf : List Byte := []
  apsNext : List Byte := []
  /-- the SEQ counter of APS messages (R96) -/
  apsSeq : Nat := 0
  /-- the groups last sent under items 1 and 2 of R268 -/
  lastPend : Option Nat := none
  lastRef : Option Nat := none
  deriving DecidableEq, Repr

/-- What a lane's overhead processing holds. -/
structure LaneOh where
  /-- MOB slices of the received multiframe in progress, in MFI order from 0; `mobRun` while no slice is missing (R92) -/
  mobBuf : List Byte := []
  mobRun : Bool := false
  /-- STAT.SEALED was 1 in every frame of the multiframe so far (R161), and 0 in some frame -/
  sealedAll : Bool := false
  /-- a received multiframe is in progress since its MFI-0 position (R163) -/
  mfOpen : Bool := false
  /-- a STAT.SEALED that differs from the expectation has been counted in this multiframe (R149) -/
  mismatched : Bool := false
  /-- the APS messages of the received multiframe so far, oldest first, and how many of them, the first ones, were passed on as those of an
  unsealed lane; the rest is held until the MOB is judged (R161, R162) -/
  apsHeld : List (List Byte) := []
  apsPassed : Nat := 0
  /-- a complete MOB that waits for its judgement, with `sealedAll`, `apsPassed` and the messages of its multiframe -/
  mobDone : Option (List Byte × Bool × Nat × List (List Byte)) := none
  /-- APS messages received on an unsealed lane and not yet handled, oldest first (R162) -/
  apsIn : List (List Byte) := []
  /-- consecutive multiframes without, and with, an accepted MOB (R163) -/
  authBad : Nat := 0
  authGood : Nat := 0
  /-- consecutive accepted MOBs whose TRACE differs, and matches (R151) -/
  timDiff : Nat := 0
  timSame : Nat := 0
  /-- the last acceptance, and whether it was made under sealing (R148). Moments are ticks of the machine timer -/
  accAt : Option Nat := none
  sealedAcc : Bool := false
  /-- the last acceptance made under sealing -/
  sealedAt : Option Nat := none
  feActive : Bool := false
  /-- S_last (R160) -/
  sLast : Option Nat := none
  /-- the UNIT fields accepted in the last 8 ms, newest first: the moment, PAIR_ID, DEVID, ACTIVE (R156) -/
  units : List (Nat × Nat × Nat × Bool) := []
  /-- the last conflicting pair of acceptances of this lane (R156) -/
  conflAt : Nat := 0
  /-- ECHO_PCOUNT of the previous observation and its moment (R155, R377) -/
  echoLast : Option Nat := none
  echoAt : Nat := 0
  /-- MF_SEQ and receive stamps of the last accepted MOB (R345) -/
  t2 : Option (Nat × Stamp2) := none
  /-- the receive stamp of the multiframe being received or of the complete MOB that waits for its judgement (R344) -/
  rxStamp : Option Stamp2 := none
  /-- DCC-W rings 2 and 3 are in stamped form (R347) -/
  stamped2 : Bool := false
  stamped3 : Bool := false
  /-- data bytes of the stamped transmit record in progress, still to be sent -/
  txRec : List Byte := []
  /-- bytes of that record in the ring, header, data and padding, still held -/
  txRecLen : Nat := 0
  /-- the record asks for a stamp: its ID and domain (R350) -/
  txStamp : Option (Nat × Bool) := none
  deriving DecidableEq, Repr

/-- An overhead serial port (R139 to R142). -/
structure Osp where
  store : List Byte := []
  running : Bool := false
  slips : Nat := 0
  /-- the block received on OSP_DI, sent as DCC-N of the next frame (R141) -/
  di : List Byte := []
  /-- the last block sent on OSP_DO -/
  out : List Byte := []
  deriving DecidableEq, Repr

/-- A memory set: a connection page and its selector table (R198, R199). Entries are keyed by lane × 2¹⁸ + slot, and an unlisted
entry is 0xC000_0000; an unlisted selector is 0. -/
structure PageSet where
  entries : Tbl Nat := []
  sels : Tbl Nat := []
  /-- entries marked bad (R189) -/
  badE : List Nat := []
  /-- selectors marked bad, with the halves that held a failing byte (bit 0 lower, bit 1 upper) (R190, R191) -/
  badS : Tbl Nat := []
  deriving DecidableEq, Repr

/-- A pending swap (R209 to R212): its target frame number, whether it is agreed, whether it was scheduled late, and whether a
pennant has been missed since it was accepted (R218). -/
structure SwapReq where
  target : Nat
  agree : Bool
  late : Bool
  missed : Bool := false
  deriving DecidableEq, Repr

/-- What an access on the bus matrix, or a host request, answered. -/
inductive Answer where
  | none
  | data (v : Nat)
  | error
  /-- a host request answered with Unsupported Request (R487, R491) -/
  | unsupported
  /-- the bytes of a host read request that was completed, in increasing address -/
  | bytes (l : List Byte)
  deriving DecidableEq, Repr

/-- Why a speed measurement was started (R229, R468). -/
inductive MeasKind where
  | scheduled | request | ramp
  deriving DecidableEq, Repr

/-- What the scan of a seal leaves for the ledger to judge (R205 to R208): the fingerprint, the assembled slots, the selector and
data-memory reads, the hottest sub-bank and its reads. -/
structure SealScan where
  fp : Nat := 0
  slots : Nat := 0
  selReads : Nat := 0
  dmReads : Nat := 0
  hotBank : Nat := 0
  hotReads : Nat := 0
  deriving DecidableEq, Repr

/-- What waits for the first evaluation (R228). -/
inductive Waiting where
  /-- a claim of LGR_CLAIM; `last`: no later write of LGR_CLAIM has been answered, so that its RESULT is this one's -/
  | claim (acct amount : Nat) (last : Bool)
  /-- the store of a configuration page, with its HLE claim -/
  | store (page amount : Nat)
  /-- a seal whose scan has ended without a malformation -/
  | seal (scan : SealScan)
  deriving DecidableEq, Repr

/-- The capacity ledger and the speed monitors. -/
structure Margin where
  /-- A_ref of the ACTIVE side and of a STANDBY side sealed with ACCEPT, in 0.1 ps (R226, R236) -/
  refAct : Nat := 180640000
  refStby : Option Nat := none
  /-- the claims and the seal that wait for the first evaluation, in order of arrival (R228) -/
  waiting : List Waiting := []
  /-- the evaluations that are due: one for each trigger, made one after the other (R236) -/
  evalDue : Nat := 0
  /-- the measurement that runs, and those that wait for it -/
  meas : Option MeasKind := none
  measWait : List MeasKind := []
  /-- a measurement has ended since reset -/
  measured : Bool := false
  /-- SI_125 of the valid measurements since reset, the last 16, oldest first (R231) -/
  si : List Int := []
  /-- SI_avg of the life record's speed-index history, oldest first (R232, R469) -/
  history : List Nat := []
  /-- power-on hours at which the next speed-index entry falls due (R469) -/
  historyDue : Nat := 720
  /-- the bin of the last valid temperature (R468) -/
  tempBin : Option Nat := none
  /-- the voltage that the ramp in progress ends at, and the failed attempts at its present step (R237) -/
  rampTo : Nat := 0
  fails : Nat := 0
  deriving DecidableEq, Repr

/-- A protection group: the applied copy of its configuration (R246) and its live state. Slot group g has key g, and lane
group j has key 65,536 + j. -/
structure Group where
  en : Bool := false
  revert : Bool := false
  bidir : Bool := false
  monEn : Bool := false
  feSelEn : Bool := false
  txBridge : Bool := false
  w : Nat := 0
  p : Nat := 0
  /-- the lane of its APS messages: APS_LANE, or P_LANE of a lane group -/
  apsLane : Nat := 0
  apsId : Nat := 0
  holdoff : Nat := 0
  wtr : Nat := 0
  monN : Nat := 0
  monIdx : Nat := 0
  sel : Bool := false
  req : Nat := 0
  feReq : Nat := 0
  feSel : Bool := false
  /-- 0 none, 1 LO, 2 FS, 3 MS -/
  cmd : Nat := 0
  /-- effective conditions, in the order W_SF, W_SD, P_SF, P_SD (R255) -/
  eff : List Bool := [false, false, false, false]
  /-- the hold-off timers, in the same order: the moment at which a present raw condition becomes effective (R255) -/
  hold : List (Option Nat) := [none, none, none, none]
  /-- the moment at which a running wait-to-restore timer ends -/
  wtrEnd : Option Nat := none
  /-- the ticks that a frozen wait-to-restore timer had left (R263) -/
  wtrHeld : Option Nat := none
  /-- the moment at which FE_LOST is declared unless a message is matched (R266); while the group is frozen, the ticks left -/
  lostAt : Nat := 0
  /-- the moment at which a difference of the selections becomes FE_MISM (R266); while the group is frozen, the ticks left -/
  mismAt : Option Nat := none
  feLost : Bool := false
  feMism : Bool := false
  apsPend : Bool := false
  frozen : Bool := false
  /-- REQ, BR and SEL as they would be sent (R267) -/
  sent : Nat × Bool × Bool := (0, false, false)
  /-- the bridge of a lane group, in effect (R250) -/
  bridge : Bool := false
  /-- slot-AIS monitor: frames with 0xFF, frames without, and the report, for working and protection (R252, R253) -/
  monW : Nat := 0
  monP : Nat := 0
  clrW : Nat := 0
  clrP : Nat := 0
  repW : Bool := false
  repP : Bool := false
  deriving DecidableEq, Repr

/-- An entry of a host-lane or recorder-lane configuration table (R277): its stored words and what is in effect. -/
structure CfgEntry where
  words : List Nat
  /-- an accepted store waits for the next frame boundary (R277) -/
  due : Bool := false
  /-- the words in effect; none while the entry is disabled in effect -/
  eff : List Nat := []
  /-- claims on the HLE and DDR accounts that the next boundary releases (R278) -/
  rel : Nat × Nat := (0, 0)
  /-- the frame that began when it took effect (R285) -/
  enFn : Nat := 0
  /-- WR of a transmit circuit as read at the last frame boundary (R282) -/
  wrSeen : Nat := 0
  deriving DecidableEq, Repr

/-- The counters of a pattern checker (R293, R294). -/
structure PlCount where
  err : Nat := 0
  frames : Nat := 0
  loss : Nat := 0
  sync : Bool := false
  deriving DecidableEq, Repr

/-- A pattern group: its stored words, its generator and its checker (R291 to R295). -/
structure PlGroup where
  words : List Nat := [0, 0]
  due : Bool := false
  /-- the words in effect -/
  eff : List Nat := [0, 0]
  /-- the generator's shift register, or the next byte of the counting pattern -/
  genState : Nat := 0
  /-- the bits received last (newest in bit 0), how many of them are held, and the run of agreeing bits -/
  hist : Nat := 0
  held : Nat := 0
  run : Nat := 0
  /-- checked bits and errors of the block of 1,024 in progress -/
  blkBits : Nat := 0
  blkErrs : Nat := 0
  now : PlCount := {}
  snap : PlCount := {}
  deriving DecidableEq, Repr

/-- A candidate of the TMU (R305 to R309): its state in TMU_CAND_STAT's coding, the run it counts, the rest of its wait-to-restore
timer, y of the last second when it yielded values, and whether the frequency of the last whole second lay beyond ±1,000 ppm. -/
structure TmuCand where
  state : Nat := 0
  count : Nat := 0
  left : Nat := 0
  y : Option Int := none
  wild : Bool := false
  /-- the phases of the last 10 edges of a 1PPS candidate, oldest first, in ns (R306) -/
  edges : List Int := []
  deriving DecidableEq, Repr

/-- A phase step that waits for its multiframe boundary (R317, R321). -/
inductive StepKind where
  | plain | mate
  deriving DecidableEq, Repr

/-- The timing management unit. STATE, SEL and the flags stand in TMU_STAT. -/
structure Tmu where
  cands : Tbl TmuCand := []
  /-- twice the ensemble median of the last second (R307) -/
  med2 : Option Int := none
  /-- consecutive seconds in which the selected candidate disagreed with another of its rank, and, for each other candidate, those in
  which it lay more than 9.2 ppm from that one (R312) -/
  disRun : Nat := 0
  wideRuns : Tbl Nat := []
  /-- the two candidates in REF_CONFLICT (R313) -/
  conflict : Option (Nat × Nat) := none
  /-- holdover samples, oldest first, at most 600 (R318) -/
  history : List Int := []
  step : Option StepKind := none
  /-- FSYNC_OUT and CLK_OUT are squelched (R326) -/
  squelched : Bool := false
  /-- the same in the frame before -/
  squelchedWas : Bool := false
  deriving DecidableEq, Repr

/-- The last valid pennant of the mate (Table 13.2). -/
structure Pennant where
  kind : Nat
  devid : Nat
  roles : Nat
  count : Nat
  ack : Nat
  fn : Nat
  /-- RX_PHASE, 1/64 ns -/
  rxPhase : Int
  h : Nat
  fpActive : Nat
  fpStby : Nat
  cmp : Nat
  swapT : Nat
  tmu : Nat
  prot : Nat
  deriving DecidableEq, Repr

/-- An echo observation given to the pair logic (R155, R372): its lane, its moment in ticks of the machine timer, and what it
proves: 1 alive, 2 silent, 0 neither. -/
structure EchoObs where
  lane : Nat
  time : Nat
  proof : Nat
  deriving DecidableEq, Repr

/-- A role change that waits for its boundary (R369 to R376). -/
inductive RoleAct where
  | take | release | toStandby
  deriving DecidableEq, Repr

/-- A hand-over in progress: proposed by the PRIMARY, acknowledged or committed by the SECONDARY (R381). -/
inductive Handover where
  | none | proposed | acked | committed
  deriving DecidableEq, Repr

/-- The receiver of the Halyard link: it hunts for a message, and the symbols held (R362, R363). -/
structure HyRx where
  hunt : Bool := false
  syms : List Nat := []
  deriving DecidableEq, Repr

/-- The pair logic. UPR registers that the device sets stand in the register file. -/
structure Pair where
  /-- no pennant has been valid since the last entry to SEEKING or PARTED (R366) -/
  fresh : Bool := true
  mate : Option Pennant := none
  /-- consecutive good pennants, and missed pennants since the last valid one (R368) -/
  good : Nat := 0
  missed : Nat := 0
  /-- arrival of the last valid pennant against the unit's own nearest pennant boundary, 1/64 ns (RX_PHASE) -/
  phase : Int := 0
  /-- θ of the last valid pennants, oldest first, 1/128 ns, at most 8, and how many of the last were consecutive, at most 8 (R382) -/
  thetas : List Int := []
  run : Nat := 0
  /-- DEVID of the first pennant since reset that passed every other test (R367) -/
  learned : Option Nat := none
  /-- a D has passed since the pair was last PAIRED (R375) -/
  judged : Bool := false
  /-- the receiver of the Halyard link, and the sender's symbols: not yet sent, and sent and not acknowledged (R362, R363) -/
  rx : HyRx := {}
  hyLeft : Nat := 0
  hyUnacked : Nat := 0
  /-- the level of HY_RA, which answers the mate's symbols (R362) -/
  hyRa : Bool := false
  /-- echo observations of the last 32 ms, oldest first -/
  obs : List EchoObs := []
  /-- start of the decision window in machine-timer ticks, and the frame number of D while it lies ahead (R373) -/
  decFrom : Nat := 0
  decAt : Option Nat := none
  /-- a role action and the frame number of the boundary at which it acts (R370, R374 to R376) -/
  act : Option (RoleAct × Nat) := none
  /-- moment at which the unit entered service, in machine-timer ticks (R370) -/
  serviceAt : Option Nat := none
  /-- a valid BYE waits for its take: the boundary that it names and the moment of its arrival (R376) -/
  bye : Option (Nat × Nat) := none
  ho : Handover := .none
  /-- H of the hand-over -/
  hoH : Nat := 0
  /-- a pennant has been missed since the first HO_ACK (R381) -/
  hoMissed : Bool := false
  /-- a valid pennant sent at or after H reported the mate's ACTIVE flag 0 (R381) -/
  hoSeen : Bool := false
  /-- end of the revert wait-to-restore timer, in machine-timer ticks (R380) -/
  wtrEnd : Option Nat := none
  /-- a failed hand-over is proposed again at this moment (R380) -/
  hoRetry : Option Nat := none
  /-- FN of the unit's own boundary nearest the arrival of the last valid pennant (R321) -/
  fnOwn : Nat := 0
  /-- consecutive pennants whose fingerprint differs from the unit's own, and agrees with it (R219) -/
  mirDiff : Nat := 0
  mirSame : Nat := 0
  /-- the last message sent on the Halyard link -/
  out : List Byte := []
  deriving DecidableEq, Repr

/-- The latch of the cipher engine (R390 to R393). Times are in ticks since reset. -/
structure Latch where
  /-- the holding master; 10 is the SLR -/
  holder : Option Nat := none
  /-- the grant of the present holder -/
  since : Nat := 0
  slrWaiting : Bool := false
  /-- the SLR's request -/
  asked : Nat := 0
  deriving DecidableEq, Repr

/-- A key slot (R394 to R401, R411). -/
structure KeySlot where
  key : Option KeyVal := none
  staged : Option KeyVal := none
  /-- the previous key of a seal slot, with its S_last -/
  prev : Option (KeyVal × Option Nat) := none
  /-- the stored epoch and SIDE -/
  epoch : Nat := 0
  side : Bool := false
  /-- the invocation counter, and the reservation R stored in the life record -/
  ctr : Nat := 0
  resv : Nat := 0
  exhausted : Bool := false
  deriving DecidableEq, Repr

/-- The context of a cipher job (R387). -/
structure JobCtx where
  /-- 1 ENC, 2 DEC, 3 GEN, 4 VER -/
  op : Nat
  slot : Nat
  flagged : Bool
  tagLen : Nat
  iv : List Byte
  key : List Byte
  hash : Nat := 0
  aadLen : Nat := 0
  dataLen : Nat := 0
  /-- a segment has had LEN above 0 (R387) -/
  lenUsed : Bool := false
  deriving DecidableEq, Repr

/-- A segment that runs. -/
structure Segment where
  master : Nat
  last : Bool
  aad : Nat
  aadLen : Nat
  src : Nat
  dst : Nat
  len : Nat
  /-- randomised operation, taken at its start (R406) -/
  rand : Bool
  ctx : JobCtx
  deriving DecidableEq, Repr

/-- A single-block job of the SLR (R408 to R411). -/
structure SlrJob where
  lane : Nat
  /-- 0 transmit mask, 1 receive mask, 2 receive mask under the previous key, 3 hash key, 4 transmit mask under a staged key -/
  kind : Nat
  seq : Nat
  deriving DecidableEq, Repr

/-- The cipher engine and the sealer. -/
structure Cipher where
  slots : Tbl KeySlot := []
  seg : Option Segment := none
  /-- suspended jobs, by master, and those that a zeroise has discarded and whose next segment is still to be refused (R387, R398) -/
  susp : Tbl JobCtx := []
  wiped : Tbl JobCtx := []
  /-- jobs of the SLR that wait, and those that are done -/
  pend : List SlrJob := []
  ready : List SlrJob := []
  /-- masks that have been requested on demand (R410) -/
  demand : List SlrJob := []
  deriving DecidableEq, Repr

/-- A bound mailbox channel (R438): the words of its slots (slot × 16 + word; slot 0 is A to B, slot 1 is B to A) and their
flags. -/
structure Mailbox where
  words : Tbl Word := []
  full0 : Bool := false
  ack0 : Bool := false
  full1 : Bool := false
  ack1 : Bool := false
  deriving DecidableEq, Repr

/-- An event record of 64 bytes, before it is laid out (Table 16.4). -/
structure EvRec where
  seq : Nat
  /-- 0 EVENT, 1 GAP, 2 SUMMARY, 3 SWITCH -/
  typ : Nat
  cls : Nat
  evBit : Nat
  page : Nat
  fn : Nat
  flags : Nat
  /-- S at the raise, in 2⁻³² ns -/
  time : Nat
  stat : Nat
  detail : List Byte
  /-- NSEQ: 0 in a log-only record -/
  nseq : Nat := 0
  deriving DecidableEq, Repr

/-- A louvre: the tokens it holds and what it has suppressed since its last GAP record (R461). -/
structure Louvre where
  tokens : Nat
  supp : Nat := 0
  first : Nat := 0
  last : Nat := 0
  /-- the moment from which it gains its tokens, and the tokens that have fallen due since -/
  since : Nat := 0
  given : Nat := 0
  deriving DecidableEq, Repr

/-- The summary window of a cause lane (R465). -/
structure Summary where
  count : Nat
  toProt : Nat
  first : Nat
  last : Nat
  /-- the moment of the machine timer at which it ends -/
  till : Nat := 0
  deriving DecidableEq, Repr

/-- The event engine. -/
structure Events where
  /-- records that wait for the notify ring (R463), oldest first -/
  waiting : List EvRec := []
  /-- records in SEQ order that have not entered the log ring (R464) -/
  unlogged : List EvRec := []
  /-- records in the notify ring: position and record -/
  held : Tbl EvRec := []
  nseq : Nat := 1
  /-- louvres by page × 32 + event bit -/
  louvres : Tbl Louvre := []
  /-- the per-page registers that EVT_ALM_IDX selects -/
  lvCfg : Tbl Word := []
  route : Tbl Word := []
  maj : Tbl Word := []
  min : Tbl Word := []
  /-- groups pending a SWITCH record (R465): group key, then fold count, frames of the first and last switch, cause lane -/
  swPend : Tbl (Nat × Nat × Nat × Nat) := []
  /-- the group after which the cyclic scan goes on -/
  swScan : Nat := 0
  /-- open summary windows by cause lane -/
  windows : Tbl Summary := []
  /-- MSI-X messages sent: vector numbers, latest first -/
  sent : List Nat := []
  deriving DecidableEq, Repr

/-- A performance counter (R455, R456). Its count may stand at or above 2⁴⁸ until PMC_OVERFLOW wraps it. (DEDUCED: log entry 70.) -/
structure PmcCounter where
  en : Bool := false
  level : Bool := false
  event : Nat := 0
  val : Nat := 0
  hiHeld : Nat := 0
  ovf : Bool := false
  wcoll : Bool := false
  /-- the machine-timer tick in which an occurrence was last counted as a level (R455) -/
  hitAt : Option Nat := none
  deriving DecidableEq, Repr

/-- What a PM second of a lane has seen so far (R448). -/
structure PmAcc where
  ne : Nat := 0
  fe : Nat := 0
  slips : Nat := 0
  neDef : Bool := false
  feDef : Bool := false
  los : Bool := false
  /-- R103 applied at some moment -/
  off : Bool := false
  deriving DecidableEq, Repr

/-- A PM bin that all lanes share: its number, its start (integer ns of S), the frame number at its start, UNTIMED and PARTIAL
(R451, R452). -/
structure PmHdr where
  num : Nat
  start : Nat
  fn : Nat
  untimed : Bool
  part : Bool := false
  deriving DecidableEq, Repr

/-- A PM second that has ended and is not committed (R450): the numbers of the bins that contain it, its frames, and what each
contributing lane saw. -/
structure PmSecond where
  q : Nat
  d : Nat
  frames : Nat
  rows : Tbl PmAcc
  deriving DecidableEq, Repr

/-- Line performance monitoring. -/
structure LinePm where
  /-- 15-minute bins and day bins, newest first -/
  q : List PmHdr := [⟨0, 0, 0, true, false⟩]
  d : List PmHdr := [⟨0, 0, 0, true, false⟩]
  /-- the frames of the PM second in progress, and the whole seconds of S at which it began (R447) -/
  frames : Nat := 0
  sec : Nat := 0
  pend : List PmSecond := []
  /-- counts SECS, ES, SES, BBE, UAS, SLIP, LOS, by ((bin number × 2 + day) × 64 + lane × 2 + side) -/
  counts : Tbl (List Nat) := []
  deriving DecidableEq, Repr

/-- What the device keeps of the life record between its checkpoints (R468 to R471). -/
structure Life where
  hours : Nat := 0
  cycles : Nat := 0
  /-- counts of each reset cause in the order of TOP_RST_CAUSE[4:0] -/
  causes : List Nat := [0, 0, 0, 0, 0]
  recoveries : Nat := 0
  /-- minutes per temperature bin -/
  hist : List Nat := [0, 0, 0, 0, 0, 0, 0, 0, 0, 0, 0, 0, 0, 0, 0, 0]
  /-- word writes per block of 4 KB -/
  wear : Tbl Nat := []
  /-- the fault record being written, without its SEQ -/
  fault : Option (List Byte) := none
  /-- the moment of the machine timer at which the power-on hour ends (R468) -/
  hourEnd : Nat := 737280000000
  deriving DecidableEq, Repr

/-- A UART (R493): the bytes that wait to be sent, oldest first, the byte that is being sent, and the bytes received. -/
structure Uart where
  tx : List Byte := []
  sending : Option Byte := none
  /-- the moment of the machine timer at which its frame ends -/
  endAt : Nat := 0
  rx : List Byte := []
  deriving DecidableEq, Repr

/-- A control core as the privileged architecture has it (R416 to R418). The reset values of mstatus, the PMP entries and
the other registers for which R417 gives none are the model's. (DESIGN CHOICE: log entry 12.) -/
structure Hart where
  /-- in user mode -/
  user : Bool := false
  /-- the address of the next instruction: where the core starts, where a trap or MRET sends it, or the one after the instruction last
  brought in -/
  pc : Nat := 0
  /-- x1 to x31 -/
  xregs : Tbl Word := []
  /-- the reservation of LR: the address reserved -/
  resv : Option Nat := none
  /-- mstatus: TW -/
  tw : Bool := false
  /-- mcounteren -/
  counteren : Nat := 0
  /-- mstatus: MIE, MPIE, MPP (user mode) and MPRV -/
  mie : Bool := false
  mpie : Bool := false
  mppUser : Bool := false
  mprv : Bool := false
  /-- mie: MTIE in bit 7, MEIE in bit 11 -/
  mieReg : Nat := 0
  mtvec : Nat := 0
  mscratch : Nat := 0
  mepc : Nat := 0
  mcause : Nat := 0
  mtval : Nat := 0
  /-- the configuration byte and the address register of each of the 16 PMP entries -/
  pmpcfg : Tbl Nat := []
  pmpaddr : Tbl Nat := []
  minstret : Nat := 0
  /-- mcountinhibit: bit 0 stops mcycle, bit 2 minstret, and bits 3 to 10 the core's own counters (R457) -/
  inhibit : Nat := 0
  /-- mcycle at a moment of the machine timer -/
  cycle : Nat := 0
  cycleAt : Nat := 0
  deriving DecidableEq, Repr

/-- The registers and the control state of every unit. (DESIGN CHOICE, PRESUMED: log entries 7, 8.) -/
structure Ctl where
  /-- every register that holds its own value, by page × 0x1000 + offset (R474) -/
  regs : Tbl Word := []
  /-- the system reset in progress, with its source (Table 2.4) -/
  held : Option ResetSource := some .por
  /-- the reset in progress was taken while XO_LOST was present (R45, R48) -/
  heldXoLost : Bool := false
  /-- TOP_RST_CAUSE.PERST, which a system reset does not touch (R46, R47) -/
  perstSeen : Bool := false
  /-- the level of PERST_N is low (R47, R485) -/
  perstLow : Bool := false
  /-- the mode (R31) -/
  mode : Mode := .boot
  /-- the service role (R33) -/
  svc : SvcRole := .none
  /-- the accepted transition that has not taken effect: its target (R38, BUSY) -/
  modePend : Option Mode := none
  /-- BOOT has been left since the last system reset: BL fields ignore writes (R59, R478) -/
  leftBoot : Bool := false
  /-- system timing has started (R54) -/
  timing : Bool := false
  /-- XO_LOST is present (R303) -/
  xoLost : Bool := false
  /-- the 48-bit frame number (R20) -/
  fn : BitVec 48 := 0
  /-- ticks of 204.8 MHz since the last frame boundary (Table 11.1) -/
  tick : Nat := 0
  /-- the master whose watchdog kick sequence is in progress (R50) -/
  kick : Option Nat := none
  /-- the watchdog TIMEOUT in force, ms (R49) -/
  wdTimeout : Nat := 2000
  /-- the moment at which the watchdog countdown ends, in machine-timer ticks, while TOP_WDOG_CTL.EN is 1 (R49) -/
  wdEnd : Nat := 409600000
  /-- the boot ROM has halted C0 (Table 2.6, steps 2 and 8) -/
  romHalt : Bool := false
  /-- the commissioning record formed by the seal in progress (R62, R63) -/
  sealRec : Option (List Byte) := none
  /-- the adopted commissioning record (R61) -/
  record : Option CommRecord := none
  /-- the current JTAG instruction (R525) -/
  tapInstr : Nat := 1
  /-- what the boundary register holds for the balls that have a cell (R525) -/
  tapCells : List (Ball × BallState) := []
  /-- the ACTIVE flag clears at the next multiframe boundary after a RECOVERY entry (R43) -/
  recovFlagClear : Bool := false
  /-- the timebase (Timebase and Timestamps) -/
  tb : Timebase := {}
  /-- the receive lanes 0 to 23 -/
  rx : Tbl LaneRx := []
  /-- the lane bonds that exist, 1 to 12 (R125) -/
  bonds : Tbl Bond := []
  /-- the transmit lanes 0 to 23 -/
  tx : Tbl LaneTx := []
  /-- the overhead of lanes 0 to 23 -/
  oh : Tbl LaneOh := []
  /-- the overhead serial ports 0 to 7 -/
  osp : Tbl Osp := []
  /-- the pending swap (R209) -/
  swap : Option SwapReq := none
  /-- for each data half, its consecutive uses in which the word of XCC_DM_LAST failed (R194) -/
  dmRun : Nat × Nat := (0, 0)
  /-- consecutive frames in which that word was read without a failure (R194) -/
  dmOk : Nat := 0
  /-- the moment of the last assembly overrun, in machine-timer ticks (XCC HDR_STAT bit 3) -/
  ovrFn : Option Nat := none
  /-- consecutive frames with an assembly overrun (Table 2.3, MARGIN) -/
  ovrRun : Nat := 0
  /-- the moment at which the last valid pennant arrived, in machine-timer ticks (R43, R368) -/
  lastPennant : Option Nat := none
  /-- what the last access on the bus matrix answered -/
  answer : Answer := .none
  /-- CPX_MTIME (R419) -/
  mtime : Nat := 0
  /-- the capacity ledger and the speed monitors -/
  mgn : Margin := {}
  /-- the protection groups with an applied copy -/
  groups : Tbl Group := []
  /-- groups queued for evaluation with the cause lane (31: none), oldest first (R269) -/
  pgQueue : List (Nat × Nat) := []
  /-- the lane whose frame was written as the last whole input frame of a lane (R249) -/
  subst : Tbl Nat := []
  /-- the lane whose frame is being written as the present input frame of a lane (R249) -/
  substNext : Tbl Nat := []
  /-- trigger sources that wait for the next boundary, per recorder lane: bit 0 FREEZE_NOW, 1 TRIG_IN, 2 switch, 3 defect (R289) -/
  rlTrig : Tbl Nat := []
  /-- host-lane circuits, by h × 1,024 + circuit -/
  hl : Tbl CfgEntry := []
  /-- recorder sets, by r × 256 + set -/
  rl : Tbl CfgEntry := []
  /-- pattern groups, by p × 64 + group -/
  pl : Tbl PlGroup := []
  /-- stores that wait for the ledger's first evaluation: entry and words, by page (R277) -/
  cfgWait : Tbl (Nat × List Nat) := []
  /-- the words of the host-lane circuits that end at the next boundary and have the present frame still to store, by h × 1,024 + circuit (R281) -/
  hlLast : Tbl (List Nat) := []
  /-- the moment of the last dropped receive frame, in machine-timer ticks, by host lane (R281) -/
  hlDrop : Tbl Nat := []
  /-- the timing management unit -/
  tmu : Tmu := {}
  /-- the ticks by which the present frame is longer than 25,600, at a phase step (R317) -/
  stretch : Int := 0
  /-- the same for the frame that the next boundary begins -/
  stretchNext : Int := 0
  /-- the pair logic -/
  pair : Pair := {}
  /-- the cipher engine's latch -/
  latch : Latch := {}
  /-- the cipher engine's keys and jobs, and the sealer's jobs -/
  cip : Cipher := {}
  /-- an assembly is in progress (R531) -/
  assembling : Bool := false
  /-- the mailbox channels (R438) -/
  mbx : Tbl Mailbox := []
  /-- MTIMECMP_LO words written and held for the write of HI, per core (CPX_MTIMECMP) -/
  mtcLo : Tbl Word := []
  /-- the moment of the last starvation, in machine-timer ticks, until 1 s has passed (SPM HDR_STAT) -/
  starvedAt : Option Nat := none
  /-- the cores C0 to C3 (R416) -/
  harts : Tbl Hart := []
  /-- cores in WFI (CPX_CORE_STAT) -/
  coreWfi : Nat := 0
  /-- cores halted by debug (CPX_CORE_STAT) -/
  coreDbg : Nat := 0
  /-- the event engine (Performance Data, Events and the Life Record) -/
  ev : Events := {}
  /-- the model's own counter of free values -/
  free : Nat := 0
  /-- the performance counters: global k at k, core counter j of Cn at 64 + 8 n + j -/
  pmc : Tbl PmcCounter := []
  /-- the PM second in progress, per lane -/
  pmAcc : Tbl PmAcc := []
  /-- line performance monitoring -/
  pm : LinePm := {}
  /-- what the device keeps of the life record -/
  life : Life := {}
  /-- the bins that have ended and whose region is to be copied, oldest first, and the folds that wait for a copy: the number of their
  bin, the group and how many (R454) -/
  swbDue : List PmHdr := []
  swbLate : List (Nat × Nat × Nat) := []
  /-- Subsystem Vendor ID and Subsystem ID of configuration space: HST_SUBSYS as it stood when the link last came up (Table 17.2) -/
  subsys : Word := 0x1F4E2430
  /-- the base address registers: BAR0, and BAR2 with BAR3 (Table 17.2) -/
  bar0 : Nat := 0
  bar2 : Nat := 0
  /-- the error status of Advanced Error Reporting: bit 15 after a Completer Abort (R488) -/
  aerStatus : Nat := 0
  /-- the UARTs 0 and 1 -/
  uart : Tbl Uart := []
  /-- the I²C commands that run, by bus (R494) -/
  i2c : Tbl Word := []
  /-- the QSPI command that runs (R495) -/
  qspi : Option Word := none
  /-- the levels that the outside drives on GPIO_0 to GPIO_15 (R496) -/
  gpioIn : Nat := 0
  deriving DecidableEq, Repr

/-- The addressed memories. An unlisted byte reads 0 (in the life record's identity area, what the factory wrote). (DESIGN CHOICE: log entry 3.) -/
structure Mem where
  /-- the scratchpad, 4 MB (Table 1.5) -/
  spad : Tbl Byte := []
  /-- the working SRAM, 1 MB -/
  sram : Tbl Byte := []
  /-- the local memories of C0 to C3, 64 KB each, by core × 65,536 + offset -/
  lmem : Tbl Byte := []
  /-- the LPDDR4X bytes that have been written -/
  ddr : Tbl Byte := []
  /-- the life record, 2 MB -/
  mram : Tbl Byte := []
  /-- the offsets of the words of the life record that read back differently after each write and retry (R467) -/
  mramWorn : List Nat := []
  /-- LPDDR4X lines of 64 bytes that read as poisoned (R433, R434) -/
  poison : List Nat := []
  deriving DecidableEq, Repr

/-- The cross-connect's pages and tables. -/
structure Xc where
  /-- physical memory set 0 (R199) -/
  set0 : PageSet := {}
  /-- physical memory set 1 -/
  set1 : PageSet := {}
  /-- set 1 is reached through the ACTIVE windows (CMP_STAT.ACT_MEM) -/
  act1 : Bool := false
  /-- valid held bytes by output slot (R185) -/
  heldBytes : Tbl Byte := []
  /-- the stored words of the protection table, by 4 g + word (R245) -/
  prot : Tbl Nat := []
  deriving DecidableEq, Repr

/-- The data path: what moves with every frame. -/
structure Dp where
  /-- input frame FN, being written, by lane (data half FN mod 2); an unlisted lane carries 0xFF -/
  input : Tbl Payload := []
  /-- input frame FN − 1, which the core reads -/
  source : Tbl Payload := []
  /-- output frame FN + 1, as assembled (staging half (FN + 1) mod 2) -/
  asm : Tbl Payload := []
  /-- the held bytes as they stood before that frame was assembled (R185) -/
  heldBefore : Tbl Byte := []
  /-- output frame FN, which the transmitters and engines read -/
  output : Tbl Payload := []
  /-- what line loopback sends in output frame FN + 1 (R130) -/
  loopAsm : Tbl Payload := []
  /-- what line loopback sends in output frame FN -/
  loopOut : Tbl Payload := []
  /-- payloads received and not yet released, by lane, oldest first (R120) -/
  fifo : Tbl (List Payload) := []
  /-- the payload last released, by lane (R122) -/
  lastRel : Tbl Payload := []
  /-- the frame that each transmit lane sent last (its content before scrambling) -/
  sent : Tbl RxFrame := []
  /-- the frame sent last was lane AIS -/
  ais : Tbl Bool := []
  /-- the frame that each transmit lane sent before that one, which a terminal loop has received whole (R131) -/
  sentBefore : Tbl RxFrame := []
  deriving DecidableEq, Repr

/-- The machine's state. -/
structure State where
  /-- the commands that wait, first in, first out -/
  pending : List Instr := []
  /-- registers and control -/
  ctl : Ctl := {}
  /-- the addressed memories -/
  mem : Mem := {}
  /-- connection pages and selector tables -/
  xc : Xc := {}
  /-- the data path -/
  dp : Dp := {}
  deriving DecidableEq, Repr

/-- The machine right after reset: a power-on reset is held, every register stands at its reset value, no memory lists
anything, and no command waits. RESET_RELEASE starts the boot (R54). (DESIGN CHOICE: log entry 2.) -/
def State.reset : State := {}

end Sys2Proof.Machine
end

