-- ==== Sys2Proof/Machine/Ops.lean ====
section
/-! DEFINITION. The named operations over the registers, the clocks and the time of day that every family shares. -/

namespace Sys2Proof.Machine

/-! ### The register file -/

/-- The block of a page (Table 17.1). -/
def pageBlock (p : Nat) : Option PageBlock := pageBlocks.find? (fun b => decide (b.first ≤ p ∧ p < b.first + b.pages))

/-- The line of a page's register map that covers an offset. -/
def regEntry (p o : Nat) : Option RegEntry :=
  (pageBlock p).bind fun b =>
    b.regs.find? fun e => decide (e.off ≤ o ∧ o < e.off + e.stride * e.count ∧ (o - e.off) % e.stride = 0)

/-- The event classes of a page, as HDR_EVT_CLASS packs them (R477). -/
def classWord (l : List Nat) : Nat := l.foldr (fun c a => a * 4 + c) 0

/-- The pages of Table 17.1 in increasing order (DIR_ENTRY). -/
def allPages : List Nat := pageBlocks.flatMap fun b => (List.range b.pages).map (b.first + ·)

/-- The reset value of a header register (R474 to R477). HDR_CTL.ENABLE resets to 1 on every page. -/
def hdrReset (p o : Nat) : Nat :=
  match pageBlock p with
  | none => 0
  | some b =>
    if o = 0x00 then (0x1000 + b.first) * 2 ^ 16 + (p - b.first)
    else if o = 0x04 then 0x00010000
    else if o = 0x08 then b.pages * 2 ^ 16 + b.classes.length
    else if o = 0x0C then 1
    else if o = 0x1C then classWord b.classes
    else 0

/-- The value of a directory entry (DIR_ENTRY_i). -/
def dirEntry (i : Nat) : Nat :=
  let p := lget allPages i 0
  match pageBlock p with
  | none => 0
  | some b => (0x1000 + b.first) * 2 ^ 16 + p

/-- The reset value of a register, by page × 0x1000 + offset. -/
def resetValue (a : Nat) : Word :=
  let p := a / 0x1000
  let o := a % 0x1000
  if o < 0x40 then BitVec.ofNat 32 (hdrReset p o)
  else if p = 1 ∧ 0x80 ≤ o ∧ o < 0x80 + 4 * 103 then BitVec.ofNat 32 (dirEntry ((o - 0x80) / 4))
  else match regEntry p o with
    | some e => BitVec.ofNat 32 e.reset
    | none => 0

/-- The value a register holds. -/
def Ctl.reg (c : Ctl) (a : Nat) : Word := tget c.regs a (resetValue a)

/-- Set a register. -/
def Ctl.setReg (a : Nat) (w : Word) (c : Ctl) : Ctl := { c with regs := tput c.regs a w }

/-- The number a field holds. -/
def Ctl.get (c : Ctl) (f : Fld) : Nat := wGet (c.reg f.addr) f.hi f.lo

/-- Set a field; a number wider than the field is cut to its width. -/
def Ctl.set (f : Fld) (v : Nat) (c : Ctl) : Ctl := c.setReg f.addr (wPut (c.reg f.addr) f.hi f.lo v)

/-- A one-bit field reads 1. -/
def Ctl.on (c : Ctl) (f : Fld) : Bool := c.get f == 1

/-- Bit `i` of a field. -/
def Ctl.onBit (c : Ctl) (f : Fld) (i : Nat) : Bool := bit (c.get f) i

/-- Set or clear bit `i` of a field. -/
def Ctl.setBit (f : Fld) (i : Nat) (b : Bool) (c : Ctl) : Ctl := c.set f (putBit (c.get f) i b)

/-- Add to a counter field that saturates at its greatest value. -/
def Ctl.count (f : Fld) (n : Nat) (c : Ctl) : Ctl := c.set f (satAdd (f.hi + 1 - f.lo) (c.get f) n)

/-- Set several fields in turn. -/
def Ctl.sets (l : List (Fld × Nat)) (c : Ctl) : Ctl := l.foldl (fun c p => c.set p.1 p.2) c

/-- Set several registers in turn. -/
def Ctl.setRegs (l : List (Nat × Word)) (c : Ctl) : Ctl := l.foldl (fun c p => c.setReg p.1 p.2) c

/-- Zero a list of registers. -/
def Ctl.zero (l : List Nat) (c : Ctl) : Ctl := l.foldl (fun c a => c.setReg a 0) c

/-- Do something when a condition holds. -/
def Ctl.when (p : Bool) (f : Ctl → Ctl) (c : Ctl) : Ctl := if p then f c else c

/-- Take the next free value of a width, and advance the counter. (DESIGN CHOICE: log entry 7.) -/
def Ctl.takeFree (width : Nat) (c : Ctl) : Nat × Ctl := (Config.freeNat c.free width % 2 ^ width, { c with free := c.free + 1 })

/-! ### Bins of line performance monitoring (R451) -/

/-- The current bin. -/
def LinePm.cur (p : LinePm) (day : Bool) : PmHdr := ((if day then p.d else p.q).head?).getD (PmHdr.mk 0 0 0 true false)

/-! ### When a command acts -/

/-- The device is out of system reset. (DESIGN CHOICE: log entry 2.) -/
def Ctl.live (c : Ctl) : Bool := c.held.isNone

/-- The device is out of reset and system timing runs (R303). (DESIGN CHOICE: log entry 2.) -/
def Ctl.timed (c : Ctl) : Bool := c.held.isNone && c.timing && !c.xoLost

/-- Change the control layer. -/
def State.mapCtl (f : Ctl → Ctl) (s : State) : State := { s with ctl := f s.ctl }

/-! ### The timebase (R329 to R341) -/

/-- 2⁻¹¹ ns in units of 2⁻³² ns: the greatest gain or loss of a domain per tick (R330). -/
def slewUnit : Nat := 2 ^ 21

/-- The nominal increment (R329). -/
def incNominal : Nat := 0x4E2000000

/-- Ticks of 204.8 MHz in a frame. -/
def ticksPerFrame : Nat := 25600

/-- The ticks that a slew of `z` lasts. -/
def slewTicks (z : Int) : Nat := (z.natAbs + slewUnit - 1) / slewUnit

/-- A value moved toward zero by 2⁻¹¹ ns for each of `n` ticks. -/
def reduceBy (n : Nat) (z : Int) : Int :=
  if z.natAbs ≤ n * slewUnit then 0 else if 0 ≤ z then z - n * slewUnit else z + n * slewUnit

/-- A domain after `n` ticks (R329, R337): during a slew every tick applies a limit of R330, and the last only the rest. -/
def Domain.run (n : Nat) (d : Domain) : Domain :=
  let k := min n (slewTicks d.slew)
  let rest := reduceBy k d.slew
  { d with
    val := unsgn 96 ((d.val + k * incNominal + (n - k) * d.inc : Nat) + (d.slew - rest))
    slew := rest }

/-- Domain A or B. -/
def Timebase.dom (t : Timebase) (isB : Bool) : Domain := if isB then t.b else t.a

/-- Change domain A or B. -/
def Timebase.setDom (isB : Bool) (d : Domain) (t : Timebase) : Timebase := if isB then { t with b := d } else { t with a := d }

/-- The timebase after `n` ticks: both domains, and the reduction of O (R341). -/
def Timebase.run (n : Nat) (t : Timebase) : Timebase :=
  { t with a := t.a.run n, b := t.b.run n, ofs := reduceBy n t.ofs }

/-- The selected time S, in 2⁻³² ns (R339). -/
def Timebase.sel (t : Timebase) : Nat := unsgn 96 ((t.dom t.selB).val + t.ofs)

/-- UNTIMED: the selected domain has not been set (R339). -/
def Timebase.untimed (t : Timebase) : Bool := !(t.dom t.selB).isSet

/-- The ticks of the present frame: 25,600, but for a frame that a phase step lengthens or shortens (R317). -/
def Ctl.frameTicks (c : Ctl) : Nat := ((ticksPerFrame : Int) + c.stretch).toNat

/-! ### What the performance counters watch (R455, R457) -/

/-- A core. -/
def Ctl.hart (c : Ctl) (n : Nat) : Hart := tget c.harts n {}

/-- The receive side of a lane is enabled (R103). -/
def Ctl.rxEnabled (c : Ctl) (n : Nat) : Bool := c.on (F.HDR_CTL_ENABLE (0x100 + n))

/-- A lane is source-fail (R117). Lanes 24 to 29 never are (R99). -/
def Ctl.sourceFail (c : Ctl) (n : Nat) : Bool :=
  decide (n < 24) && (!c.rxEnabled n || decide (1 ≤ (tget c.rx n {}).top ∧ (tget c.rx n {}).top ≤ 8))

/-- The timebase ticks (R303). -/
def Ctl.ticking (c : Ctl) : Bool := c.timing && !c.xoLost

/-- The counter is stopped: a global counter by PMC_GCTL.FREEZE, a core's own counter while the core is in reset or halted by debug, or
inhibited (R457). -/
def Ctl.pmcStopped (c : Ctl) (k : Nat) : Bool :=
  let n := (k - 64) / 8
  if k < 64 then c.on F.PMC_GCTL_FREEZE
  else !c.onBit F.TOP_CORE_RUN_RUN n || bit c.coreDbg n || bit (c.hart n).inhibit (3 + (k - 64) % 8)

/-- A core runs, neither in WFI nor halted, by debug or by the boot ROM (Table 16.3, R54). -/
def Ctl.coreActive (c : Ctl) (n : Nat) : Bool :=
  c.onBit F.TOP_CORE_RUN_RUN n && !bit c.coreWfi n && !bit c.coreDbg n && !(decide (n = 0) && c.romHalt)

/-- Whether a condition code of Table 16.3 holds between commands (`none` for an occurrence code). The accesses of 0x3C to 0x47 end with
their command, and no row brings a wait of 0x0F or 0x20 to 0x2F that lasts beyond it. (DESIGN CHOICE: log entry 15.) -/
def Ctl.condition (c : Ctl) (code : Nat) : Option Bool :=
  if code = 0x01 then some c.assembling
  else if code = 0x05 then some (!c.pgQueue.isEmpty)
  else if code = 0x09 then some c.latch.holder.isSome
  else if code = 0x0A then some c.latch.slrWaiting
  else if 0x48 ≤ code ∧ code ≤ 0x5F then some (c.sourceFail (code - 0x48))
  else if 0x90 ≤ code ∧ code ≤ 0x93 then some (c.coreActive (code - 0x90))
  else if code = 0xBC then some (c.on F.MGN_AVS_STAT_RAMP)
  else if code = 0xC2 then some (c.get F.TMU_STAT_STATE == 2)
  else if code = 0xC3 then some (c.tb.ofs != 0)
  else if code = 0xC4 then some true
  else none

/-- The ticks of the next `n` in which a condition holds: O is reduced until it is 0 (R341), and every other one stands as it does. -/
def Ctl.condTicks (c : Ctl) (code n : Nat) : Nat :=
  if c.condition code = some true then (if code = 0xC3 then min n (slewTicks c.tb.ofs) else n) else 0

/-- `n` ticks pass: the LEVEL counters of conditions count those in which theirs holds (R455). (DEDUCED: log entry 70.) -/
def Ctl.levelTicks (n : Nat) (c : Ctl) : Tbl PmcCounter :=
  c.pmc.map fun (k, p) =>
    if p.en && p.level && !c.pmcStopped k then (k, { p with val := p.val + c.condTicks p.event n }) else (k, p)

/-- Time moves on within the frame to a tick; a tick already passed changes nothing. -/
def Ctl.advTo (t : Nat) (c : Ctl) : Ctl :=
  let t := min t (c.frameTicks - 1)
  if c.ticking && decide (c.tick < t) then
    { c with tb := c.tb.run (t - c.tick), tick := t, mtime := (c.mtime + (t - c.tick)) % 2 ^ 64, pmc := c.levelTicks (t - c.tick) }
  else c

/-- A moment of the machine timer lies before the end of the present frame: what falls due then can happen now. (DESIGN CHOICE: log entry 5.) -/
def Ctl.dueBy (t : Nat) (c : Ctl) : Bool := decide (t ≤ c.mtime + (c.frameTicks - 1 - c.tick))

/-- Time moves on within the frame to a moment of the machine timer. (DESIGN CHOICE: log entry 5.) -/
def Ctl.advMoment (t : Nat) (c : Ctl) : Ctl := c.advTo (c.tick + (t - c.mtime))

/-! ### The timing outputs (R325, R326, R354) -/

/-- Ticks of 204.8 MHz in a millisecond. -/
def msecTicks : Nat := 204800

/-- TBS_PPS_CTL.WIDTH in ms, within its limits. -/
def Ctl.ppsWidth (c : Ctl) : Nat := min 500 (max 1 (c.get F.TBS_PPS_CTL_WIDTH))

/-- The level of PPS_OUT: high from its edge for WIDTH ms, and low while its EN bit is 0 (R326, R354). -/
def Ctl.ppsOut (c : Ctl) : Bool := c.on F.TMU_OUT_CTL_PPS_EN && c.tb.ppsHigh && decide (c.mtime < c.tb.ppsEnd)

/-- Tenths of a tick since the transmit plane was last crossed by a frame: d_tx, 0.5 µs, after the boundary (R315, R325). (DESIGN CHOICE: log entry 81.) -/
def Ctl.sincePlane (c : Ctl) : Nat :=
  if 1024 ≤ 10 * c.tick then 10 * c.tick - 1024 else 10 * ticksPerFrame + 10 * c.tick - 1024

/-- FSYNC_OUT and CLK_OUT are squelched in the period of the transmit plane that is under way (R326). (DESIGN CHOICE: log entry 81.) -/
def Ctl.outSquelched (c : Ctl) : Bool := if 1024 ≤ 10 * c.tick then c.tmu.squelched else c.tmu.squelchedWas

/-- The level of FSYNC_OUT: high for the first 1 µs of each frame from the transmit plane (R325, R326). (DESIGN CHOICE: log entry 81.) -/
def Ctl.fsyncOut (c : Ctl) : Bool := c.on F.TMU_OUT_CTL_FSYNC_EN && !c.outSquelched && decide (c.sincePlane < 2048)

/-- The periods of CLK_OUT in a frame, by CLK_FREQ: 8 kHz, 1.544, 2.048, 10 and 40.96 MHz (R325). -/
def Ctl.clkPeriods (c : Ctl) : Nat := ([1, 193, 256, 1250, 5120][c.get F.TMU_OUT_CTL_CLK_FREQ]?).getD 1

/-- The level of CLK_OUT: in step with the transmit plane, and high for the first half of each period, which the spec does not state
(R325, R326). (DESIGN CHOICE: log entry 81.) -/
def Ctl.clkOut (c : Ctl) : Bool :=
  c.on F.TMU_OUT_CTL_CLK_EN && !c.outSquelched && decide (c.sincePlane * 2 * c.clkPeriods / (10 * ticksPerFrame) % 2 = 0)

/-- The frame number as a number. -/
def Ctl.fnN (c : Ctl) : Nat := c.fn.toNat

/-- FN[31:0]. -/
def Ctl.fn32 (c : Ctl) : Nat := c.fn.toNat % 2 ^ 32

/-! ### Straps and the adopted record -/

/-- PAIR_EN as sampled (R52). -/
def Ctl.pairEn (c : Ctl) : Bool := c.on F.TOP_STRAPS_PAIR_EN

/-- SEC_LOCK as sampled (R52). -/
def Ctl.secLock (c : Ctl) : Bool := c.on F.TOP_STRAPS_SEC_LOCK

/-- The value of a CW register in the adopted record, on which the device runs (R61); its reset value when no record is
adopted. -/
def Ctl.adopted (c : Ctl) (a : Nat) : Nat :=
  match c.record with
  | some r => (tget r.vals a (resetValue a)).toNat
  | none => (resetValue a).toNat

/-- A field of a CW register in the adopted record. -/
def Ctl.adoptedFld (c : Ctl) (f : Fld) : Nat := bits (c.adopted f.addr) f.hi f.lo

/-- A domain is healthy (R338). -/
def Ctl.healthy (c : Ctl) (isB : Bool) : Bool :=
  (c.tb.dom isB).isSet && !(c.tb.dom isB).suspect && c.on (F.TBS_CTL_VALID (b2n isB))

/-- Neither domain is healthy while system timing has run (Table 12.1, DEGRADED). -/
def Ctl.degraded (c : Ctl) : Bool := c.timing && !c.healthy false && !c.healthy true

/-- The ACTIVE flag of the MOB UNIT field (R34). -/
def Ctl.activeFlag (c : Ctl) : Bool := c.svc == .active

/-- Traffic modes: the transmitters send the ACTIVE page (Table 2.1). -/
def Ctl.traffic (c : Ctl) : Bool := c.mode != .boot && c.mode != .commission

end Sys2Proof.Machine
end

