-- ==== Sys2Proof/Machine/HdrStat.lean ====
section
/-! DEFINITION. The alarm levels: HDR_STAT of every page (R458), as each page's chapter gives its bits. -/

namespace Sys2Proof.Machine

/-- Bits in order from bit 0. -/
def maskBits (l : List Bool) : Nat := l.foldr (fun b a => b2n b + 2 * a) 0

/-- Ticks of 204.8 MHz in a second. -/
def secondTicks : Nat := 204800000

/-- A moment lies within the preceding second. -/
def Ctl.within1s (c : Ctl) (t : Option Nat) : Bool :=
  match t with
  | some x => decide (c.mtime - x ≤ secondTicks)
  | none => false

/-- The slot groups in a state (PGS_N_PROT, PGS_N_FROZEN, PGS_N_FELOST, PGS_N_FEMISM). -/
def Ctl.slotGroups (c : Ctl) (p : Group → Bool) : Nat := (c.groups.filter fun q => decide (q.1 < 65536) && p q.2).length

/-- Sealing is enabled on a lane, which holds no key for it (LOH_SEAL_STAT.TX_NOKEY). (DEDUCED: log entry 36.) -/
def Ctl.txNoKey (c : Ctl) (n : Nat) : Bool :=
  let k := tget c.cip.slots n {}
  c.on (F.LOH_SEAL_TX_EN n) && (k.key.isNone || k.exhausted)

/-- HDR_STAT of the lane pages, 0x100 to 0x157. -/
def Ctl.laneStat (c : Ctl) (page : Nat) : Nat :=
  if page < 0x118 then
    let l := tget c.rx (page - 0x100) {}
    (if l.top = 0 then 0 else 2 ^ (l.top - 1)) + b2n l.ambig * 2 ^ 10 + b2n (l.bondOut && c.rxEnabled (page - 0x100)) * 2 ^ 11
  else if 0x120 ≤ page ∧ page < 0x138 then b2n (decide ((tget c.tx (page - 0x120) {}).source ≠ 0))
  else if 0x140 ≤ page ∧ page < 0x158 then
    let n := page - 0x140
    maskBits [c.txNoKey n, (tget c.rx n {}).auth, (tget c.rx n {}).tim]
  else 0

/-- HDR_STAT of every page but the PER page (R474 and the chapters of the pages). -/
def Ctl.pageStat (c : Ctl) (page : Nat) : Nat :=
  match page with
  | 0x008 => b2n (c.on F.HST_CTL_LINK_EN && !c.on F.HST_STAT_LINK_UP)
  | 0x010 => maskBits [c.get F.TMU_STAT_STATE == 4, c.get F.TMU_STAT_STATE == 0, c.on F.TMU_STAT_REF_CONFLICT, c.xoLost,
      c.get F.TMU_CAND_MAP_SELECTABLE == 0]
  | 0x011 => maskBits [c.tb.untimed, c.tb.a.suspect, c.tb.b.suspect, c.degraded, c.tb.ofs != 0]
  | 0x018 => maskBits [c.on F.UPR_STAT_HALYARD_FAIL, c.on F.UPR_STAT_ROLE_CLASH || c.on F.UPR_STAT_ROLE_BIND_FAIL,
      c.pairEn && !c.on F.UPR_STAT_MATE_VALID, c.svc == .isolated]
  | 0x020 => maskBits [c.get F.XCC_BAD_ENTRY != 0, c.get F.XCC_BAD_SEL != 0, c.on F.XCC_DM_LAST_PERSIST, c.within1s c.ovrFn]
  | 0x021 => b2n (c.on F.CMP_PAIR_MIRROR_STALE)
  | 0x022 => maskBits [c.slotGroups (·.frozen) != 0, c.slotGroups (·.feMism) != 0, c.slotGroups (·.feLost) != 0,
      c.groups.any fun q => decide (65536 ≤ q.1) && q.2.en && q.2.sel]
  | 0x024 => c.get F.LGR_STAT_OVER + 16 * b2n (decide (c.get F.LGR_ASM_CEIL_CEIL < min 10000 (max 100 (c.get F.LGR_ASM_LIMIT_LIMIT))))
  | 0x025 => c.get F.MGN_STAT_AT_RISK + 2 * c.get F.MGN_STAT_MARGIN_CRITICAL + 4 * c.get F.MGN_STAT_AVS_FAIL + 8 * c.get F.MGN_STAT_MON_FAIL
  | 0x030 => b2n (c.get F.OHC_UNIT_CONFL_LANES != 0)
  | 0x038 => b2n (c.within1s (tfind c.hlDrop 0))
  | 0x039 => b2n (c.within1s (tfind c.hlDrop 1))
  | 0x03A => b2n (c.get (F.RL_STAT_STATE 0) == 2)
  | 0x03B => b2n (c.get (F.RL_STAT_STATE 1) == 2)
  | 0x03C => b2n (c.pl.any fun q => q.1 / 64 == 0 && bit (lget q.2.eff 0 0) 30 && !q.2.now.sync)
  | 0x03D => b2n (c.pl.any fun q => q.1 / 64 == 1 && bit (lget q.2.eff 0 0) 30 && !q.2.now.sync)
  | 0x040 => maskBits [c.on F.CIP_STAT_LOCKED, c.latch.holder.isSome, c.cip.slots.any (·.2.exhausted)]
  | 0x041 => b2n (c.on F.CIP_STAT_LOCKED && (List.range 24).any fun n => c.on (F.LOH_SEAL_TX_EN n) || c.on (F.LOH_SEAL_RX_EN n))
  | 0x048 => c.coreDbg % 16
  | 0x049 => b2n c.starvedAt.isSome
  | 0x04A => b2n (c.mbx.any fun q => q.2.full0 && q.2.full1)
  | 0x04B => maskBits [c.get F.MTX_DT_CNT_VALUE != 0, c.on (F.DMA_STAT_BUSY 0), c.on (F.DMA_STAT_BUSY 1)]
  | 0x04C => maskBits [!c.on F.MEM_STAT_READY, decide (3 < c.get F.MEM_STAT_MR4_RATE)]
  | 0x050 => b2n (c.pmc.any (·.2.ovf))
  | 0x051 =>
    let size := 2 ^ (c.get F.EVT_RING_CFG_SIZE + 7)
    let occ := (c.get F.EVT_RING_WR_PTR + size - c.get F.EVT_RING_RD_PTR % size) % size
    maskBits [decide (size ≤ occ + 65), !c.on F.EVT_RING_CFG_EN]
  | 0x052 => maskBits [(List.range 24).any fun n => c.get (F.LPM_TCA_Q n) != 0, (List.range 24).any fun n => c.get (F.LPM_TCA_DAY n) != 0,
      c.get F.LPM_UNAV_NE_LANES != 0, c.get F.LPM_UNAV_FE_LANES != 0]
  | 0x053 => maskBits [c.on F.LIF_STAT_WFAIL, c.life.wear.any fun q => decide ((c.reg R.LIF_WEAR_THR).toNat < q.2)]
  | p => if 0x100 ≤ p then c.laneStat p else 0

/-! ### The alarm balls (R458, R498) -/

/-- EVT_ALM_MAJ of a page. -/
def Ctl.almMaj (c : Ctl) (page : Nat) : Nat := (tget c.ev.maj page 0).toNat

/-- EVT_ALM_MIN of a page. -/
def Ctl.almMin (c : Ctl) (page : Nat) : Nat := (tget c.ev.min page 0xFFFFFFFF).toNat

/-- The conditions on MAJOR_N and MINOR_N but for the PER page's own bits. -/
def Ctl.alarmBase (c : Ctl) : Bool × Bool :=
  let pages := allPages.filter (· != 0x058)
  let test := c.mode == .maintenance
  (c.mode == .recovery || c.xoLost || (test && c.on F.PER_ALM_CTL_TEST_MAJ) || pages.any fun p => c.pageStat p &&& c.almMaj p != 0,
   c.get F.TOP_BOOT_STAT_PHASE == 15 || (test && c.on F.PER_ALM_CTL_TEST_MIN) || pages.any fun p => c.pageStat p &&& c.almMin p != 0)

/-- The PER page's bits pass a level on to the other ball; neither ball holds itself. Both balls are released during a
reset (Table 18.7). (DEDUCED: log entry 78.) -/
def Ctl.alarmDrive (c : Ctl) : Bool × Bool :=
  let b := c.alarmBase
  if !c.live then (false, false) else (b.1 || (b.2 && bit (c.almMaj 0x058) 1), b.2 || (b.1 && bit (c.almMin 0x058) 0))

/-- HDR_STAT of a page. -/
def Ctl.hdrStat (c : Ctl) (page : Nat) : Nat :=
  if page = 0x058 then maskBits [c.alarmDrive.1, c.alarmDrive.2] else c.pageStat page

end Sys2Proof.Machine
end

