-- ==== Sys2Proof/Machine/Halyard.lean ====
section
/-! DEFINITION. The messages that a unit sends on the Halyard link (R364, R365, R376). -/

namespace Sys2Proof.Machine

/-- ROLE_BIND has not failed (R366). -/
def Ctl.bindOk (c : Ctl) : Bool := !c.on F.UPR_STAT_ROLE_BIND_FAIL

/-- PAIR_ID of the adopted record; 0 with none adopted. -/
def Ctl.pairId (c : Ctl) : Nat := if c.record.isSome then c.adoptedFld F.UPR_CFG_PAIR_ID else 0

/-- Byte 11 of a pennant. -/
def Ctl.rolesByte (c : Ctl) : Nat :=
  c.get F.TOP_STRAPS_UNIT_ROLE * 128 + b2n c.bindOk * 64 + c.svc.code * 16 + b2n c.activeFlag * 8 + c.mode.code

/-- The AGREE flag and T of a pending agreed swap (R218). -/
def Ctl.agreedSwap (c : Ctl) : Bool × Nat :=
  match c.swap with
  | some r => if r.agree then (true, r.target % 2 ^ 32) else (false, 0)
  | none => (false, 0)

/-- Bytes 48 to 51 of a pennant. -/
def Ctl.protWord (c : Ctl) : Nat :=
  maskOf 12 (fun j => (tget c.groups (65536 + j) {}).en && (tget c.groups (65536 + j) {}).sel) * 2 ^ 17 +
    c.slotGroups (fun g => g.en && g.sel) % 2 ^ 17

/-- The mate's DEVID: MATE_DEVID of the adopted record where it is not 0, else the one learned since reset (R367). -/
def Ctl.mateRecorded (c : Ctl) : Ctl :=
  let named := if c.record.isSome then c.adoptedFld F.UPR_MATE_CFG_MATE_DEVID else 0
  let mate := if named ≠ 0 then some named else c.pair.learned
  c.sets [(F.UPR_MATE_DEVID_VALUE, mate.getD 0), (F.UPR_STAT_DEVID_REC, b2n mate.isSome)]

/-- A pennant with its flags of KIND [3:0] and H (Table 13.2). -/
def Ctl.pennantMsg (c : Ctl) (flags h : Nat) : List Byte :=
  let ag := c.agreedSwap
  let b := [0x9E, BitVec.ofNat 8 (16 + flags), 0, 0] ++ beBytes 4 Config.devid ++ beBytes 3 c.pairId ++ [BitVec.ofNat 8 c.rolesByte] ++
    beBytes 4 (c.reg R.UPR_COUNT).toNat ++ beBytes 4 (match c.pair.mate with | some p => p.count | none => 0) ++ beBytes 6 c.fnN ++
    beBytes 4 (unsgn 32 c.pair.phase) ++ beBytes 4 h ++ beBytes 4 (c.reg R.CMP_FP_ACTIVE).toNat ++ beBytes 4 (c.reg R.CMP_FP_STBY).toNat ++
    [BitVec.ofNat 8 (c.get F.CMP_STAT_STATE * 64 + c.get F.CMP_STAT_VERDICT * 16 + b2n ag.1 * 8)] ++ beBytes 4 ag.2 ++
    [BitVec.ofNat 8 (c.get F.TMU_STAT_SEL * 16 + c.get F.TMU_STAT_MATE_FOLLOW * 8 + c.get F.TMU_STAT_STATE)] ++ beBytes 4 c.protWord ++
    beBytes 8 0
  b ++ beBytes 4 (crc32 b)

/-- ACTIVE, STANDBY or MAINTENANCE. -/
def Mode.inService : Mode → Bool
  | .active | .standby | .maintenance => true
  | _ => false

/-- The unit is eligible for ACTIVE (R369). -/
def Ctl.eligible (c : Ctl) : Bool := c.mode.inService && !c.on F.UPR_STAT_ROLE_BIND_FAIL && !c.on F.UPR_STAT_ROLE_CLASH

/-- The pair logic runs (R360). -/
def Ctl.pairRuns (c : Ctl) : Bool := c.pairEn && c.get F.UPR_STAT_PSTATE != 0

/-- A message goes out behind the one before, of which `acks` symbols have been acknowledged since it went out: at most 8 symbols are
unacknowledged, and an unsent remainder is dropped and counted (R362, R363). (DEDUCED: log entry 55.) -/
def Ctl.hySend (acks : Nat) (msg : List Byte) (c : Ctl) : Ctl :=
  let left := c.pair.hyLeft + c.pair.hyUnacked - acks
  let flight := min 8 left + 4 * msg.length
  let p : Pair := { c.pair with out := msg, hyLeft := flight - 8, hyUnacked := min 8 flight }
  ({ c with pair := p } : Ctl).when (decide (8 < left)) (Ctl.count F.UPR_CNT_LINK_LOW 1)

/-- A BYE that names a boundary is sent; it repeats COUNT (R364, R376). How much of the message before it has been acknowledged is free. (DEDUCED: log entry 55.) -/
def Ctl.byeSend (h : Nat) (c : Ctl) : Ctl :=
  if !c.pairRuns then c
  else if c.pair.hyLeft = 0 then c.hySend 0 (c.pennantMsg 8 (h % 2 ^ 32))
  else
    let r := c.takeFree 9
    r.2.hySend r.1 (c.pennantMsg 8 (h % 2 ^ 32))

/-- The pennant of a boundary with FN[1:0] = 0: COUNT rises, and HO, HO_ACK and REL follow the hand-over; HO_ACK is sent while the unit is
PAIRED, eligible and holds ACTIVE (R363, R364, R381). (DEDUCED: log entry 55.) -/
def Ctl.pennantSend (acks : Nat) (c : Ctl) : Ctl :=
  if !c.pairRuns then c
  else
    let c := c.set F.UPR_COUNT_VALUE ((c.reg R.UPR_COUNT).toNat + 1)
    let flags := match c.pair.ho with
      | .none => 0
      | .proposed => 4
      | .acked => if c.get F.UPR_STAT_PSTATE = 2 ∧ c.eligible ∧ c.svc = .active then 2 else 0
      | .committed => 3
    c.hySend acks (c.pennantMsg flags (if flags = 0 then 0 else c.pair.hoH % 2 ^ 32))

end Sys2Proof.Machine
end

