-- ==== Sys2Proof/Machine/Cores.lean ====
section
/-! DEFINITION. The control cores' own state (R416 to R419): control and status registers, privilege, physical memory protection,
exceptions and interrupts. What a core executes between its accesses comes in with the access (log entry 12). -/

namespace Sys2Proof.Machine

/-- Change a core. -/
def Ctl.setHart (n : Nat) (h : Hart) (c : Ctl) : Ctl := { c with harts := tput c.harts n h }

/-! ### Timers and pending interrupts (R419) -/

/-- CPX_MTIMECMP of a core. -/
def Ctl.mtimecmp (c : Ctl) (n : Nat) : Nat := (c.reg (R.CPX_MTIMECMP_HI n)).toNat * 2 ^ 32 + (c.reg (R.CPX_MTIMECMP_LO n)).toNat

/-- The machine timer interrupt of a core is pending: CPX_MTIME − CPX_MTIMECMP is 0 or more as a signed 64-bit difference. -/
def Ctl.timerPending (c : Ctl) (n : Nat) : Bool := decide (0 ≤ sdiff 64 c.mtime (c.mtimecmp n))

/-- The machine external interrupt of a core is pending (R466). -/
def Ctl.extPending (c : Ctl) (n : Nat) : Bool := c.on (F.EVT_CORE_PEND_PEND n)

/-- mip: MTIP and MEIP. MSIP is fixed at 0. -/
def Ctl.mip (c : Ctl) (n : Nat) : Nat := b2n (c.timerPending n) * 2 ^ 7 + b2n (c.extPending n) * 2 ^ 11

/-- The core is out of reset (R417). -/
def Ctl.coreRuns (c : Ctl) (n : Nat) : Bool := c.onBit F.TOP_CORE_RUN_RUN n

/-- mcycle: ticks of 204.8 MHz while the core is out of reset and the counter is not inhibited (R416). (DESIGN CHOICE: log entry 12.) -/
def Ctl.mcycle (c : Ctl) (n : Nat) : Nat :=
  let h := c.hart n
  if c.coreRuns n && !bit h.inhibit 0 then (h.cycle + (c.mtime + 2 ^ 64 - h.cycleAt)) % 2 ^ 64 else h.cycle

/-- mstatus: TW, MPRV, MPP, MPIE and MIE. -/
def Hart.mstatus (h : Hart) : Nat := b2n h.tw * 2 ^ 21 + b2n h.mprv * 2 ^ 17 + (if h.mppUser then 0 else 3) * 2 ^ 11 + b2n h.mpie * 2 ^ 7 + b2n h.mie * 2 ^ 3

/-- The configuration byte of a PMP entry. -/
def Hart.pmpByte (h : Hart) (i : Nat) : Nat := tget h.pmpcfg i 0

/-- The address register of a PMP entry. -/
def Hart.pmpAddr (h : Hart) (i : Nat) : Nat := tget h.pmpaddr i 0

/-- The word of a pmpcfg register. -/
def Hart.pmpWord (h : Hart) (r : Nat) : Nat := (List.range 4).foldl (fun a k => a + h.pmpByte (4 * r + k) * 2 ^ (8 * k)) 0

/-- Counter j of a core: 48 bits, read as 64 (R457). -/
def Ctl.hpmCounter (c : Ctl) (n j : Nat) : Nat := (tget c.pmc (64 + 8 * n + j) {}).val % 2 ^ 48

/-- The value of a control and status register, or `none` for one that this chapter does not give (R416, R417, R419, R457). (DESIGN CHOICE: log entry 12.) -/
def Ctl.csr (c : Ctl) (n a : Nat) : Option Nat :=
  let h := c.hart n
  if 0x3A0 ≤ a ∧ a < 0x3A4 then some (h.pmpWord (a - 0x3A0))
  else if 0x3B0 ≤ a ∧ a < 0x3C0 then some (h.pmpAddr (a - 0x3B0))
  else if 0xB03 ≤ a ∧ a < 0xB0B then some (c.hpmCounter n (a - 0xB03) % 2 ^ 32)
  else if 0xB83 ≤ a ∧ a < 0xB8B then some (c.hpmCounter n (a - 0xB83) / 2 ^ 32)
  else if 0xC03 ≤ a ∧ a < 0xC0B then some (c.hpmCounter n (a - 0xC03) % 2 ^ 32)
  else if 0xC83 ≤ a ∧ a < 0xC8B then some (c.hpmCounter n (a - 0xC83) / 2 ^ 32)
  else match a with
    | 0x300 => some h.mstatus
    | 0x301 => some 0x40101105
    | 0x306 => some h.counteren
    | 0x310 => some 0
    | 0xF11 => some 0
    | 0xF12 => some 0
    | 0xF13 => some 0
    | 0x320 => some h.inhibit
    | 0x304 => some h.mieReg
    | 0x305 => some h.mtvec
    | 0x340 => some h.mscratch
    | 0x341 => some h.mepc
    | 0x342 => some h.mcause
    | 0x343 => some h.mtval
    | 0x344 => some (c.mip n)
    | 0xB00 => some (c.mcycle n % 2 ^ 32)
    | 0xB80 => some (c.mcycle n / 2 ^ 32)
    | 0xB02 => some (h.minstret % 2 ^ 32)
    | 0xB82 => some (h.minstret / 2 ^ 32)
    | 0xC00 => some (c.mcycle n % 2 ^ 32)
    | 0xC80 => some (c.mcycle n / 2 ^ 32)
    | 0xC01 => some (c.mtime % 2 ^ 32)
    | 0xC81 => some (c.mtime / 2 ^ 32)
    | 0xC02 => some (h.minstret % 2 ^ 32)
    | 0xC82 => some (h.minstret / 2 ^ 32)
    | 0xF14 => some n
    | _ => none

/-! ### Physical memory protection (R416, R417) -/

/-- A PMP entry is locked. -/
def Hart.pmpLocked (h : Hart) (i : Nat) : Bool := bit (h.pmpByte i) 7

/-- The number of low 1 bits of a number; the fuel bounds it. -/
def trailingOnes : Nat → Nat → Nat
  | 0, _ => 0
  | k + 1, v => if v % 2 = 1 then trailingOnes k (v / 2) + 1 else 0

/-- The bytes that a PMP entry matches, from a first to before a last: OFF matches none; TOR, NA4 and NAPOT as the privileged
architecture defines them. -/
def Hart.pmpRange (h : Hart) (i : Nat) : Nat × Nat :=
  let a := h.pmpAddr i
  match bits (h.pmpByte i) 4 3 with
  | 1 => ((if i = 0 then 0 else h.pmpAddr (i - 1)) * 4, a * 4)
  | 2 => (a * 4, a * 4 + 4)
  | 3 =>
    let k := trailingOnes 32 a
    let base := a / 2 ^ (k + 1) * 2 ^ (k + 1) * 4
    (base, base + 2 ^ (k + 3))
  | _ => (0, 0)

/-- What an access is to the protection: a fetch, a load or a store. -/
inductive PmpUse where
  | fetch | load | store
  deriving DecidableEq, Repr

/-- The permission bit of a use: R, W or X. -/
def PmpUse.bit : PmpUse → Nat
  | .load => 0 | .store => 1 | .fetch => 2

/-- The protection permits an access: the lowest entry that matches any of its bytes must match all of them, and binds user mode, and
machine mode when it is locked; with no match machine mode has access and user mode none. (DESIGN CHOICE: log entry 12.) -/
def Hart.pmpPermits (h : Hart) (u : PmpUse) (a size : Nat) : Bool :=
  let user := if u != .fetch && h.mprv then h.mppUser else h.user
  match (List.range 16).find? fun i => decide ((h.pmpRange i).1 < (h.pmpRange i).2 ∧ a < (h.pmpRange i).2 ∧ (h.pmpRange i).1 < a + size) with
  | none => !user
  | some i =>
    let r := h.pmpRange i
    decide (r.1 ≤ a ∧ a + size ≤ r.2) && ((!user && !h.pmpLocked i) || bit (h.pmpByte i) u.bit)

/-- A configuration byte is written: a locked entry keeps its own. W without R is reserved, and is taken as neither. (DESIGN CHOICE: log entry 12.) -/
def Hart.putPmpByte (i v : Nat) (h : Hart) : Hart :=
  if h.pmpLocked i then h
  else
    let v := putBits (v % 256) 6 5 0
    { h with pmpcfg := tputD h.pmpcfg i (if bit v 1 && !bit v 0 then putBit v 1 false else v) 0 }

/-- An address register is written, unless its entry is locked or is the lower bound of a locked TOR entry. -/
def Hart.putPmpAddr (i v : Nat) (h : Hart) : Hart :=
  if h.pmpLocked i || (decide (i < 15) && h.pmpLocked (i + 1) && bits (h.pmpByte (i + 1)) 4 3 == 1) then h
  else { h with pmpaddr := tputD h.pmpaddr i v 0 }

/-! ### Exceptions and interrupts (R417 to R419) -/

/-- A trap is taken: the privileged architecture's entry. `vec`: the offset of the handler from the base of mtvec. (DESIGN CHOICE: log entry 12.) -/
def Hart.trap (cause epc tval vec : Nat) (h : Hart) : Hart :=
  { h with mcause := cause, mepc := epc, mtval := tval, mpie := h.mie, mie := false, mppUser := h.user, user := false,
           pc := (h.mtvec / 4 * 4 + vec) % 2 ^ 32 }

/-- MRET. (DESIGN CHOICE: log entry 12.) -/
def Hart.mret (h : Hart) : Hart :=
  { h with user := h.mppUser, mie := h.mpie, mpie := true, mppUser := true, mprv := h.mprv && !h.mppUser, pc := h.mepc }

/-- A core writes a control and status register. Machine registers are out of reach of user mode, and the read-only ones, the counters
mhpmcounter and mhpmevent among them, ignore it (R457). (DESIGN CHOICE: log entry 12.) -/
def Ctl.csrWrite (n a v : Nat) (c : Ctl) : Ctl :=
  let h := c.hart n
  let put (h : Hart) : Ctl := c.setHart n h
  if h.user then c
  else if 0x3A0 ≤ a ∧ a < 0x3A4 then
    put ((List.range 4).foldl (fun h k => h.putPmpByte (4 * (a - 0x3A0) + k) (v / 2 ^ (8 * k) % 256)) h)
  else if 0x3B0 ≤ a ∧ a < 0x3C0 then put (h.putPmpAddr (a - 0x3B0) v)
  else
    let cycle (w : Nat) : Ctl := put { h with cycle := w, cycleAt := c.mtime }
    match a with
    | 0x300 => put { h with mie := bit v 3, mpie := bit v 7, mprv := bit v 17, mppUser := bits v 12 11 == 0, tw := bit v 21 }
    | 0x306 => put { h with counteren := v &&& 0x7FF }
    | 0x304 => put { h with mieReg := v &&& 0x880 }
    | 0x305 => put { h with mtvec := v &&& 0xFFFFFFFD }
    | 0x320 => put { h with cycle := c.mcycle n, cycleAt := c.mtime, inhibit := v &&& 0x7FD }
    | 0x340 => put { h with mscratch := v }
    | 0x341 => put { h with mepc := v &&& 0xFFFFFFFE }
    | 0x342 => put { h with mcause := v }
    | 0x343 => put { h with mtval := v }
    | 0xB00 => cycle (putBits (c.mcycle n) 31 0 v)
    | 0xB80 => cycle (putBits (c.mcycle n) 63 32 v)
    | 0xB02 => put { h with minstret := putBits h.minstret 31 0 v }
    | 0xB82 => put { h with minstret := putBits h.minstret 63 32 v }
    | _ => c

/-- A core that WFI held goes on (R418). -/
def Ctl.wakeCore (n : Nat) (c : Ctl) : Ctl := if bit c.coreWfi n then { c with coreWfi := putBit c.coreWfi n false } else c

/-- An interrupt of a core is pending (R419). -/
def Ctl.intPending (c : Ctl) (n : Nat) : Bool := c.timerPending n || c.extPending n

/-- A core does WFI: it issues no accesses until an interrupt is pending (R418). -/
def Ctl.waitCore (n : Nat) (c : Ctl) : Ctl := if c.intPending n then c else { c with coreWfi := putBit c.coreWfi n true }

/-- A master issues accesses. A core does while it is out of reset, halted neither by debug nor by the boot ROM, and not held by WFI
(R54, R417, R418, R525); the host while its link has a clock (R303); every other master always. (DESIGN CHOICE: log entries 12, 19.) -/
def Ctl.issues (c : Ctl) (m : Nat) : Bool :=
  if m < 4 then c.coreRuns m && !bit c.coreDbg m && !(decide (m = 0) && c.romHalt) && (!bit c.coreWfi m || c.intPending m)
  else decide (m ≠ 4) || !c.xoLost

/-- The interrupt that a core takes now: pending, enabled, and not masked; the external one first. (DESIGN CHOICE: log entry 12.) -/
def Ctl.interruptDue (c : Ctl) (n : Nat) : Option Nat :=
  let h := c.hart n
  let on := c.mip n &&& h.mieReg
  if on = 0 ∨ !(h.mie || h.user) ∨ !c.coreRuns n then none else some (if bit on 11 then 11 else 7)

/-- A core takes the interrupt that is due, at the instruction at an address. -/
def Ctl.interruptAt (n epc : Nat) (c : Ctl) : Ctl :=
  match c.interruptDue n with
  | none => c
  | some cause => c.setHart n ((c.hart n).trap (2 ^ 31 + cause) epc 0 (if (c.hart n).mtvec % 2 = 1 then 4 * cause else 0))

/-- A core takes the interrupt that is due, at an instruction that is not stated. (DESIGN CHOICE: log entry 12.) -/
def Ctl.interruptCore (n : Nat) (c : Ctl) : Ctl :=
  if (c.interruptDue n).isNone then c else (c.takeFree 32).2.interruptAt n (c.takeFree 32).1

/-- An interrupt of a core has become pending: the core is woken, and takes it when it is enabled. -/
def Ctl.coreCalled (n : Nat) (c : Ctl) : Ctl := (c.wakeCore n).interruptCore n

/-- The exception code of an access that ends with an error response or is not permitted: instruction, load or store access fault. -/
def PmpUse.fault : PmpUse → Nat
  | .fetch => 1 | .load => 5 | .store => 7

/-- The exception code of a misaligned access. -/
def PmpUse.misaligned : PmpUse → Nat
  | .fetch => 0 | .load => 4 | .store => 6

/-- A core's access ends with an error response: the access fault, with mtval holding the address (R418). Where the address of its
instruction is not brought in, it is free. (DESIGN CHOICE: log entry 12.) -/
def Ctl.accessFault (n addr : Nat) (u : PmpUse) (pc : Option Word) (c : Ctl) : Ctl :=
  match pc with
  | some w => c.setHart n ((c.hart n).trap u.fault w.toNat (addr % 2 ^ 32) 0)
  | none =>
    let r := c.takeFree 32
    r.2.setHart n ((r.2.hart n).trap u.fault r.1 (addr % 2 ^ 32) 0)

end Sys2Proof.Machine
end

