-- ==== Sys2Proof/Machine/Rv32.lean ====
section
/-! DEFINITION. The instructions of the control cores (R416): RV32IMAC with Zicsr and Zifencei, as the RISC-V architecture that the rule
names defines them. An instruction that makes no access is executed here whole; of one that makes an access, what it asks of the matrix and
what its answer does. -/

namespace Sys2Proof.Machine

/-- An operation of two register values: the base set and the M extension. -/
inductive AluOp where
  | add | sub | sll | slt | sltu | xor | srl | sra | or | and
  | mul | mulh | mulhsu | mulhu | div | divu | rem | remu
  deriving DecidableEq, Repr

/-- The condition of a branch. -/
inductive BrOp where
  | eq | ne | lt | ge | ltu | geu
  deriving DecidableEq, Repr

/-- The operation of an atomic access on a word. -/
inductive AmoOp where
  | swap | add | xor | and | or | min | max | minu | maxu
  deriving DecidableEq, Repr

/-- The second operand of an operation: a register or an immediate. -/
inductive RvSrc where
  | reg (r : Nat)
  | imm (w : Word)
  deriving DecidableEq, Repr

/-- What a CSR instruction does with its operand: writes it, or sets or clears its bits. -/
inductive CsrOp where
  | write | set | clear
  deriving DecidableEq, Repr

/-- An instruction. An offset is added to the instruction's address, or to rs1. -/
inductive RvInstr where
  | lui (rd : Nat) (w : Word)
  | auipc (rd : Nat) (w : Word)
  | jal (rd : Nat) (off : Word)
  | jalr (rd rs1 : Nat) (off : Word)
  | branch (op : BrOp) (rs1 rs2 : Nat) (off : Word)
  | alu (op : AluOp) (rd rs1 : Nat) (b : RvSrc)
  | load (size : Nat) (signed : Bool) (rd rs1 : Nat) (off : Word)
  | store (size rs1 rs2 : Nat) (off : Word)
  | lr (rd rs1 : Nat)
  | sc (rd rs1 rs2 : Nat)
  | amo (op : AmoOp) (rd rs1 rs2 : Nat)
  | csr (op : CsrOp) (rd addr : Nat) (src : RvSrc)
  | fence
  | ecall
  | ebreak
  | mret
  | wfi
  deriving DecidableEq, Repr

/-! ### Decoding -/

/-- Bits `[hi:lo]` of an instruction. -/
def rvBits (w : Word) (hi lo : Nat) : Nat := bits w.toNat hi lo

/-- A number of `n` bits, sign-extended to a word. -/
def rvSign (n v : Nat) : Word := BitVec.ofInt 32 (if 2 ^ (n - 1) ≤ v then (v : Int) - 2 ^ n else v)

/-- The immediates of the 32-bit formats I, S, B and J. -/
def immI (w : Word) : Word := rvSign 12 (rvBits w 31 20)
def immS (w : Word) : Word := rvSign 12 (rvBits w 31 25 * 2 ^ 5 + rvBits w 11 7)
def immB (w : Word) : Word :=
  rvSign 13 (rvBits w 31 31 * 2 ^ 12 + rvBits w 7 7 * 2 ^ 11 + rvBits w 30 25 * 2 ^ 5 + rvBits w 11 8 * 2)
def immJ (w : Word) : Word :=
  rvSign 21 (rvBits w 31 31 * 2 ^ 20 + rvBits w 19 12 * 2 ^ 12 + rvBits w 20 20 * 2 ^ 11 + rvBits w 30 21 * 2)

/-- The base operations by funct3. -/
def aluBase : List AluOp := [.add, .sll, .slt, .sltu, .xor, .srl, .or, .and]

/-- The M operations by funct3. -/
def aluMul : List AluOp := [.mul, .mulh, .mulhsu, .mulhu, .div, .divu, .rem, .remu]

/-- The operation of a register-register instruction. -/
def aluReg (f3 f7 : Nat) : Option AluOp :=
  if f7 = 0 then aluBase[f3]?
  else if f7 = 1 then aluMul[f3]?
  else if f7 = 0x20 then (if f3 = 0 then some .sub else if f3 = 5 then some .sra else none)
  else none

/-- The operation and the operand of an immediate instruction. -/
def aluImm (w : Word) : Option (AluOp × Word) :=
  let f3 := rvBits w 14 12
  let f7 := rvBits w 31 25
  let sh := BitVec.ofNat 32 (rvBits w 24 20)
  if f3 = 1 then (if f7 = 0 then some (.sll, sh) else none)
  else if f3 = 5 then (if f7 = 0 then some (.srl, sh) else if f7 = 0x20 then some (.sra, sh) else none)
  else (aluBase[f3]?).map fun o => (o, immI w)

/-- The branch condition of funct3. -/
def brOf (f3 : Nat) : Option BrOp := [some .eq, some .ne, none, none, some .lt, some .ge, some .ltu, some .geu].getD f3 none

/-- The size and the sign extension of a load's funct3. -/
def loadOf (f3 : Nat) : Option (Nat × Bool) :=
  [some (1, true), some (2, true), some (4, true), none, some (1, false), some (2, false)].getD f3 none

/-- The atomic operation of funct5. -/
def amoOf (f5 : Nat) : Option AmoOp :=
  if f5 = 1 then some .swap else if f5 = 0 then some .add else if f5 = 4 then some .xor else if f5 = 12 then some .and
  else if f5 = 8 then some .or else if f5 = 16 then some .min else if f5 = 20 then some .max else if f5 = 24 then some .minu
  else if f5 = 28 then some .maxu else none

/-- The instructions of the SYSTEM opcode. -/
def decodeSystem (w : Word) : Option RvInstr :=
  let f3 := rvBits w 14 12
  let csr (op : CsrOp) : Option RvInstr :=
    some (.csr op (rvBits w 11 7) (rvBits w 31 20) (if f3 < 4 then .reg (rvBits w 19 15) else .imm (BitVec.ofNat 32 (rvBits w 19 15))))
  if f3 = 0 then
    if w = 0x00000073 then some .ecall else if w = 0x00100073 then some .ebreak else if w = 0x30200073 then some .mret
    else if w = 0x10500073 then some .wfi else none
  else if f3 % 4 = 1 then csr .write else if f3 % 4 = 2 then csr .set else if f3 % 4 = 3 then csr .clear else none

/-- The atomic instructions. -/
def decodeAmo (w : Word) : Option RvInstr :=
  let f5 := rvBits w 31 27
  let rd := rvBits w 11 7
  let rs1 := rvBits w 19 15
  let rs2 := rvBits w 24 20
  if rvBits w 14 12 ≠ 2 then none
  else if f5 = 2 then (if rs2 = 0 then some (.lr rd rs1) else none)
  else if f5 = 3 then some (.sc rd rs1 rs2)
  else (amoOf f5).map fun o => .amo o rd rs1 rs2

/-- A 32-bit instruction. -/
def decode32 (w : Word) : Option RvInstr :=
  let rd := rvBits w 11 7
  let rs1 := rvBits w 19 15
  let rs2 := rvBits w 24 20
  let f3 := rvBits w 14 12
  let top := BitVec.ofNat 32 (rvBits w 31 12 * 2 ^ 12)
  match rvBits w 6 0 with
  | 0x37 => some (.lui rd top)
  | 0x17 => some (.auipc rd top)
  | 0x6F => some (.jal rd (immJ w))
  | 0x67 => if f3 = 0 then some (.jalr rd rs1 (immI w)) else none
  | 0x63 => (brOf f3).map fun o => .branch o rs1 rs2 (immB w)
  | 0x03 => (loadOf f3).map fun p => .load p.1 p.2 rd rs1 (immI w)
  | 0x23 => if f3 < 3 then some (.store (2 ^ f3) rs1 rs2 (immS w)) else none
  | 0x13 => (aluImm w).map fun p => .alu p.1 rd rs1 (.imm p.2)
  | 0x33 => (aluReg f3 (rvBits w 31 25)).map fun o => .alu o rd rs1 (.reg rs2)
  | 0x0F => if f3 < 2 then some .fence else none
  | 0x73 => decodeSystem w
  | 0x2F => decodeAmo w
  | _ => none

/-- The immediate of a 6-bit field of the C extension: bit 12 and bits 6 to 2. -/
def cImm6 (w : Word) : Word := rvSign 6 (rvBits w 12 12 * 2 ^ 5 + rvBits w 6 2)

/-- The offset of C.J and C.JAL. -/
def cImmJ (w : Word) : Word :=
  rvSign 12 (rvBits w 12 12 * 2 ^ 11 + rvBits w 8 8 * 2 ^ 10 + rvBits w 10 9 * 2 ^ 8 + rvBits w 6 6 * 2 ^ 7 + rvBits w 7 7 * 2 ^ 6 +
    rvBits w 2 2 * 2 ^ 5 + rvBits w 11 11 * 2 ^ 4 + rvBits w 5 3 * 2)

/-- The offset of C.BEQZ and C.BNEZ. -/
def cImmB (w : Word) : Word :=
  rvSign 9 (rvBits w 12 12 * 2 ^ 8 + rvBits w 6 5 * 2 ^ 6 + rvBits w 2 2 * 2 ^ 5 + rvBits w 11 10 * 2 ^ 3 + rvBits w 4 3 * 2)

/-- The offset of C.LW and C.SW. -/
def cOffW (w : Word) : Word := BitVec.ofNat 32 (rvBits w 5 5 * 2 ^ 6 + rvBits w 12 10 * 2 ^ 3 + rvBits w 6 6 * 2 ^ 2)

/-- Quadrant 0 of the C extension. -/
def decodeC0 (w : Word) : Option RvInstr :=
  let rd := 8 + rvBits w 4 2
  let rs1 := 8 + rvBits w 9 7
  match rvBits w 15 13 with
  | 0 =>
    let k := rvBits w 10 7 * 2 ^ 6 + rvBits w 12 11 * 2 ^ 4 + rvBits w 5 5 * 2 ^ 3 + rvBits w 6 6 * 2 ^ 2
    if k = 0 then none else some (.alu .add rd 2 (.imm (BitVec.ofNat 32 k)))
  | 2 => some (.load 4 true rd rs1 (cOffW w))
  | 6 => some (.store 4 rs1 rd (cOffW w))
  | _ => none

/-- The arithmetic of quadrant 1 of the C extension on x8 to x15. -/
def decodeC1Alu (w : Word) : Option RvInstr :=
  let rd := 8 + rvBits w 9 7
  let shift (o : AluOp) : Option RvInstr :=
    if rvBits w 12 12 = 0 then some (.alu o rd rd (.imm (BitVec.ofNat 32 (rvBits w 6 2)))) else none
  match rvBits w 11 10 with
  | 0 => shift .srl
  | 1 => shift .sra
  | 2 => some (.alu .and rd rd (.imm (cImm6 w)))
  | _ =>
    if rvBits w 12 12 = 1 then none
    else some (.alu (([AluOp.sub, .xor, .or, .and])[rvBits w 6 5]?.getD .sub) rd rd (.reg (8 + rvBits w 4 2)))

/-- Quadrant 1 of the C extension. -/
def decodeC1 (w : Word) : Option RvInstr :=
  let rd := rvBits w 11 7
  match rvBits w 15 13 with
  | 0 => some (.alu .add rd rd (.imm (cImm6 w)))
  | 1 => some (.jal 1 (cImmJ w))
  | 2 => some (.alu .add rd 0 (.imm (cImm6 w)))
  | 3 =>
    if cImm6 w = 0 then none
    else if rd = 2 then
      some (.alu .add 2 2 (.imm (rvSign 10 (rvBits w 12 12 * 2 ^ 9 + rvBits w 4 3 * 2 ^ 7 + rvBits w 5 5 * 2 ^ 6 + rvBits w 2 2 * 2 ^ 5 +
        rvBits w 6 6 * 2 ^ 4))))
    else some (.lui rd (cImm6 w * 0x1000))
  | 4 => decodeC1Alu w
  | 5 => some (.jal 0 (cImmJ w))
  | 6 => some (.branch .eq (8 + rvBits w 9 7) 0 (cImmB w))
  | _ => some (.branch .ne (8 + rvBits w 9 7) 0 (cImmB w))

/-- Quadrant 2 of the C extension. -/
def decodeC2 (w : Word) : Option RvInstr :=
  let rd := rvBits w 11 7
  let rs2 := rvBits w 6 2
  match rvBits w 15 13 with
  | 0 => if rvBits w 12 12 = 0 then some (.alu .sll rd rd (.imm (BitVec.ofNat 32 rs2))) else none
  | 2 =>
    if rd = 0 then none
    else some (.load 4 true rd 2 (BitVec.ofNat 32 (rvBits w 3 2 * 2 ^ 6 + rvBits w 12 12 * 2 ^ 5 + rvBits w 6 4 * 2 ^ 2)))
  | 4 =>
    if rvBits w 12 12 = 0 then
      if rs2 ≠ 0 then some (.alu .add rd 0 (.reg rs2)) else if rd ≠ 0 then some (.jalr 0 rd 0) else none
    else if rs2 ≠ 0 then some (.alu .add rd rd (.reg rs2)) else if rd ≠ 0 then some (.jalr 1 rd 0) else some .ebreak
  | 6 => some (.store 4 2 rs2 (BitVec.ofNat 32 (rvBits w 8 7 * 2 ^ 6 + rvBits w 12 9 * 2 ^ 2)))
  | _ => none

/-- The bytes of an instruction. -/
def rvLen (w : Word) : Nat := if rvBits w 1 0 = 3 then 4 else 2

/-- The instruction that a word holds, in its low half for a compressed one; `none` is an illegal instruction. (DESIGN CHOICE: log entry 12.) -/
def rvDecode (w : Word) : Option RvInstr :=
  match rvBits w 1 0 with
  | 0 => decodeC0 w
  | 1 => decodeC1 w
  | 2 => decodeC2 w
  | _ => decode32 w

/-! ### Values -/

/-- The result of an operation. -/
def AluOp.run (o : AluOp) (a b : Word) : Word :=
  let high (x y : Int) : Word := BitVec.ofInt 32 (x * y / 2 ^ 32)
  match o with
  | .add => a + b
  | .sub => a - b
  | .sll => a <<< (b.toNat % 32)
  | .slt => if a.toInt < b.toInt then 1 else 0
  | .sltu => if a.toNat < b.toNat then 1 else 0
  | .xor => a ^^^ b
  | .srl => a >>> (b.toNat % 32)
  | .sra => a.sshiftRight (b.toNat % 32)
  | .or => a ||| b
  | .and => a &&& b
  | .mul => a * b
  | .mulh => high a.toInt b.toInt
  | .mulhsu => high a.toInt b.toNat
  | .mulhu => high a.toNat b.toNat
  | .div => if b = 0 then BitVec.allOnes 32 else BitVec.ofInt 32 (a.toInt.tdiv b.toInt)
  | .divu => if b = 0 then BitVec.allOnes 32 else BitVec.ofNat 32 (a.toNat / b.toNat)
  | .rem => if b = 0 then a else BitVec.ofInt 32 (a.toInt.tmod b.toInt)
  | .remu => if b = 0 then a else BitVec.ofNat 32 (a.toNat % b.toNat)

/-- A branch is taken. -/
def BrOp.holds (o : BrOp) (a b : Word) : Bool :=
  match o with
  | .eq => a == b
  | .ne => a != b
  | .lt => decide (a.toInt < b.toInt)
  | .ge => decide (b.toInt ≤ a.toInt)
  | .ltu => decide (a.toNat < b.toNat)
  | .geu => decide (b.toNat ≤ a.toNat)

/-- The word that an atomic access stores. -/
def AmoOp.run (o : AmoOp) (old b : Word) : Word :=
  match o with
  | .swap => b
  | .add => old + b
  | .xor => old ^^^ b
  | .and => old &&& b
  | .or => old ||| b
  | .min => if old.toInt ≤ b.toInt then old else b
  | .max => if b.toInt ≤ old.toInt then old else b
  | .minu => if old.toNat ≤ b.toNat then old else b
  | .maxu => if b.toNat ≤ old.toNat then old else b

/-- A general register; x0 reads 0. -/
def Hart.x (h : Hart) (r : Nat) : Word := if r = 0 then 0 else tget h.xregs r 0

/-- A general register is written; x0 discards. -/
def Hart.putX (r : Nat) (v : Word) (h : Hart) : Hart := if r = 0 then h else { h with xregs := tputD h.xregs r v 0 }

/-- The value of an operand. -/
def Hart.src (h : Hart) (b : RvSrc) : Word := match b with
  | .reg r => h.x r
  | .imm w => w

/-! ### Instructions that make no access -/

/-- A control and status register is open to an instruction: it is there, the mode is high enough for it, a counter is open to user mode
under mcounteren, and a read-only one is not written. (DESIGN CHOICE: log entry 12.) -/
def Ctl.csrOpen (c : Ctl) (n a : Nat) (write : Bool) : Bool :=
  let h := c.hart n
  ((c.csr n a).isSome || decide (0x323 ≤ a ∧ a < 0x340)) && !(write && bits a 11 10 == 3) &&
    (!h.user || (bits a 9 8 == 0 && (!decide (0xC00 ≤ a ∧ a < 0xCA0) || bit h.counteren (a % 32))))

/-- An exception of an instruction, taken at an address with an mtval. -/
def Ctl.exception (n cause epc tval : Nat) (c : Ctl) : Ctl := c.setHart n ((c.hart n).trap cause epc tval 0)

/-- The illegal-instruction exception. Its mtval may be 0 or the instruction: a free value. -/
def Ctl.illegal (n epc : Nat) (c : Ctl) : Ctl := (c.takeFree 32).2.exception n 2 epc (c.takeFree 32).1

/-- A CSR instruction reads the register and then writes it, unless it only sets or clears bits of x0 or of an immediate 0. What an
mhpmevent register reads is not stated. -/
def Ctl.csrInstr (n : Nat) (op : CsrOp) (rd a : Nat) (s : RvSrc) (c : Ctl) : Option Ctl :=
  let write := op == .write || (s != .reg 0 && s != .imm 0)
  if !c.csrOpen n a write then none
  else
    let r := match c.csr n a with
      | some v => (v, c)
      | none => c.takeFree 32
    let b := ((c.hart n).src s).toNat
    let v := match op with
      | .write => b
      | .set => r.1 ||| b
      | .clear => r.1 &&& (0xFFFFFFFF ^^^ (r.1 &&& b))
    let c := if write then r.2.csrWrite n a v else r.2
    some (c.setHart n ((c.hart n).putX rd (BitVec.ofNat 32 r.1)))

/-- An instruction of a core at its program counter, and whether it retires. One that makes an access is not executed here. (DESIGN CHOICE: log entry 12.) -/
def Ctl.coreInstr (n : Nat) (w : Word) (c : Ctl) : Bool × Ctl :=
  let h := c.hart n
  let pc := BitVec.ofNat 32 h.pc
  let next (h : Hart) : Hart := { h with pc := (pc + BitVec.ofNat 32 (rvLen w)).toNat }
  let put (rd : Nat) (v : Word) : Bool × Ctl := (true, c.setHart n (next (h.putX rd v)))
  let jump (rd : Nat) (dest : Word) : Bool × Ctl := (true, c.setHart n { (next h).putX rd (BitVec.ofNat 32 (next h).pc) with pc := dest.toNat })
  match rvDecode w with
  | none => (false, c.illegal n h.pc)
  | some (.lui rd v) => put rd v
  | some (.auipc rd v) => put rd (pc + v)
  | some (.jal rd off) => jump rd (pc + off)
  | some (.jalr rd rs1 off) => jump rd ((h.x rs1 + off) &&& 0xFFFFFFFE)
  | some (.branch o r1 r2 off) => if o.holds (h.x r1) (h.x r2) then jump 0 (pc + off) else put 0 0
  | some (.alu o rd rs1 b) => put rd (o.run (h.x rs1) (h.src b))
  | some (.csr op rd a s) =>
    match c.csrInstr n op rd a s with
    | some c => (true, c.setHart n (next (c.hart n)))
    | none => (false, c.illegal n h.pc)
  | some .fence => put 0 0
  | some .ecall => (false, c.exception n (if h.user then 8 else 11) h.pc 0)
  | some .ebreak => (false, (c.takeFree 32).2.exception n 3 h.pc (c.takeFree 32).1)
  | some .mret => if h.user then (false, c.illegal n h.pc) else (true, c.setHart n h.mret)
  | some .wfi => if h.user && h.tw then (false, c.illegal n h.pc) else (true, (c.setHart n (next h)).waitCore n)
  | some (.load ..) => (false, c)
  | some (.store ..) => (false, c)
  | some (.lr ..) => (false, c)
  | some (.sc ..) => (false, c)
  | some (.amo ..) => (false, c)

/-! ### Instructions that make an access -/

/-- What an instruction asks of the matrix. -/
structure RvAsk where
  addr : Nat
  size : Nat
  write : Bool
  data : Nat
  deriving DecidableEq, Repr

/-- The access that an instruction makes, an atomic one first its read; `none` where it makes none, as a store-conditional without its
reservation. (DESIGN CHOICE: log entry 12.) -/
def Hart.ask (h : Hart) (i : RvInstr) : Option RvAsk :=
  match i with
  | .load z _ _ r off => some ⟨(h.x r + off).toNat, z, false, 0⟩
  | .store z r r2 off => some ⟨(h.x r + off).toNat, z, true, (h.x r2).toNat % 2 ^ (8 * z)⟩
  | .lr _ r => some ⟨(h.x r).toNat, 4, false, 0⟩
  | .sc _ r r2 => if h.resv = some (h.x r).toNat then some ⟨(h.x r).toNat, 4, true, (h.x r2).toNat⟩ else none
  | .amo _ _ r _ => some ⟨(h.x r).toNat, 4, false, 0⟩
  | _ => none

/-- An atomic operation is a store to the protection and to its exceptions. -/
def RvInstr.use (i : RvInstr) (u : PmpUse) : PmpUse := match i with
  | .amo .. => .store
  | _ => u

/-- An instruction whose access has been answered with `v` is complete: its register, its reservation and the program counter. (DESIGN CHOICE: log entry 12.) -/
def Hart.finish (i : RvInstr) (addr v : Nat) (pc : Word) (h : Hart) : Hart :=
  let h := { h with pc := pc.toNat }
  match i with
  | .load z signed rd _ _ => h.putX rd (if signed then rvSign (8 * z) v else BitVec.ofNat 32 v)
  | .lr rd _ => { h.putX rd (BitVec.ofNat 32 v) with resv := some addr }
  | .sc rd _ _ => { h.putX rd 0 with resv := none }
  | .amo _ rd _ _ => h.putX rd (BitVec.ofNat 32 v)
  | _ => h

/-- A store-conditional that has lost its reservation: it makes no access, and says so in its register. -/
def Hart.scFail (rd : Nat) (pc : Word) (h : Hart) : Hart := { h.putX rd 1 with pc := pc.toNat, resv := none }

/-- A core holds a reservation on bytes that another master writes. -/
def Hart.resvHit (n m a size : Nat) (h : Hart) : Bool := match h.resv with
  | some r => decide (n ≠ m ∧ a < r + 4 ∧ r < a + size)
  | none => false

/-- A master writes bytes of a memory: the reservations that other cores hold on them end. (DESIGN CHOICE: log entry 12.) -/
def Ctl.breakResv (m a size : Nat) (c : Ctl) : Ctl :=
  if c.harts.any fun q => q.2.resvHit q.1 m a size then
    { c with harts := c.harts.map fun q => (q.1, if q.2.resvHit q.1 m a size then { q.2 with resv := none } else q.2) }
  else c

end Sys2Proof.Machine
end

