-- ==== Sys2Proof/Machine/Flags.lean ====
section
/-! DEFINITION. Events, alarms and the signals that pass between the blocks: HDR_EVT and the event records (R460 to R462),
the performance counters (R455), source-fail (R117), the queue of the protection engine (R269) and the recorder triggers
(R289). -/

namespace Sys2Proof.Machine

/-! ### Performance counters (R455, R456) -/

/-- `n` occurrences of a catalogue code at this moment: an EDGE counter counts each, a LEVEL counter the tick in which they fall, once
(R455). -/
def Ctl.occ (code n : Nat) (c : Ctl) : Ctl :=
  if n = 0 then c else
  { c with pmc := c.pmc.map fun (k, p) =>
      if p.en && p.event == code && !c.pmcStopped k then
        if !p.level then (k, { p with val := p.val + n })
        else if c.ticking && p.hitAt != some c.mtime then (k, { p with val := p.val + 1, hitAt := some c.mtime })
        else (k, p)
      else (k, p) }

/-- A condition held for `n` ticks within a command: an EDGE counter counts its rise, a LEVEL counter the ticks (R455). -/
def Ctl.condHeld (code n : Nat) (c : Ctl) : Ctl :=
  { c with pmc := c.pmc.map fun (k, p) =>
      if p.en && p.event == code && !c.pmcStopped k then (k, { p with val := p.val + (if p.level then n else 1) }) else (k, p) }

/-- An access of a master on the bus matrix: it is counted, and the master has it outstanding in the tick in which it is made (Table 16.3). (DEDUCED: log entry 66.) -/
def Ctl.busAccess (m : Nat) (c : Ctl) : Ctl := (c.occ (0x30 + m) 1).occ (0x3C + m) 1

/-- The same for scratchpad offset `o`: its bank serves the access (R422). (DEDUCED: log entry 66.) -/
def Ctl.bankAccess (m o : Nat) (c : Ctl) : Ctl := (c.busAccess m).occ (0x10 + o / 0x40000) 1

/-- The size of the next access of an engine that has `n` bytes left at two addresses: the largest that is aligned at both (R428). -/
def pieceSize (a b n : Nat) : Nat :=
  if 8 ≤ n ∧ a % 8 = 0 ∧ b % 8 = 0 then 8
  else if 4 ≤ n ∧ a % 4 = 0 ∧ b % 4 = 0 then 4
  else if 2 ≤ n ∧ a % 2 = 0 ∧ b % 2 = 0 then 2 else 1

/-- The accesses, by address and size, that an engine's transfer of `n` bytes at `a` is made of (R428). The fuel is the number of bytes. (DEDUCED: log entry 66.) -/
def accessesOf : Nat → Nat → Nat → List (Nat × Nat)
  | 0, _, _ => []
  | k + 1, a, n => if n = 0 then [] else (a, pieceSize a a n) :: accessesOf k (a + pieceSize a a n) (n - pieceSize a a n)

/-- An engine's transfer of scratchpad bytes is counted. (DEDUCED: log entry 66.) -/
def Ctl.spadAccesses (m a n : Nat) (c : Ctl) : Ctl := (accessesOf n a n).foldl (fun c q => c.bankAccess m q.1) c

/-- The same for `n` bytes of a ring from an offset, with wrap. (DEDUCED: log entry 66.) -/
def Ctl.ringAccesses (m base size o n : Nat) (c : Ctl) : Ctl :=
  (c.spadAccesses m (base + o) (min n (size - o))).spadAccesses m base (n - (size - o))

/-- Instructions of a core retire (R416, Table 16.3). -/
def Ctl.coreRetire (n k : Nat) (c : Ctl) : Ctl :=
  let h := c.hart n
  (c.setHart n (if bit h.inhibit 2 then h else { h with minstret := (h.minstret + k) % 2 ^ 64 })).occ (0x94 + n) k

/-- An instruction of a core that makes no access: its effect, its retirement, and the interrupt that is then due. minstret keeps what the
instruction itself wrote to it. (DESIGN CHOICE: log entry 12.) -/
def Ctl.coreStep (n : Nat) (w : Word) (c : Ctl) : Ctl :=
  let r := c.coreInstr n w
  let d := if !r.1 then r.2
    else if (r.2.hart n).minstret = (c.hart n).minstret then r.2.coreRetire n 1 else r.2.occ (0x94 + n) 1
  d.interruptAt n (d.hart n).pc

/-- What a core did between two of its accesses (R416 to R418): its interrupts are judged after each. The address of an instruction
that is not brought is free. (DESIGN CHOICE: log entry 12.) -/
def Ctl.coreOp (n : Nat) (c : Ctl) : CoreOp → Ctl
  | .instr w => c.coreStep n w
  | .retire k => c.coreRetire n k
  | .csr a v => if c.csrOpen n a true then (c.csrWrite n a v.toNat).interruptCore n else (c.takeFree 32).2.illegal n (c.takeFree 32).1
  | .trap cause epc tval => c.setHart n ((c.hart n).trap cause epc.toNat tval.toNat 0)
  | .mret =>
    if (c.hart n).user then (c.takeFree 32).2.illegal n (c.takeFree 32).1
    else (c.setHart n (c.hart n).mret).interruptAt n (c.hart n).mepc
  | .wfi => if (c.hart n).user && (c.hart n).tw then (c.takeFree 32).2.illegal n (c.takeFree 32).1 else c.waitCore n

/-- A command has ended: EDGE counters count the rises of their conditions (R455). -/
def Ctl.settle (before : Ctl) (c : Ctl) : Ctl :=
  { c with pmc := c.pmc.map fun (k, p) =>
      if p.en && !p.level && !c.pmcStopped k && before.condition p.event == some false && c.condition p.event == some true then
        (k, { p with val := p.val + 1 })
      else (k, p) }

/-! ### Records (R460 to R463) -/

/-- The next value of a sequence that skips 0 (Table 16.4). -/
def nextSeq (n : Nat) : Nat := if (n + 1) % 2 ^ 32 = 0 then 1 else (n + 1) % 2 ^ 32

/-- Set an event bit (R12). -/
def Ctl.setEvt (page evBit : Nat) (c : Ctl) : Ctl := c.setReg (R.HDR_EVT page) (c.reg (R.HDR_EVT page) ||| BitVec.ofNat 32 (2 ^ evBit))

/-- A record of an event of a page, at this moment (Table 16.4). -/
def Ctl.mkRec (typ cls evBit page : Nat) (detail : List Byte) (c : Ctl) : EvRec :=
  { seq := (c.reg R.EVT_SEQ).toNat, typ, cls, evBit, page, fn := c.fnN
    flags := b2n c.tb.untimed * 128 + b2n c.tb.selB * 64
    time := c.tb.sel, stat := c.hdrStat page, detail := slice detail 0 24 }

/-- The record takes the next SEQ. With the notify ring enabled a record that notifies waits for its place there, and a
record beyond the 64 that the EVE holds is dropped; every other record goes to the log ring (R460, R463). The second
component says that a record was dropped. -/
def Ctl.placeRec (r : EvRec) (logOnly : Bool) (c : Ctl) : Bool × Ctl :=
  let c := (c.set F.EVT_SEQ_VALUE (nextSeq r.seq)).occ 0x0B 1
  if logOnly || !c.on F.EVT_RING_CFG_EN then
    (false, if c.on F.EVT_LOG_CFG_EN then { c with ev := { c.ev with unlogged := c.ev.unlogged ++ [r] } } else c)
  else if 64 ≤ c.ev.waiting.length then (true, c.count F.EVT_CNT_DROP_COUNT 1)
  else (false, { c with ev := { c.ev with waiting := c.ev.waiting ++ [r] } })

/-- The louvre configuration of a page: BURST and RATE as taken (EVT_LV_CFG). -/
def Ctl.louvreCfg (c : Ctl) (page : Nat) : Nat × Nat :=
  let w := tget c.ev.lvCfg page 0x10000064
  (max 1 (wGet w 31 24), min 10000 (max 1 (wGet w 13 0)))

/-- The class of an event (R477). -/
def eventClass (page evBit : Nat) : Nat := match pageBlock page with
  | some b => lget b.classes evBit 0
  | none => 0

/-- The record of an event is judged by its class, its enable bit and its louvre (R460, R461). -/
def Ctl.recordOf (page evBit : Nat) (detail : List Byte) (c : Ctl) : Bool × Ctl :=
  let cls := eventClass page evBit
  if cls = 3 then c.placeRec (c.mkRec 0 cls evBit page detail) false
  else if bit (c.reg (R.HDR_EVT_EN page)).toNat evBit then
    let k := page * 32 + evBit
    let l := tget c.ev.louvres k ⟨(c.louvreCfg page).1, 0, 0, 0, 0, 0⟩
    if 0 < l.tokens then
      ({ c with ev := { c.ev with louvres := tput c.ev.louvres k { l with tokens := l.tokens - 1 } } }).placeRec
        (c.mkRec 0 cls evBit page detail) false
    else
      let l' := { l with supp := l.supp + 1, first := if l.supp = 0 then c.fnN else l.first, last := c.fnN }
      (false, (({ c with ev := { c.ev with louvres := tput c.ev.louvres k l' } }).count F.EVT_CNT_SUPP_COUNT 1).occ 0x0C 1)
  else (false, c)

/-- A block raises an event: its HDR_EVT bit is set and its record formed (R460). SWITCH of the PGS page has no record of its
own here (R465). A record dropped because the EVE is full raises RING_DROP, whose own record is placed by the same rules. -/
def Ctl.raise (page evBit : Nat) (detail : List Byte) (c : Ctl) : Ctl :=
  let c := c.setEvt page evBit
  if page = 0x022 ∧ evBit = 0 then c
  else
    let r := c.recordOf page evBit detail
    if r.1 then ((r.2.setEvt 0x051 0).recordOf 0x051 0 []).2 else r.2

/-- Raise an event when a condition holds. -/
def Ctl.raiseIf (p : Bool) (page evBit : Nat) (c : Ctl) : Ctl := if p then c.raise page evBit [] else c

/-! ### Lanes and protection (R117, R118, R269) -/

/-- A receive lane. -/
def Ctl.lrx (c : Ctl) (n : Nat) : LaneRx := tget c.rx n {}

/-- Change a receive lane. -/
def Ctl.setRx (n : Nat) (l : LaneRx) (c : Ctl) : Ctl := { c with rx := tput c.rx n l }

/-- A transmit lane. -/
def Ctl.ltx (c : Ctl) (n : Nat) : LaneTx := tget c.tx n {}

/-- Change a transmit lane. -/
def Ctl.setTx (n : Nat) (l : LaneTx) (c : Ctl) : Ctl := { c with tx := tput c.tx n l }

/-- A lane's overhead. -/
def Ctl.loh (c : Ctl) (n : Nat) : LaneOh := tget c.oh n {}

/-- Change a lane's overhead. -/
def Ctl.setOh (n : Nat) (l : LaneOh) (c : Ctl) : Ctl := { c with oh := tput c.oh n l }

/-- The key of a lane group starts here. -/
def lgBase : Nat := 65536

/-- The lane whose state stands for a lane of a group: a slot group sees a substituted lane, a lane group never does (R249). -/
def Ctl.groupLane (c : Ctl) (k n : Nat) : Nat := if lgBase ≤ k then n else tget c.subst n n

/-- FE_ACTIVE of a lane (R154); a lane without an external receive side shows 0. -/
def Ctl.feActiveOf (c : Ctl) (n : Nat) : Bool := decide (n < 24) && (c.loh n).feActive

/-- The lane-based signal fail of a lane (Table 9.1): source-fail, the maintenance set, or the far-end unit rule (R254). -/
def Ctl.laneSf (c : Ctl) (feSel : Bool) (n other : Nat) : Bool :=
  decide (n < 24) && (c.sourceFail n || (c.mode == .maintenance && c.onBit F.TOP_MAINT_SET_LANES n) ||
    (feSel && !c.feActiveOf n && c.feActiveOf other))

/-- The lane-based signal degrade of a lane (Table 9.1). -/
def Ctl.laneSd (c : Ctl) (n : Nat) : Bool := decide (n < 24) && (c.lrx n).top == 9

/-- The raw conditions W_SF, W_SD, P_SF and P_SD of a group (R251). -/
def Ctl.rawConditions (c : Ctl) (k : Nat) (g : Group) : List Bool :=
  let w := c.groupLane k g.w
  let p := c.groupLane k g.p
  let rates := decide (lgBase ≤ k) && (c.lrx g.w).rate != (c.lrx g.p).rate
  [c.laneSf g.feSelEn w p || (g.monEn && g.repW), c.laneSd w,
   c.laneSf g.feSelEn p w || (g.monEn && g.repP) || rates, c.laneSd p]

/-- The ticks of 10 ms, the unit of HOLDOFF. -/
def holdTicks : Nat := 2048000

/-- The raw conditions as they are seen at a moment: the hold-off of a new one starts, and one that has ended has none (R255). -/
def Group.rawSeen (now : Nat) (raw : List Bool) (g : Group) : Group :=
  { g with hold := List.zipWith (fun r h => if r then some (h.getD (now + g.holdoff * holdTicks)) else none) raw g.hold }

/-- Queue groups for evaluation: lane groups first, then slot groups, in increasing number; a group already queued is not
queued again (R269). The hold-off timers of each see its raw conditions at this moment (R255). -/
def Ctl.queueGroups (p : Nat → Group → Bool) (cause : Nat) (c : Ctl) : Ctl :=
  let see (q : Nat × Group) : Nat × Group :=
    if q.2.en && !q.2.frozen && p q.1 q.2 then (q.1, q.2.rawSeen c.mtime (c.rawConditions q.1 q.2)) else q
  let hit := (c.groups.filter fun (k, g) => g.en && !g.frozen && p k g && !c.pgQueue.any (fun q => q.1 == k)).map Prod.fst
  let ks := hit.filter (fun k => decide (65536 ≤ k)) ++ hit.filter (fun k => decide (k < 65536))
  { c with groups := c.groups.map see, pgQueue := c.pgQueue ++ ks.map (fun k => (k, cause)) }

/-- A group takes conditions from a lane, directly, by substitution or for its APS messages (R251, R266). -/
def Ctl.groupUses (c : Ctl) (n : Nat) (g : Group) : Bool :=
  g.w == n || g.p == n || tget c.subst g.w g.w == n || tget c.subst g.p g.p == n || (g.bidir && g.apsLane == n)

/-- A lane's conditions have changed: every group that uses it is queued (R118, R269). -/
def Ctl.laneChanged (n : Nat) (c : Ctl) : Ctl := c.queueGroups (fun _ g => c.groupUses n g) n

/-- A trigger source of a recorder lane occurs (R289). -/
def Ctl.rlTrigger (r src : Nat) (c : Ctl) : Ctl := { c with rlTrig := tput c.rlTrig r (putBit (tget c.rlTrig r 0) src true) }

/-- The defect whose code is lowest (R113). -/
def LaneRx.lowest (l : LaneRx) : Nat :=
  if l.los then 1 else if l.lol then 2 else if l.lof then 3 else if l.inFrame && !l.mfAligned then 4 else if l.ais then 5
  else if l.tim then 6 else if l.auth then 7 else if l.exc then 8 else if l.deg then 9 else if l.rdi then 10 else 0

/-- The present state of a lane marks its PM second (R448). -/
def Ctl.pmMark (n : Nat) (c : Ctl) : Ctl :=
  let l := c.lrx n
  let a := tget c.pmAcc n {}
  { c with pmAcc := tput c.pmAcc n { a with
      neDef := a.neDef || decide (1 ≤ l.top ∧ l.top ≤ 8), feDef := a.feDef || decide (l.top = 10)
      los := a.los || l.los, off := a.off || !c.rxEnabled n } }

/-- A defect trigger of the recorder lanes: DEF_UP with a new TOP between 1 and CODE on the watched lane (R289). -/
def Ctl.rlDefUp (n top : Nat) (c : Ctl) : Ctl :=
  [0, 1].foldl (fun c r =>
    if c.on (F.RL_TRIG_DEF_EN r) && c.get (F.RL_TRIG_LANE r) == n && decide (1 ≤ top ∧ top ≤ c.get (F.RL_TRIG_CODE r))
    then c.rlTrigger r 3 else c) c

/-- DECL and CLR as taken: DECL 0 is 1, and CLR at or above DECL is DECL − 1. -/
def declClr (decl clr : Nat) : Nat × Nat := let d := max 1 decl; (d, if d ≤ clr then d - 1 else clr)

/-- The counts of the next EXC window. -/
def Ctl.excSetting (c : Ctl) (n : Nat) : Nat × Nat := declClr (c.get (F.LRX_EXC_THR_DECL n)) (c.get (F.LRX_EXC_THR_CLR n))

/-- The counts of the next DEG window. -/
def Ctl.degSetting (c : Ctl) (n : Nat) : Nat × Nat := declClr (c.get (F.LRX_DEG_DECL_DECL n)) (c.get (F.LRX_DEG_CLR_CLR n))

/-- The frames of an EXC or DEG window as LRX_WIN gives it now (R116). -/
def Ctl.windowFrames (c : Ctl) (n : Nat) (deg : Bool) : Nat :=
  if deg then 8000 * min 10 (max 1 (c.get (F.LRX_WIN_DEG_WIN n))) else 80 * min 100 (max 1 (c.get (F.LRX_WIN_EXC_WIN n)))

/-- An EXC window starts at a moment, under the settings of that moment. -/
def Ctl.excWindow (c : Ctl) (n from_ : Nat) (l : LaneRx) : LaneRx :=
  let k := c.windowFrames n false
  { l with excCnt := 0, excSet := c.excSetting n, excLen := k, excEnd := from_ + k * ticksPerFrame }

/-- A DEG window starts at a moment, under the settings of that moment. -/
def Ctl.degWindow (c : Ctl) (n from_ : Nat) (l : LaneRx) : LaneRx :=
  let k := c.windowFrames n true
  { l with degCnt := 0, degSet := c.degSetting n, degLen := k, degEnd := from_ + k * ticksPerFrame }

/-- TOP is evaluated once on the detectors' result (R113): EXC, DEG and AUTH are held while it lies in 1 to 5 (R114, R163),
windows under the settings of that moment start when it leaves them (R114, R116),
events follow its moves, and the protection engine takes signal fail and signal degrade at once (R118). -/
def Ctl.evalTop (n : Nat) (c : Ctl) : Ctl :=
  if !c.rxEnabled n then c else
  let l := c.lrx n
  let old := l.top
  let holds := decide (1 ≤ l.lowest ∧ l.lowest ≤ 5)
  let l := if holds then { l with exc := false, deg := false, auth := false, excCnt := 0, degCnt := 0 }
    else if 1 ≤ old ∧ old ≤ 5 then c.degWindow n c.mtime (c.excWindow n c.mtime l) else l
  let new := l.lowest
  let wasFail := c.sourceFail n
  let c := c.setRx n { l with top := new }
  let c := if holds then c.setOh n { c.loh n with authBad := 0, authGood := 0 } else c
  let c := if wasFail != c.sourceFail n || (old == 9) != (new == 9) then c.laneChanged n else c
  let c := if new ≠ 0 ∧ (old = 0 ∨ new < old) then (c.raise (0x100 + n) 0 []).rlDefUp n new
    else if new ≠ old then c.raise (0x100 + n) 1 [] else c
  c.pmMark n

end Sys2Proof.Machine
end

