-- ==== Sys2Proof/Machine/LaneRx.lean ====
section
/-! DEFINITION. The receive lanes (Lane Alignment, Defects and Consequent Actions, R99 to R128): signal, CDR, equaliser, the
alignment hunt, the defects, the aligner and the lane bonds. -/

namespace Sys2Proof.Machine

/-- Units of 1/64 ns in a microsecond. -/
def us64 : Nat := 64000

/-- The command concerns an external lane whose receive side is enabled. -/
def Ctl.rxLane (c : Ctl) (n : Nat) (f : Ctl → Ctl) : Ctl := if n < 24 ∧ c.rxEnabled n then f c else c

/-- A lane that is not IN-FRAME any more leaves its bond and holds no multiframe alignment (R111, R125). -/
def LaneRx.outOfFrame (l : LaneRx) : LaneRx :=
  { l with inFrame := false, lof := true, mfAligned := false, fawErr := 0, mfRun := 0, mfErr := 0, lastXor := none
           aisUp := 0, aisDown := 0, rdiUp := 0, rdiDown := 0, joined := false, joining := false }

/-- The hunt restarts, discarding every candidate (R110). (DEDUCED: log entry 26.) -/
def LaneRx.restartHunt (l : LaneRx) : LaneRx :=
  { l.outOfFrame with cands := [], window := false, ambig := false }

/-- A multiframe in progress ends unfinished: nothing of it is kept (R92, R149, R162). A complete MOB that still awaits its judgement is dropped
with it, unjudged and uncounted, which the spec does not state (R161). (DEDUCED: log entries 26, 32.) -/
def LaneOh.dropMf (o : LaneOh) : LaneOh :=
  { o with mobBuf := [], mobRun := false, mfOpen := false, apsHeld := [], apsPassed := 0, mobDone := none, rxStamp := none, mismatched := false }

/-- A multiframe in progress ends unfinished, and the monitors that a lane's overhead feeds start afresh (R100, R103). (DEDUCED: log entry 26.) -/
def LaneOh.fresh (o : LaneOh) : LaneOh := { o.dropMf with timDiff := 0, timSame := 0, authBad := 0, authGood := 0 }

/-- The hunt of a lane restarts, and TOP is evaluated. -/
def Ctl.restartHunt (n : Nat) (c : Ctl) : Ctl :=
  ((c.setRx n (c.lrx n).restartHunt).setOh n (c.loh n).dropMf).evalTop n

/-! ### Input, CDR and equaliser (R101, R102, R112) -/

/-- The transmitter of a lane sends a signal (Table 4.5). -/
def Ctl.txLit (c : Ctl) (n : Nat) : Bool := (c.ltx n).source != 3

/-- The input rises above the LOS threshold. It is followed also while the receive side is powered down. In a terminal loop the input
is the lane's own transmitter (R131). -/
def signalRise (n : Nat) (c : Ctl) : Ctl :=
  if n < 24 ∧ (!(c.lrx n).looped || c.txLit n) then c.setRx n { c.lrx n with sig := true } else c

/-- The input falls below the LOS threshold. -/
def signalFall (n : Nat) (c : Ctl) : Ctl :=
  if n < 24 ∧ !((c.lrx n).looped && c.txLit n) then c.setRx n { c.lrx n with sig := false } else c

/-- LOS is declared: EQ_CONV clears and the hunt restarts (R101, R110, R112). -/
def losDeclare (n : Nat) (c : Ctl) : Ctl := c.rxLane n fun c =>
  if (c.lrx n).sig then c else (c.setRx n { c.lrx n with los := true, eqConv := false }).restartHunt n

/-- LOS clears (R112). (DESIGN CHOICE: log entry 5.) -/
def losClear (n : Nat) (c : Ctl) : Ctl := c.rxLane n fun c =>
  if (c.lrx n).sig then (c.setRx n { c.lrx n with los := false }).evalTop n else c

/-- The CDR achieves lock (R102). -/
def cdrLock (n : Nat) (c : Ctl) : Ctl := c.rxLane n fun c => c.setRx n { c.lrx n with cdr := true }

/-- The CDR loses lock (R102). -/
def cdrLockLoss (n : Nat) (c : Ctl) : Ctl := c.rxLane n fun c => c.setRx n { c.lrx n with cdr := false }

/-- LOL is declared and the hunt restarts (R110, R112). -/
def lolDeclare (n : Nat) (c : Ctl) : Ctl := c.rxLane n fun c =>
  if (c.lrx n).cdr then c else (c.setRx n { c.lrx n with lol := true }).restartHunt n

/-- LOL clears (R112). -/
def lolClear (n : Nat) (c : Ctl) : Ctl := c.rxLane n fun c =>
  if (c.lrx n).cdr then (c.setRx n { c.lrx n with lol := false }).evalTop n else c

/-- The equaliser converges on an input that is present: EQ_CONV is set and the eye openings are measured (R101). While FREEZE
is 1 nothing converges. -/
def eqConverge (n eyeV eyeH : Nat) (c : Ctl) : Ctl := c.rxLane n fun c =>
  if (c.lrx n).sig && !c.on (F.LRX_EQ_FREEZE n) then c.setRx n { c.lrx n with eqConv := true, eyeV, eyeH } else c

/-- Adaptation starts again: EQ_CONV clears (R101). -/
def eqRestart (n : Nat) (c : Ctl) : Ctl := c.rxLane n fun c => c.setRx n { c.lrx n with eqConv := false }

/-- The terminal loop is made in MAINTENANCE for a lane of the maintenance set (R131). -/
def Ctl.loopWanted (c : Ctl) (n : Nat) : Bool :=
  c.on (F.LRX_CTL_TERM_LOOP n) && c.mode == .maintenance && c.onBit F.TOP_MAINT_SET_LANES n

/-- The terminal loop follows its condition; a change that takes effect restarts the hunt of a lane that hunts (R103, R110, R131). -/
def Ctl.loopUpdate (n : Nat) (c : Ctl) : Ctl :=
  if c.loopWanted n == (c.lrx n).looped then c
  else (c.setRx n { c.lrx n with looped := c.loopWanted n }).when (c.rxEnabled n) (Ctl.restartHunt n)

/-- A write of TERM_LOOP. -/
def termLoopWrite (n : Nat) (on : Bool) (c : Ctl) : Ctl :=
  if n < 24 then (c.set (F.LRX_CTL_TERM_LOOP n) (b2n on)).loopUpdate n else c

/-- Every detector and monitor of a lane at its power-up state (R103). A member that is out of its bond stays so until it joins again
(R126). (DEDUCED: log entry 26.) -/
def LaneRx.powerUp (l : LaneRx) : LaneRx :=
  { sig := l.sig, rate := l.rate, looped := l.looped, dly := l.dly, arr := l.arr, bondOut := l.bondOut }

/-- A write of the LRX HDR_CTL.ENABLE (R103): 0 powers the receive side down with every monitor clear, and 1 starts it as at
power-up, with LOS, LOL and LOF present. -/
def rxEnableWrite (n : Nat) (on : Bool) (c : Ctl) : Ctl :=
  if 24 ≤ n then c
  else if on then
    if c.rxEnabled n then c
    else
      let c := c.set (F.HDR_CTL_ENABLE (0x100 + n)) 1
      ((c.setRx n { (c.lrx n).powerUp with top := 0 }).setOh n (c.loh n).fresh).evalTop n
  else
    let wasFail := c.sourceFail n
    let wasDeg := (c.lrx n).top == 9
    let c := c.set (F.HDR_CTL_ENABLE (0x100 + n)) 0
    let l := (c.lrx n).powerUp
    let c := (c.setRx n { l with los := false, lol := false, lof := false, top := 0 }).setOh n (c.loh n).fresh
    let c := if wasFail && !wasDeg then c else c.laneChanged n
    c.pmMark n

/-- A write of RATE is pending for the next multiframe boundary (R100). -/
def rateWrite (n rate : Nat) (c : Ctl) : Ctl := if n < 24 then c.set (F.LRX_CTL_RATE n) rate else c

/-- The multiframe boundary is the next system frame boundary. -/
def Ctl.mfEdge (c : Ctl) : Bool := (c.fnN + 1) % 32 == 0

/-- The lane changes rate in both directions at the multiframe boundary: the hunt restarts, the monitors start afresh and the
CDR is out of lock (R100). Groups whose lanes now have different rates are queued (R269). While the receive side is powered down, no
monitor shows a defect (R103). (DEDUCED: log entry 26.) -/
def rateChange (n : Nat) (c : Ctl) : Ctl :=
  if n < 24 ∧ c.mfEdge ∧ c.get (F.LRX_CTL_RATE n) ≠ (c.lrx n).rate then
    let l := c.lrx n
    let c := c.setRx n { ({ sig := l.sig, eqConv := l.eqConv, eyeV := l.eyeV, eyeH := l.eyeH, looped := l.looped, los := l.los
                            lol := l.lol, lof := c.rxEnabled n, top := l.top } : LaneRx) with
      rate := c.get (F.LRX_CTL_RATE n), dly := l.dly, arr := l.arr, bondOut := l.bondOut }
    (((c.setOh n (c.loh n).fresh).evalTop n).laneChanged n)
  else c

/-! ### The alignment hunt (R104 to R109) -/

/-- A candidate is confirmed by its third exact match (R105). -/
def Cand.confirmed (k : Cand) : Bool := decide (3 ≤ k.hits)

/-- The three MFI bytes count by one and start 0b000 (R107, R111). -/
def mfisCount : List Nat → Bool
  | [a, b, d] => decide (a < 32 ∧ b = (a + 1) % 32 ∧ d = (a + 2) % 32)
  | _ => false

/-- A confirmed candidate qualifies (R107). -/
def Cand.qualifies (k : Cand) : Bool := k.confirmed && mfisCount k.mfis && k.bips.all (· ≤ 1)

/-- A FAW position during the hunt (R104, R105): an exact match creates or carries on a candidate; a match that a candidate
needs and that is not exact discards it. The first confirmation opens a decision window (R106). (DESIGN CHOICE: log entry 16.) -/
def fawCandidateMatch (n pos : Nat) (exact : Bool) (mfi bip : Nat) (c : Ctl) : Ctl := c.rxLane n fun c =>
  let l := c.lrx n
  let pos := pos % (8 * frameBytes l.rate)
  if l.inFrame || !l.cdr then c
  else match l.cands.find? (·.pos == pos) with
    | some k =>
      if exact then
        let k' : Cand := { k with hits := k.hits + 1, mfis := lastN 3 (k.mfis ++ [mfi]), bips := lastN 2 (k.bips ++ [bip]) }
        c.setRx n { l with cands := l.cands.map (fun j => if j.pos == pos then k' else j), window := l.window || k'.confirmed }
      else c.setRx n { l with cands := l.cands.filter (·.pos != pos) }
    | none =>
      if !exact then c
      else if 8 ≤ l.cands.length then c.raise (0x100 + n) 6 []
      else c.setRx n { l with cands := l.cands ++ [⟨pos, 1, [mfi], []⟩] }

/-- The delay that an aligner chooses for an arrival (R121): in the range 2 µs to 127 µs, 1/64 ns. (DEDUCED: log entry 27.) -/
def alignDelay (phase : Nat) : Nat := let d := phase % (125 * us64); if d < 2 * us64 then d + 125 * us64 else d

/-- Four milliseconds in 1/64 ns. -/
def mf64 : Nat := 4000 * us64

/-- The arrival of the MFI-0 FAW of a lane whose frame with MFI `m` arrived `phase` before the next frame boundary, in 1/64 ns from the
system multiframe boundary. (DEDUCED: log entry 27.) -/
def Ctl.arrivalOf (c : Ctl) (m phase : Nat) : Nat := (((c.fnN + 1) % 32 + 64 - m % 32) * 125 * us64 - phase % (125 * us64)) % mf64

/-- The lane goes IN-FRAME on a candidate (R108, R109, R121): it keeps no candidates, chooses its delay, knows its arrival and counts the
MFI at entry as the first of a run (R111). (DEDUCED: log entry 27.) -/
def Ctl.enterFrame (n : Nat) (k : Cand) (phase : Nat) (c : Ctl) : Ctl :=
  let m := lget k.mfis (k.mfis.length - 1) 0xFF
  let c := c.setRx n { (c.lrx n).outOfFrame with
    inFrame := true, ambig := false, cands := [], window := false, mfi := m, mfRun := if m < 32 then 1 else 0
    dly := alignDelay phase, arr := c.arrivalOf m phase }
  ((c.setOh n (c.loh n).dropMf).raise (0x100 + n) 3 []).evalTop n

/-- A decision is taken (Table 4.1). -/
def decisionWindowClose (n phase : Nat) (c : Ctl) : Ctl := c.rxLane n fun c =>
  let l := c.lrx n
  if l.inFrame || !l.window then c
  else
    let conf := l.cands.filter Cand.confirmed
    let qual := conf.filter Cand.qualifies
    match conf, qual with
    | [], _ => c.setRx n { l with window := false, ambig := false }
    | [k], _ => c.enterFrame n k phase
    | _, [k] => c.enterFrame n k phase
    | _, [] => c.setRx n { l with cands := l.cands.filter (fun k => !k.confirmed), window := false, ambig := false }
    | _, _ =>
      let c := c.setRx n { l with cands := l.cands.filter (fun k => !k.confirmed || k.qualifies), ambig := true }
      (c.count (F.LRX_CNT_HUNT_AMBIG n) 1).raise (0x100 + n) 2 []

/-! ### Error-rate defects (R116) -/

/-- A window that has run its length ends: the defect clears when the count did not exceed CLR, and the next window follows without a gap
under new settings (R116). The monitors are held while TOP lies in 1 to 5 (R114). (DESIGN CHOICE: log entry 5.) -/
def errorWindowEnd (n : Nat) (deg : Bool) (c : Ctl) : Ctl := c.rxLane n fun c =>
  let l := c.lrx n
  if 1 ≤ l.top ∧ l.top ≤ 5 then c
  else if !c.dueBy (if deg then l.degEnd else l.excEnd) then c
  else if deg then
    ((c.advMoment l.degEnd).setRx n (c.degWindow n l.degEnd { l with deg := l.deg && decide (l.degSet.2 < l.degCnt) })).evalTop n
  else
    ((c.advMoment l.excEnd).setRx n (c.excWindow n l.excEnd { l with exc := l.exc && decide (l.excSet.2 < l.excCnt) })).evalTop n

/-! ### LOF, bonds (R112, R124 to R128) -/

/-- The bond of a lane, or 0 (R124). -/
def Ctl.bondOf (c : Ctl) (n : Nat) : Nat := let b := c.get (F.LRX_BOND_ID n); if 1 ≤ b ∧ b ≤ 12 then b else 0

/-- The members of a bond in increasing lane number. -/
def Ctl.bondMembers (c : Ctl) (b : Nat) : List Nat := (List.range 24).filter (fun n => c.bondOf n == b)

/-- The guard of a bond in 1/64 ns, from its lowest-numbered member (R124). -/
def Ctl.bondGuard (c : Ctl) (b : Nat) : Nat :=
  match c.bondMembers b with
  | [] => 0
  | n :: _ => min 60 (c.get (F.LRX_BOND_GUARD n)) * us64

/-- The lane's rate is that of the bond's lowest-numbered member (R124). -/
def Ctl.bondRateOk (c : Ctl) (b n : Nat) : Bool :=
  match c.bondMembers b with
  | [] => false
  | m :: _ => (c.lrx m).rate == (c.lrx n).rate

/-- The lead of an arrival over a reference: the signed time by which it is earlier, within ±2 ms (R125). -/
def leadOf (ref arr : Nat) : Int :=
  let d := (ref + mf64 - arr % mf64) % mf64
  if d ≤ mf64 / 2 then (d : Int) else (d : Int) - mf64

/-- The delay that a member has in its bond, in 1/64 ns (R125). (DEDUCED: log entry 27.) -/
def Ctl.bondDelay (c : Ctl) (b : Bond) (n : Nat) : Int := b.dly + leadOf b.refArr (c.lrx n).arr

/-- The delay lies between 2 µs and 240 µs (R126). -/
def joinable (d : Int) : Bool := decide (2 * us64 ≤ d ∧ d ≤ 240 * us64)

/-- A lane is out of bond and runs under R121 alone: its delay does not fit, or its rate is another (R124, R126). (DESIGN CHOICE: log entry 28.) -/
def Ctl.outOfBond (n : Nat) (c : Ctl) : Ctl :=
  (c.setRx n { c.lrx n with joined := false, joining := false, bondOut := true }).raise (0x100 + n) 5 []

/-- LOF clears after 1 ms IN-FRAME. The first member of a bond to clear LOF forms it (R125); a later one joins it when its delay
allows, and is out of bond otherwise (R126). (DESIGN CHOICE: log entry 5.) -/
def lofClear (n arr : Nat) (c : Ctl) : Ctl := c.rxLane n fun c =>
  let l := c.lrx n
  if !l.inFrame || !l.lof then c
  else
    let c := c.setRx n { l with lof := false, arr := arr % mf64 }
    let b := c.bondOf n
    let c :=
      if b = 0 then c
      else if !c.bondRateOk b n then c.outOfBond n
      else match tfind c.bonds b with
        | none =>
          let c := { c with bonds := tput c.bonds b ⟨arr % mf64, l.dly + c.bondGuard b, n⟩ }
          c.setRx n { c.lrx n with joining := true }
        | some d =>
          if joinable (c.bondDelay d n) then c.setRx n { c.lrx n with joining := true }
          else c.outOfBond n
    c.evalTop n

/-- At the first frame boundary after LOF clears the member takes its delay in the bond (R126). -/
def bondJoin (n : Nat) (c : Ctl) : Ctl := c.rxLane n fun c =>
  let l := c.lrx n
  if !l.joining then c
  else match tfind c.bonds (c.bondOf n) with
    | none => c.setRx n { l with joining := false }
    | some d => c.setRx n { l with joining := false, joined := true, bondOut := false, dly := (c.bondDelay d n).toNat }

/-- A reform of the bond is requested on a member (R128). On a lane in no bond the request reads 1 and nothing takes it: the spec does not
say when it returns to 0 there. (DESIGN CHOICE: log entry 28.) -/
def bondReformRequest (n : Nat) (c : Ctl) : Ctl := if n < 24 then c.set (F.LRX_BOND_REFORM n) 1 else c

/-- The delay that R121 gives a lane now, from its present phase. -/
def LaneRx.ownDelay (l : LaneRx) : Nat := alignDelay l.dly

/-- A member leaves the bond for its delay under R121, with a blank frame when that delay is another. (DESIGN CHOICE: log entry 28.) -/
def Ctl.leaveBond (n : Nat) (c : Ctl) : Ctl :=
  let l := c.lrx n
  (c.setRx n { l with slip := 0, dly := l.ownDelay, blank := l.blank || decide (l.ownDelay ≠ l.dly) }).outOfBond n

/-- A member takes part in a reform: its delay in the reformed bond, and a blank frame when the delay changes (R128). (DESIGN CHOICE: log entry 28.) -/
def Ctl.rejoin (b : Nat) (d : Bond) (c : Ctl) (n : Nat) : Ctl :=
  let l := c.lrx n
  let new := c.bondDelay d n
  let c := c.set (F.LRX_BOND_REFORM n) 0
  if !l.inFrame then c
  else if c.bondRateOk b n && joinable new then
    c.setRx n { l with joined := true, joining := false, bondOut := false, dly := new.toNat, slip := 0
                       blank := l.blank || decide (new.toNat ≠ l.dly) }
  else c.leaveBond n

/-- The later of two arrivals of a bond: the one whose lead over the reference is less (R128). -/
def laterArrival (ref : Nat) (c : Ctl) (a b : Nat) : Nat :=
  if leadOf ref (c.lrx b).arr < leadOf ref (c.lrx a).arr then b else a

/-- The bond is reformed at the multiframe boundary on the latest-arriving IN-FRAME member, or ceases when there is none
(R128). -/
def bondReform (b : Nat) (c : Ctl) : Ctl :=
  let ms := c.bondMembers b
  if b = 0 || 12 < b || !c.mfEdge || !ms.any (fun n => c.on (F.LRX_BOND_REFORM n)) then c
  else
    let up := ms.filter (fun n => (c.lrx n).inFrame && c.bondRateOk b n)
    match up with
    | [] =>
      let c := ms.foldl (fun c n => c.set (F.LRX_BOND_REFORM n) 0) c
      match ms.filter (fun n => (c.lrx n).inFrame) with
      | [] => { c with bonds := tdel c.bonds b }
      | l => l.foldl (fun c n => c.leaveBond n) c
    | n :: t =>
      let ref := match tfind c.bonds b with
        | some d => d.refArr
        | none => (c.lrx n).arr
      let last := t.foldl (laterArrival ref c) n
      let d : Bond := ⟨(c.lrx last).arr, (c.lrx last).ownDelay + c.bondGuard b, last⟩
      ms.foldl (Ctl.rejoin b d) { c with bonds := tput c.bonds b d }

/-! ### Wander and slips (R122, R125, R127), judged at a system frame boundary -/

/-- The member whose wander moves a bond's reference: the one that fixed it while it is joined, otherwise the lowest-numbered
joined member (R125). -/
def Ctl.bondLeader (c : Ctl) (b : Nat) (d : Bond) : Option Nat :=
  if (c.lrx d.refLane).joined && c.bondOf d.refLane == b then some d.refLane
  else (c.bondMembers b).find? (fun n => (c.lrx n).joined)

/-- The phase of a lane wanders: its frames arrive earlier by `w` (1/64 ns), so its delay rises by `w`. -/
def Ctl.wander (c : Ctl) (q : Nat × Int) : Ctl :=
  let n := q.1
  let w := q.2
  if !decide (n < 24) || !(c.lrx n).inFrame then c
  else
    let l := c.lrx n
    let arr := unsgnMod mf64 ((l.arr : Int) - w)
    let c := c.setRx n { l with dly := (l.dly + w).toNat, arr }
    let b := c.bondOf n
    match tfind c.bonds b with
    | some d =>
      if l.joined && c.bondLeader b d == some n then
        { c with bonds := tput c.bonds b { d with refArr := unsgnMod mf64 ((d.refArr : Int) - w), dly := (d.dly + w).toNat } }
      else c
    | none => c
where
  /-- An integer modulo a number. -/
  unsgnMod (m : Nat) (z : Int) : Nat := (z % (m : Int)).toNat

/-- A lane slips by one frame: 1 repeats, 2 deletes (R122). The slip is counted and raised. -/
def Ctl.slipLane (n kind : Nat) (c : Ctl) : Ctl :=
  let l := c.lrx n
  let c := c.setRx n { l with slip := kind, dly := if kind = 1 then l.dly + 125 * us64 else l.dly - 125 * us64 }
  let c := if kind = 1 then c.count (F.LRX_CNT_SLIP_REP n) 1 else c.count (F.LRX_CNT_SLIP_DEL n) 1
  let a := tget c.pmAcc n {}
  ({ c with pmAcc := tput c.pmAcc n { a with slips := a.slips + 1 } }).raise (0x100 + n) 4 []

/-- A lane slips when its delay leaves its bounds: 1 µs to 128 µs alone, 1 µs to 249 µs as a member, which then leaves its bond
(R122, R127). A member whose rate is not the bond's any more is out of bond (R124). (DESIGN CHOICE: log entry 28.) -/
def Ctl.laneSlip (c : Ctl) (n : Nat) : Ctl :=
  let l := c.lrx n
  if !l.inFrame then c
  else if l.joined then
    if l.dly < us64 ∨ 249 * us64 < l.dly then
      let c := c.slipLane n (if l.dly < us64 then 1 else 2)
      c.outOfBond n
    else if !c.bondRateOk (c.bondOf n) n then c.leaveBond n
    else c
  else if l.dly < us64 then c.slipLane n 1 else if 128 * us64 < l.dly then c.slipLane n 2 else c

/-- A bond slips as a whole when d_bond leaves 1 µs to 128 µs + GUARD (R127). -/
def Ctl.bondSlip (c : Ctl) (b : Nat) : Ctl :=
  match tfind c.bonds b with
  | none => c
  | some d =>
    let ms := (c.bondMembers b).filter (fun n => (c.lrx n).joined)
    if d.dly < us64 then
      ms.foldl (fun c n => c.slipLane n 1) { c with bonds := tput c.bonds b { d with dly := d.dly + 125 * us64 } }
    else if 128 * us64 + c.bondGuard b < d.dly then
      ms.foldl (fun c n => c.slipLane n 2) { c with bonds := tput c.bonds b { d with dly := d.dly - 125 * us64 } }
    else c

/-- The wander since the last boundary, and the slips it calls for. (DEDUCED: log entry 27.) -/
def Ctl.alignerBoundary (wanders : List (Nat × Int)) (c : Ctl) : Ctl :=
  let c := wanders.foldl Ctl.wander c
  let c := (List.range 13).foldl Ctl.bondSlip c
  (List.range 24).foldl Ctl.laneSlip c

end Sys2Proof.Machine
end

