-- ==== Sys2Proof/Machine/Ledger.lean ====
section
/-! DEFINITION. The accounts of the capacity ledger (R221 to R226): limits, claims and releases. -/

namespace Sys2Proof.Machine

/-- The limit of an account (Table 8.1): the CIP limit is quartered in BOOT, COMMISSION, MAINTENANCE and RECOVERY, and the CIP
and HLE limits read 0 until the first evaluation (R228). -/
def Ctl.acctLimit (c : Ctl) (acct : Nat) : Nat :=
  let ps := c.get F.MGN_PS_PS
  let quarter := c.mode != .active && c.mode != .standby
  if acct = 1 then 11468
  else if acct = 4 then 1500000
  else if c.on F.LGR_STAT_WAITING then 0
  else if acct = 2 then (let l := 800000 * ps / 1024; if quarter then l / 4 else l)
  else 327680 * ps / 1024

/-- The granted total of an account. -/
def Ctl.acctUsed (c : Ctl) (acct : Nat) : Nat := c.get (F.LGR_ACCT_USED_VALUE (acct - 1))

/-- An account is over (R225); none is until the first evaluation (R228). -/
def Ctl.acctOver (c : Ctl) (acct : Nat) : Bool :=
  !c.on F.LGR_STAT_WAITING && decide (c.acctLimit acct < c.acctUsed acct)

/-- Each account is judged over or not, and ACCT_OVER is raised when the state begins (R225). (DEDUCED: log entry 44.) -/
def Ctl.judgeOver (c : Ctl) : Ctl :=
  [1, 2, 3, 4].foldl (fun c a =>
    let was := c.onBit F.LGR_STAT_OVER (a - 1)
    let is := c.acctOver a
    (c.setBit F.LGR_STAT_OVER (a - 1) is).raiseIf (is && !was) 0x024 1) c

/-- A claim would be granted now (R223, R225). -/
def Ctl.claimFits (c : Ctl) (acct amount : Nat) : Bool := decide (c.acctUsed acct + amount ≤ c.acctLimit acct)

/-- A claim to the CIP or HLE account waits until the first evaluation (R228). -/
def Ctl.claimWaits (c : Ctl) (acct : Nat) : Bool := c.on F.LGR_STAT_WAITING && (acct == 2 || acct == 3)

/-- USED grows by a granted claim. -/
def Ctl.grant (acct amount : Nat) (c : Ctl) : Ctl := c.set (F.LGR_ACCT_USED_VALUE (acct - 1)) (c.acctUsed acct + amount)

/-- A claim is refused: REFUSE_ACCT records the account and CLAIM_REFUSED is raised (R223). -/
def Ctl.refuseClaim (acct : Nat) (c : Ctl) : Ctl := (c.set F.LGR_STAT_REFUSE_ACCT acct).raise 0x024 0 []

/-- A claim is judged: granted or refused. (DEDUCED: log entry 44.) -/
def Ctl.claim (acct amount : Nat) (c : Ctl) : Bool × Ctl :=
  if c.claimFits acct amount then (true, c.grant acct amount) else (false, c.refuseClaim acct)

/-- A release takes effect at once (R223). -/
def Ctl.release (acct amount : Nat) (c : Ctl) : Ctl :=
  (c.set (F.LGR_ACCT_USED_VALUE (acct - 1)) (c.acctUsed acct - amount)).judgeOver

/-- A software claim is granted or refused (R224), with its RESULT where it is the last write's. -/
def Ctl.softClaim (acct amount : Nat) (last : Bool) (c : Ctl) : Ctl :=
  let r := c.claim acct amount
  let t := if r.1 then
      r.2.set (F.LGR_ACCT_SW_VALUE (acct - 1)) (c.get (F.LGR_ACCT_SW_VALUE (acct - 1)) + amount)
    else r.2
  t.when last (Ctl.set F.LGR_CLAIM_STAT_RESULT (if r.1 then 1 else 2))

/-- Something waits for the first evaluation (R228). (DEDUCED: log entry 40.) -/
def Ctl.await (w : Waiting) (c : Ctl) : Ctl := { c with mgn := { c.mgn with waiting := c.mgn.waiting ++ [w] } }

/-- A claim of LGR_CLAIM that waits is no longer the last write of that register. -/
def Waiting.passed (w : Waiting) : Waiting := match w with
  | .claim acct amount _ => .claim acct amount false
  | w => w

/-- LGR_CLAIM is written: what waits from earlier writes leaves RESULT alone (LGR_CLAIM_STAT: the last write's). (DEDUCED: log entry 40.) -/
def Ctl.claimWritten (c : Ctl) : Ctl := { c with mgn := { c.mgn with waiting := c.mgn.waiting.map Waiting.passed } }

/-- A claim written to LGR_CLAIM (R223, R224, R228). -/
def ledgerClaim (acct amount : Nat) (c : Ctl) : Ctl :=
  let c := c.claimWritten
  if acct < 1 ∨ 4 < acct then c.set F.LGR_CLAIM_STAT_RESULT 3
  else if c.claimWaits acct then (c.await (.claim acct (amount % 2 ^ 24) true)).set F.LGR_CLAIM_STAT_RESULT 4
  else c.softClaim acct (amount % 2 ^ 24) true

/-- A release written to LGR_CLAIM: one larger than the software total sets that total to zero (R224). -/
def ledgerRelease (acct amount : Nat) (c : Ctl) : Ctl :=
  let c := c.claimWritten
  if acct < 1 ∨ 4 < acct then c.set F.LGR_CLAIM_STAT_RESULT 3
  else
    let sw := c.get (F.LGR_ACCT_SW_VALUE (acct - 1))
    let n := min (amount % 2 ^ 24) sw
    ((c.set (F.LGR_ACCT_SW_VALUE (acct - 1)) (sw - n)).release acct n).set F.LGR_CLAIM_STAT_RESULT 1

/-- A write of LGR_CLAIM. -/
def ledgerWrite (w : Word) (c : Ctl) : Ctl :=
  if bit w.toNat 31 then ledgerClaim (wGet w 26 24) (wGet w 23 0) c else ledgerRelease (wGet w 26 24) (wGet w 23 0) c

/-- The assembly time of a page of reference time `a` at planning speed `ps`, in units of 10 ns, saturating (R226). -/
def asmTime (a ps : Nat) : Nat := if ps = 0 then 0xFFFF else min 0xFFFF ((a * 1024 + ps * 100000 - 1) / (ps * 100000))

/-- A_ref in units of 10 ns, rounded up, saturating. -/
def refUnits (a : Nat) : Nat := min 0xFFFF ((a + 99999) / 100000)

/-- The reference assembly time of a page (R226): assembled slots, selector reads, data-memory reads, hottest sub-bank. -/
def refTime (n s d h : Nat) : Nat := 28000000 + max (32 * n + 40 * s + 48 * d) (16000 * h)

/-- An evaluation is triggered (R236). -/
def Ctl.evalTrigger (c : Ctl) : Ctl := { c with mgn := { c.mgn with evalDue := c.mgn.evalDue + 1 } }

/-- A seal has its verdict: what its scan found is shown (R206, R207). -/
def Ctl.scanShown (q : SealScan) (c : Ctl) : Ctl :=
  c.sets [(F.CMP_STAT_STATE, 2), (F.CMP_FP_STBY_FP, q.fp), (F.CMP_SEAL_SELRD_READS, q.selReads), (F.CMP_SEAL_DM_READS, q.dmReads),
    (F.CMP_SEAL_HOTBANK_SUBBANK, q.hotBank), (F.CMP_SEAL_HOTRD_READS, q.hotReads), (F.CMP_CNT_SEALS, c.get F.CMP_CNT_SEALS + 1)]

/-- The ledger gives a page without malformation the verdict OVERLOAD or ACCEPT, at PS and CEIL as they stand (R227). -/
def Ctl.ledgerVerdict (q : SealScan) (c : Ctl) : Ctl :=
  let a := refTime q.slots q.selReads q.dmReads q.hotReads
  let asm := asmTime a (c.get F.MGN_PS_PS)
  let ceil := c.get F.LGR_ASM_CEIL_CEIL
  let c := (c.scanShown q).sets [(F.CMP_SEAL_BAD_COUNT, 0), (F.CMP_SEAL_BAD_REASON, 0), (F.CMP_SEAL_LOC_VALID, 0),
    (F.CMP_SEAL_LOC_SEL, 0), (F.CMP_SEAL_LOC_LOC, 0), (F.CMP_SEAL_ASM_CEIL, ceil), (F.CMP_SEAL_ASM_ASM, asm)]
  if ceil < asm then ((c.set F.CMP_STAT_VERDICT 2).set F.LGR_STAT_REFUSE_ACCT 0).raise 0x021 1 []
  else
    let c := (c.set F.CMP_STAT_VERDICT 1).set F.LGR_ASM_STBY_REF (refUnits a)
    { c with mgn := { c.mgn with refStby := some a } }.evalTrigger.raise 0x021 0 []

end Sys2Proof.Machine
end

