-- ==== Sys2Proof/Machine/Run.lean ====
section
/-! DEFINITION. What every command shares: how a meaning is made from an effect, the answer of an access, the default target
(R25, R429, R530), changes of mode (R31, R37) and RECOVERY (R41, R65). -/

namespace Sys2Proof.Machine

/-! ### Meanings from effects -/

/-- The state after an effect: a command that acts while its condition holds, after which the performance counters settle. (DESIGN CHOICE: log entries 2, 5.) -/
def runIf (p : Bool) (f : State → State) (s : State) : Host.Outcome State Fault Refusal :=
  .next (if p then (f s).mapCtl (Ctl.settle s.ctl) else s)

/-- The meaning of a command that acts on registers and control state whenever the device is out of reset. (DESIGN CHOICE: log entry 2.) -/
def onCtl (f : Ctl → Ctl) (s : State) : Host.Outcome State Fault Refusal := runIf s.ctl.live (State.mapCtl f) s

/-- The meaning of a command that acts on registers and control state while system timing runs. (DESIGN CHOICE: log entry 2.) -/
def onTimed (f : Ctl → Ctl) (s : State) : Host.Outcome State Fault Refusal := runIf s.ctl.timed (State.mapCtl f) s

/-- The meaning of a command that acts on several layers whenever the device is out of reset. -/
def onState (f : State → State) (s : State) : Host.Outcome State Fault Refusal := runIf s.ctl.live f s

/-- The meaning of a command that acts on several layers while system timing runs. -/
def onStateTimed (f : State → State) (s : State) : Host.Outcome State Fault Refusal := runIf s.ctl.timed f s

/-! ### Answers and the default target -/

/-- The access is answered with data (0 for a write). -/
def Ctl.answers (v : Nat) (c : Ctl) : Ctl := { c with answer := .data v }

/-- The code of an access size in bytes (MTX_DT_LAST_INFO.SIZE). -/
def sizeCode (size : Nat) : Nat := if size = 1 then 0 else if size = 2 then 1 else if size = 4 then 2 else 3

/-- An access completes with an error response, and the default target logs it with its CAUSE (R25, R429, R530): the first
record stays until MTX_DT_CLR. -/
def Ctl.dtError (m addr size : Nat) (write : Bool) (cause : Nat) (c : Ctl) : Ctl :=
  let info := BitVec.ofNat 32 (2 ^ 31 + b2n write * 2 ^ 30 + sizeCode size * 2 ^ 28 + (m % 16) * 2 ^ 24 + cause % 4)
  let a := BitVec.ofNat 32 addr
  let c := if c.on F.MTX_DT_FIRST_INFO_VALID then c
    else (c.setReg R.MTX_DT_FIRST_ADDR a).setReg R.MTX_DT_FIRST_INFO info
  let c := ((c.setReg R.MTX_DT_LAST_ADDR a).setReg R.MTX_DT_LAST_INFO info).count F.MTX_DT_CNT_VALUE 1
  { (c.occ 0xC1 1).raise 0x04B 0 [] with answer := .error }

/-- An access of a core that ended with an error response: it is counted (Table 16.3), and the core takes the access fault (R418). (DESIGN CHOICE: log entry 12.) -/
def Ctl.coreError (m addr : Nat) (u : PmpUse) (pc : Option Word) (c : Ctl) : Ctl :=
  if m < 4 then (c.occ (0x98 + m) 1).accessFault m addr u pc else c

/-- What an access of a master does once it is made: an error response to a core faults the core (R418). (DESIGN CHOICE: log entry 12.) -/
def answered (m addr : Nat) (write : Bool) (f : State → State) (s : State) : State :=
  let t := f { s with ctl := { s.ctl with answer := .none } }
  match t.ctl.answer with
  | .error => t.mapCtl (Ctl.coreError m addr (if write then .store else .load) none)
  | .none => { t with ctl := { t.ctl with answer := s.ctl.answer } }
  | _ => t

/-- A core makes the access of an instruction that is not brought, which its protection does not permit or which is misaligned: it takes the
exception at an address that is not stated, and makes no access (R418). -/
def Ctl.coreBarred (m addr cause : Nat) (c : Ctl) : Ctl := (c.takeFree 32).2.exception m cause (c.takeFree 32).1 (addr % 2 ^ 32)

/-- A command that is an access of a master. A master that issues no accesses makes none; a core that WFI held goes on; and a core's
access that is misaligned or not permitted raises its exception in place of the access (R416 to R418, R303). (DESIGN CHOICE: log entry 12.) -/
def gated (m addr size : Nat) (write : Bool) (f : State → State) (s : State) : State :=
  let u : PmpUse := if write then .store else .load
  if !s.ctl.issues m then s
  else if 4 ≤ m then f s
  else
    let s := s.mapCtl (Ctl.wakeCore m)
    if size ≤ 4 ∧ addr % max 1 size ≠ 0 then s.mapCtl (Ctl.coreBarred m addr u.misaligned)
    else if !(s.ctl.hart m).pmpPermits u addr size then s.mapCtl (Ctl.coreBarred m addr u.fault)
    else f s

/-- A core issues at most 32 bits: a wider access of a core to an address that exists is refused with CAUSE 2 (R428, R530). -/
def issued (m addr size : Nat) (write present : Bool) (f : State → State) (s : State) : State :=
  if m < 4 && decide (4 < size) && present then s.mapCtl (Ctl.dtError m addr size write 2) else f s

/-- A command that is an access of `size` bytes of a master. -/
def asAccess (m addr size : Nat) (write : Bool) (f : State → State) (s : State) : State :=
  gated m addr size write (answered m addr write f) s

/-- A register command of a master: the register pages accept the cores and the host bridge only, and an access of any other master is
refused with CAUSE 3 (R480). (DEDUCED: log entry 73.) -/
def byMaster (m a : Nat) (write : Bool) (f : State → State) (s : State) : State :=
  if m < 5 then asAccess m (0x20000000 + a) 4 write f s else s.mapCtl (Ctl.dtError m (0x20000000 + a) 4 write 3)

/-! ### Modes (R31 to R44, R65) -/

/-- Groups that use a lane of a set, queued in one event (R269). (DESIGN CHOICE: log entry 25.) -/
def Ctl.lanesChanged (lanes : Nat) (c : Ctl) : Ctl :=
  c.queueGroups (fun _ g => (setBits 24 lanes).any (fun n => c.groupUses n g)) 31

/-- An unused allowance of ARM lapses when the mode in which it was granted is left (R334). -/
def Ctl.lapseArm (isB : Bool) (c : Ctl) : Ctl :=
  let d := c.tb.dom isB
  { c with tb := c.tb.setDom isB { d with armed := d.armed && decide (d.armMode = c.mode) } }

/-- The mode and the service role change; what a mode holds is taken up and given up (R40, R59, R131, R195, R334), and
MODE_CHANGE is raised when either of them changes (R66). (DESIGN CHOICE: log entry 25.) -/
def Ctl.setMode (m : Mode) (r : SvcRole) (c : Ctl) : Ctl :=
  let old := c.mode
  let changed := old != m || c.svc != r
  let c := { c with mode := m, svc := r, leftBoot := c.leftBoot || (old == Mode.boot && m != Mode.boot) }
  let c := (c.lapseArm false).lapseArm true
  let c := if old == Mode.maintenance && m != Mode.maintenance then
      let set := c.get F.TOP_MAINT_SET_LANES
      ((c.set F.TOP_MAINT_SET_LANES 0).set F.XCC_INJ_ARM 0).lanesChanged set
    else if old != Mode.maintenance && m == Mode.maintenance then
      let set := c.get F.TOP_MAINT_LANES_LANES
      (c.set F.TOP_MAINT_SET_LANES set).lanesChanged set
    else c
  let c := (List.range 24).foldl (fun c n => c.loopUpdate n) c
  c.judgeOver.raiseIf changed 0x000 0

/-- A refused request for a mode (R35, R38). -/
def Ctl.modeRefused (code : Nat) (c : Ctl) : Ctl := (c.set F.TOP_MODE_STAT_REFUSE code).raise 0x000 1 []

/-- What waits is a seal. -/
def Waiting.isSeal (w : Waiting) : Bool := match w with
  | .seal _ => true
  | _ => false

/-- A seal in progress is abandoned (R204), and none waits for the ledger any longer. (DEDUCED: log entry 40.) -/
def Ctl.abandonSeal (c : Ctl) : Ctl :=
  if c.get F.CMP_STAT_STATE = 1 then
    ({ c with mgn := { c.mgn with waiting := c.mgn.waiting.filter fun w => !w.isSeal } }.set F.CMP_STAT_STATE 0).set
      F.CMP_STAT_SEAL_ABORTED 1
  else c

/-- A pending or requested swap is refused with a RESULT (R210). -/
def Ctl.swapRefused (result : Nat) (c : Ctl) : Ctl :=
  ({ c with swap := none }.sets [(F.CMP_STAT_SWAP_PENDING, 0), (F.CMP_SWAP_STAT_RESULT, result)]).raise 0x021 3 []

/-- The mate has delivered a pennant within the preceding 2 ms (R43). -/
def Ctl.mateFresh (c : Ctl) : Bool :=
  match c.lastPennant with
  | some t => decide (c.mtime - t ≤ 409600)
  | none => false

/-- RECOVERY is entered (R39, R41, R43, R217, R376). (DEDUCED: log entry 24.) -/
def Ctl.enterRecovery (c : Ctl) : Ctl :=
  let c := if c.modePend.isSome then { c with modePend := none }.modeRefused 1 else c
  let c := if c.swap.isSome then c.swapRefused 8 else c
  let c := (c.abandonSeal).setMode .recovery c.svc
  let clear := c.pairEn && c.mateFresh
  let c := if clear && c.activeFlag then c.byeSend ((c.fnN / 32 + 1) * 32) else c
  { c with recovFlagClear := clear, life := { c.life with recoveries := c.life.recoveries + 1 } }.raise 0x000 2 []

/-- A fault is recorded on a page (R65, R479). -/
def Ctl.recordFault (page faultBit : Nat) (c : Ctl) : Ctl :=
  let w := BitVec.ofNat 32 (2 ^ 31 + 2 ^ faultBit)
  let c := c.setReg (R.HDR_FAULT page) (c.reg (R.HDR_FAULT page) ||| w)
  (c.setReg (R.HDR_FAULT 0) (c.reg (R.HDR_FAULT 0) ||| w)).raise 0x000 3 []

/-- A trigger of Table 2.3 that arises on a page: RECOVERY is entered from the service modes, a cause bit is added in RECOVERY,
and in BOOT and COMMISSION the fault is recorded (R41, R65). -/
def Ctl.trigger (page causeBit : Nat) (c : Ctl) : Ctl :=
  let cause := c.setBit F.TOP_RECOV_CAUSE_CAUSE causeBit true
  if c.mode.inService then cause.enterRecovery
  else if c.mode == .recovery then cause
  else c.recordFault page causeBit

end Sys2Proof.Machine
end

