-- ==== Sys2Proof/Machine/Memory.lean ====
section
/-! DEFINITION. The addressed memories: bytes, the LPDDR4X lines with their poison (R433), the life record and the scratchpad's
parity (R421). -/

namespace Sys2Proof.Machine

/-! ### Bytes -/

/-- `n` bytes of a memory from `a`. (DESIGN CHOICE: log entry 3.) -/
def tbytes (t : Tbl Byte) (a n : Nat) : List Byte := (List.range n).map (fun i => tget t (a + i) 0)

/-- Bytes stored in a memory from `a`; the canonical form lists no byte 0. -/
def tputBytes : Tbl Byte → Nat → List Byte → Tbl Byte
  | t, _, [] => t
  | t, a, b :: l => tputBytes (tputD t a b 0) (a + 1) l

/-! ### LPDDR4X (R29, R432 to R436) -/

/-- The fitted capacity in bytes, 0 when it is not known (MEM_STAT.CAP). -/
def Ctl.ddrCap (c : Ctl) : Nat :=
  if c.get F.MEM_STAT_CAP = 1 then 2 ^ 32 else if c.get F.MEM_STAT_CAP = 2 then 2 ^ 33 else 0

/-- The bytes that the LPDDR4X windows reach: all but the parity region in the top 1/64 (R29). -/
def Ctl.ddrTop (c : Ctl) : Nat := c.ddrCap - c.ddrCap / 64

/-- An engine's or master's access to LPDDR4X bytes is possible: the controller is ready and the bytes exist (R432, R436). -/
def Ctl.ddrOk (c : Ctl) (a n : Nat) : Bool := c.on F.MEM_STAT_READY && decide (a + n ≤ c.ddrTop)

/-- The lines that a range of bytes touches. -/
def ddrLines (a n : Nat) : List Nat := if n = 0 then [] else (List.range ((a + n - 1) / 64 + 1 - a / 64)).map (a / 64 + ·)

/-- A read of a range returns poisoned data (R434). -/
def Mem.poisoned (m : Mem) (a n : Nat) : Bool := (ddrLines a n).any (fun i => m.poison.contains i)

/-- A line index joins a strictly rising list. (DEDUCED: log entry 62.) -/
def linePut : List Nat → Nat → List Nat
  | [], i => [i]
  | k :: t, i => if i < k then i :: k :: t else if i = k then k :: t else k :: linePut t i

/-- Strictly rising, from above a bound. -/
def risingFrom : Option Nat → List Nat → Bool
  | _, [] => true
  | none, k :: t => risingFrom (some k) t
  | some b, k :: t => decide (b < k) && risingFrom (some k) t

/-- The canonical form of the addressed memories: addresses strictly rise, no listed byte is the 0 that an unlisted one reads as, and the
poisoned lines are listed in strictly rising order. -/
def Memory.wf (m : Mem) : Bool :=
  twf m.spad 0 && twf m.sram 0 && twf m.lmem 0 && twf m.ddr 0 && twf m.mram 0 && risingFrom none m.poison

/-- A line is written whole by a range of bytes. -/
def wholeLine (a n i : Nat) : Bool := decide (a ≤ 64 * i ∧ 64 * i + 64 ≤ a + n)

/-- A write: a line written whole carries fresh parity, and a poisoned line written in part stays poisoned (R433). -/
def Mem.ddrWrite (a : Nat) (l : List Byte) (m : Mem) : Mem :=
  { m with ddr := tputBytes m.ddr a l
           poison := m.poison.filter (fun i => !wholeLine a l.length i) }

/-- The odd parity of bit `j` of 8 bytes in steps of 8, from byte `j` on: the parity bit over bytes j, j + 8, … j + 56 of a line (R433). -/
def parityBit (m : Tbl Byte) (i j : Nat) : Bool :=
  ((List.range 8).map fun k => popCount 8 (tget m (64 * i + j + 8 * k) 0).toNat).sum % 2 == 0

/-- The parity byte that the parity region holds for a line: the odd parity of its bytes as they stand, which every write renews, with
every bit complemented in a line that was left poisoned (R433). -/
def Mem.parityByte (m : Mem) (i : Nat) : Nat := maskOf 8 fun j => parityBit m.ddr i j != m.poison.contains i

/-- A line read now fails its parity: some bit of the byte held is not the odd parity of its bytes (R433, R434). -/
def Mem.parityFails (m : Mem) (i : Nat) : Bool := (List.range 8).any fun j => bit (m.parityByte i) j != parityBit m.ddr i j

/-- A line is left poisoned. -/
def Mem.poisonLine (i : Nat) (m : Mem) : Mem := { m with poison := linePut m.poison i }

/-- A poisoned read counts, is recorded and raises MEM_POISON (R434). -/
def Ctl.memPoison (m a : Nat) (c : Ctl) : Ctl :=
  let info := 2 ^ 31 + (m % 16) * 2 ^ 24 + bits a 34 32
  (((c.count F.MEM_CNT_POISON_COUNT 1).setReg R.MEM_POISON_ADDR (BitVec.ofNat 32 a)).setReg R.MEM_POISON_INFO
    (BitVec.ofNat 32 info)).raise 0x04C 1 []

/-- Line reads and writes are counted for a write: a line written in part is read first (R433, Table 16.3). -/
def Ctl.ddrWrote (a n : Nat) (c : Ctl) : Ctl :=
  (c.occ 0x0E (ddrLines a n).length).occ 0x0D ((ddrLines a n).filter fun i => !wholeLine a n i).length

/-- An engine's access that no memory answers reaches the default target (R25, R29, R429, R530); an LPDDR4X byte goes by its offset. (DESIGN CHOICE: log entry 63.) -/
def Ctl.engineMiss (m a size : Nat) (write : Bool) (c : Ctl) : Ctl := { (c.busAccess m).dtError m a size write 0 with answer := c.answer }

/-- The bytes of an LPDDR4X transfer that exist: those below the parity region (R29). -/
def Ctl.ddrPart (c : Ctl) (a n : Nat) : Nat := min n (c.ddrTop - a)

/-- The accesses of an engine's LPDDR4X transfer are counted, and those to bytes that do not exist reach the default target (R29). -/
def Ctl.ddrAccesses (m a n : Nat) (write : Bool) (c : Ctl) : Ctl :=
  (accessesOf n a n).foldl (fun c q => if q.1 < c.ddrTop then c.busAccess m else c.engineMiss m q.1 q.2 write) c

/-- The parity failures that touch LPDDR4X lines of a range. -/
def ddrFaults (fs : List ParityFault) (a n : Nat) : List Bool :=
  fs.filterMap fun f => match f with
    | .ddr i fail => if (ddrLines a n).contains i then some fail else none
    | _ => none

/-- An LPDDR4X read fails parity: a replay passes, or the data is returned poisoned (R434). (DEDUCED: log entry 62.) -/
def Ctl.ddrParity (m a : Nat) (fail : Bool) (c : Ctl) : Ctl :=
  if fail then c.memPoison m a else ((c.occ 0x03 1).count F.MEM_CNT_REP_COUNT 1).raise 0x04C 0 []

/-- The read that a partial write makes of a line: a read that stays poisoned leaves the line poisoned (R433, R434). (DEDUCED: log entry 62.) -/
def mergeLine (m : Nat) (fs : List ParityFault) (s : State) (i : Nat) : State :=
  if s.mem.poison.contains i then s.mapCtl (Ctl.memPoison m (64 * i))
  else
    let hits := ddrFaults fs (64 * i) 64
    let s := s.mapCtl fun c => hits.foldl (fun c f => c.ddrParity m (64 * i) f) c
    if hits.any id then { s with mem := s.mem.poisonLine i } else s

/-- Bytes written to LPDDR4X for a master: a line written in part is read and merged, and a line written whole is fresh (R433). (DEDUCED: log entry 62.) -/
def State.ddrStore (m b : Nat) (l : List Byte) (fs : List ParityFault) (s : State) : State :=
  let part := (ddrLines b l.length).filter fun i => !wholeLine b l.length i
  let s := part.foldl (mergeLine m fs) s
  { s with mem := s.mem.ddrWrite b l }.mapCtl (Ctl.ddrWrote b l.length)

/-- An engine writes LPDDR4X. A controller that is not ready loses the write, and so are the bytes that do not exist (R29, R432). (DESIGN CHOICE: log entry 63.) -/
def engineWrite (m a : Nat) (l : List Byte) (fs : List ParityFault) (s : State) : State :=
  if !s.ctl.on F.MEM_STAT_READY then s
  else (s.mapCtl (Ctl.ddrAccesses m a l.length true)).ddrStore m a (l.take (s.ctl.ddrPart a l.length)) fs

/-! ### Scratchpad and working SRAM parity (R421) -/

/-- A read that failed parity: its replay passed, or it failed after replay. -/
def Ctl.spmParity (m addr : Nat) (fail : Bool) (c : Ctl) : Ctl :=
  let c := c.occ 0x03 (b2n !fail)
  if fail then
    (((c.count F.SPM_PAR_CNT_FAIL 1).setReg R.SPM_PAR_LAST (BitVec.ofNat 32 addr)).setReg R.SPM_PAR_LAST_M
      (BitVec.ofNat 32 (2 ^ 31 + m % 16))).raise 0x049 1 []
  else (c.count F.SPM_PAR_CNT_REP 1).raise 0x049 2 []

/-- The scratchpad parity failures that fall in a range: offset, and whether the replay fails. -/
def spadHits (fs : List ParityFault) (a n : Nat) : List (Nat × Bool) :=
  fs.filterMap fun f => match f with
    | .spad o fail => if a ≤ o ∧ o < a + n then some (o, fail) else none
    | _ => none

/-- Whether each of them persists after its replay. -/
def spadFaults (fs : List ParityFault) (a n : Nat) : List Bool := (spadHits fs a n).map Prod.snd

/-- A free value of 64 bits for each 8-byte word of a list. -/
def Ctl.freeWords (ws : List Nat) (c : Ctl) : Tbl Nat × Ctl :=
  ws.foldl (fun r w => let v := r.2.takeFree 64; (tput r.1 w v.1, v.2)) ([], c)

/-- The bytes of the scratchpad (Table 1.5). -/
def spadBytes : Nat := 2 ^ 22

/-- The event engine's accesses to scratchpad offsets; those past the 4 MB reach the default target (R24, R25). -/
def Ctl.eveAccesses (a n : Nat) (write : Bool) (c : Ctl) : Ctl :=
  (accessesOf n a n).foldl
    (fun c q => if q.1 < spadBytes then c.bankAccess 11 q.1 else c.engineMiss 11 (0x10000000 + q.1) q.2 write) c

/-- The event engine reads scratchpad bytes; what it takes for an 8-byte word whose read comes back poisoned or ends with an error is
free, since no rule gives it (R421). (DESIGN CHOICE: log entries 63, 67.) -/
def eveRead (fs : List ParityFault) (a n : Nat) (s : State) : List Byte × State :=
  let hits := (spadHits fs a n).filter fun h => decide (h.1 < spadBytes)
  let c := hits.foldl (fun c h => c.spmParity 11 (0x10000000 + h.1) h.2) (s.ctl.eveAccesses a n false)
  let past := ((accessesOf n a n).filter fun q => decide (spadBytes ≤ q.1)).map fun q => q.1 / 8
  let r := c.freeWords (((hits.filter Prod.snd).map fun h => h.1 / 8) ++ past)
  let byte (k : Nat) : Byte := match tfind r.1 (k / 8) with
    | some v => BitVec.ofNat 8 (v / 256 ^ (k % 8))
    | none => tget s.mem.spad k 0
  ((List.range n).map fun k => byte (a + k), { s with ctl := r.2 })

/-- Scratchpad bytes are written. -/
def Mem.spadWrite (a : Nat) (l : List Byte) (m : Mem) : Mem := { m with spad := tputBytes m.spad a l }

/-- The event engine writes scratchpad bytes; those past the 4 MB are lost (R25). (DESIGN CHOICE: log entries 63, 67.) -/
def State.eveWrite (a : Nat) (l : List Byte) (s : State) : State :=
  { s with mem := s.mem.spadWrite a (l.take (spadBytes - a)) }.mapCtl (Ctl.eveAccesses a l.length true)

/-! ### The life record (R467, Table 16.5) -/

/-- A byte of the life record. (DESIGN CHOICE: log entry 3.) -/
def Mem.mramByte (m : Mem) (a : Nat) : Byte := (tfind m.mram a).getD (if a < 4096 then Config.identityByte a else 0)

/-- Bytes of the life record. -/
def Mem.mramBytes (m : Mem) (a n : Nat) : List Byte := (List.range n).map (fun i => m.mramByte (a + i))

/-- Bytes written to the life record. Its canonical form lists no byte 0 above the identity area; the device writes nothing
below. -/
def Mem.mramWrite (a : Nat) (l : List Byte) (m : Mem) : Mem := if a < 4096 then m else { m with mram := tputBytes m.mram a l }

end Sys2Proof.Machine
end

