-- ==== Sys2Proof/Machine/Pages.lean ====
section
/-! DEFINITION. The connection pages and selector tables: their windows, marks, copies, seals and swaps (R177 to R181, R189 to
R193, R198 to R217). -/

namespace Sys2Proof.Machine

/-! ### Entries and selectors (R177 to R182) -/

/-- The value of an entry that a page does not list (R179). -/
def aisEntry : Nat := 0xC0000000

/-- The key of an output slot. -/
def slotKey (lane slot : Nat) : Nat := lane * 2 ^ 18 + slot

/-- The slots of a lane in the slot space (R168). -/
def laneSlots : Nat := 159000

/-- An entry of a page. -/
def PageSet.entry (p : PageSet) (k : Nat) : Nat := tget p.entries k aisEntry

/-- A selector of a table. -/
def PageSet.selector (p : PageSet) (i : Nat) : Nat := tget p.sels i 0

/-- TYPE of an entry: 0 DIRECT, 1 SELECT, 2 CONST, 3 AIS. -/
def entryType (v : Nat) : Nat := bits v 31 30

/-- HOLD of an entry. -/
def entryHold (v : Nat) : Bool := bit v 29

/-- A source as lane and slot, from the low 23 bits of a number. -/
def sourceOf (v : Nat) : Nat × Nat := (bits v 22 18, bits v 17 0)

/-- The selector index of a SELECT entry. -/
def entrySel (v : Nat) : Nat := bits v 17 0

/-- The working source of a selector (Table 6.4). -/
def selWork (v : Nat) : Nat × Nat := sourceOf v

/-- The protection source of a selector. -/
def selProt (v : Nat) : Nat × Nat := sourceOf (v / 2 ^ 23)

/-- The group of a selector. -/
def selGroup (v : Nat) : Nat := bits v 61 46

/-- INVERT_SENSE of a selector. -/
def selInvert (v : Nat) : Bool := bit v 62

/-- The data-memory word of an input slot (R173). -/
def dmWord (src : Nat × Nat) : Nat := 19875 * src.1 + src.2 / 8

/-- The ACTIVE set. -/
def Xc.active (x : Xc) : PageSet := if x.act1 then x.set1 else x.set0

/-- The STANDBY set. -/
def Xc.standby (x : Xc) : PageSet := if x.act1 then x.set0 else x.set1

/-- Change the ACTIVE set's marks or contents. -/
def Xc.setActive (p : PageSet) (x : Xc) : Xc := if x.act1 then { x with set1 := p } else { x with set0 := p }

/-- Change the STANDBY set. -/
def Xc.setStandby (p : PageSet) (x : Xc) : Xc := if x.act1 then { x with set0 := p } else { x with set1 := p }

/-- The side that a flag names: ACTIVE or STANDBY. -/
def Xc.side (x : Xc) (act : Bool) : PageSet := if act then x.active else x.standby

/-- Change a side. -/
def Xc.setSide (act : Bool) (p : PageSet) (x : Xc) : Xc := if act then x.setActive p else x.setStandby p

/-! ### Bad marks (R189 to R193) -/

/-- A record of the bad log (XCC_BADLOG_i). -/
def Ctl.badLog (sel act : Bool) (loc : Nat) (c : Ctl) : Ctl :=
  let n := c.get F.XCC_BADLOG_STAT_N
  if 64 ≤ n then c.set F.XCC_BADLOG_STAT_OVF 1
  else (c.setReg (R.XCC_BADLOG n) (BitVec.ofNat 32 (2 ^ 31 + b2n sel * 2 ^ 30 + b2n act * 2 ^ 29 + loc % 2 ^ 23))).set
    F.XCC_BADLOG_STAT_N (n + 1)

/-- XCC_BAD counts the marks of the ACTIVE side; reaching 65 entries is a RECOVERY trigger (R191, R192). -/
def State.countBad (s : State) : State :=
  let p := s.xc.active
  let n := min 65535 p.badE.length
  s.mapCtl fun c =>
    let was := c.get F.XCC_BAD_ENTRY
    let c := c.sets [(F.XCC_BAD_ENTRY, n), (F.XCC_BAD_SEL, min 65535 p.badS.length)]
    c.when (decide (was < 65 ∧ 65 ≤ n)) (Ctl.trigger 0x020 0)

/-- A slot of the output frame being assembled carries 0xFF. -/
def Dp.asmOff (k : Nat) (d : Dp) : Dp :=
  let p := tget d.asm (k / 2 ^ 18) (payFill 0xFF)
  { d with asm := tputD d.asm (k / 2 ^ 18) (payPut p (k % 2 ^ 18) 0xFF) (payFill 0xFF) }

/-- A connection entry is marked bad: the mark takes effect in the output frame being assembled (R189), and the held byte becomes
invalid (R185). -/
def State.markEntry (act : Bool) (k : Nat) (s : State) : State :=
  let p := s.xc.side act
  if p.badE.contains k then s
  else
    let x := s.xc.setSide act { p with badE := p.badE ++ [k] }
    let x := if act then { x with heldBytes := tdel x.heldBytes k } else x
    let d := if act && s.ctl.assembling then s.dp.asmOff k else s.dp
    ({ s with xc := x, dp := d }.mapCtl fun c => (c.badLog false act k).raise 0x020 1 []).countBad

/-- A selector is marked bad, with its halves that hold a failing byte (R190, R191). (DEDUCED: log entry 37.) -/
def State.markSel (act : Bool) (i halves : Nat) (s : State) : State :=
  let p := s.xc.side act
  if (tfind p.badS i).isSome then { s with xc := s.xc.setSide act { p with badS := tput p.badS i (tget p.badS i 0 ||| halves) } }
  else
    ({ s with xc := s.xc.setSide act { p with badS := tput p.badS i halves } }.mapCtl fun c =>
      (c.badLog true act i).raise 0x020 2 []).countBad

/-- A replay that passes (Table 6.6). -/
def Ctl.replayed (f : Fld) (c : Ctl) : Ctl := ((c.count f 1).occ 0x03 1).raise 0x020 7 []

/-- A read of an entry fails: the replay passes, or the entry is marked bad (R188, R189). -/
def State.entryFault (act fail : Bool) (k : Nat) (s : State) : State :=
  if fail then (s.mapCtl (Ctl.count F.XCC_CNT_CM_FAIL 1)).markEntry act k else s.mapCtl (Ctl.replayed F.XCC_CNT_CM_REP)

/-- A read of a selector fails (R188, R190). -/
def State.selFault (act fail : Bool) (i halves : Nat) (s : State) : State :=
  if fail then (s.mapCtl (Ctl.count F.XCC_CNT_SEL_FAIL 1)).markSel act i halves else s.mapCtl (Ctl.replayed F.XCC_CNT_SEL_REP)

/-! ### The windows (R27, R169, R193, R198 to R201) -/

/-- What an address of a connection-page or selector window reaches. -/
inductive PageLoc where
  | entry (act : Bool) (k : Nat)
  | selector (act : Bool) (i half : Nat)
  | hole
  deriving DecidableEq, Repr

/-- The place that a window address reaches; `none` outside the four windows (R24, R27). -/
def pageLoc (a : Nat) : Option PageLoc :=
  let ent (act : Bool) (o : Nat) : PageLoc :=
    let lane := o / 2 ^ 20
    let slot := o % 2 ^ 20 / 4
    if lane < 30 ∧ slot < laneSlots then .entry act (slotKey lane slot) else .hole
  if 0x30000000 ≤ a ∧ a < 0x32000000 then some (ent false (a - 0x30000000))
  else if 0x32000000 ≤ a ∧ a < 0x32200000 then some (.selector false ((a - 0x32000000) / 8) ((a - 0x32000000) / 4 % 2))
  else if 0x34000000 ≤ a ∧ a < 0x36000000 then some (ent true (a - 0x34000000))
  else if 0x36000000 ≤ a ∧ a < 0x36200000 then some (.selector true ((a - 0x36000000) / 8) ((a - 0x36000000) / 4 % 2))
  else none

/-- A window address that names an entry or a selector. -/
def atPlace (a : Nat) : Bool := (pageLoc a).isSome && pageLoc a != some .hole

/-- The access has a permitted form: aligned 32 or 64 bits (R169). -/
def pageForm (a size : Nat) : Bool := (size == 4 || size == 8) && a % size == 0

/-- A selector with one half replaced. -/
def putHalf (v half w : Nat) : Nat := if half = 0 then putBits v 31 0 w else putBits v 63 32 w

/-- A read of a window by a master; bit 0 of `rep` and `fail` is the lower word of the access, bit 1 the upper (R193). A 32-bit read of a
selector is judged on the half that it reads. (DEDUCED: log entries 37, 73.) -/
def connWindowRead (m addr size rep fail : Nat) (s : State) : State :=
  let err (cause : Nat) (s : State) : State := s.mapCtl (Ctl.dtError m addr size false cause)
  let swFail (s : State) : State := (err 1 s).mapCtl (fun c => c.raise 0x020 6 [])
  match pageLoc addr with
  | none => s
  | some .hole => err 0 s
  | some (.entry act k) =>
    if !pageForm addr size then err 2 s
    else
      let one (i : Nat) (s : State) : State :=
        if bit fail i then
          let s := s.mapCtl (Ctl.count F.XCC_CNT_CM_FAIL 1)
          if act then s.markEntry true (k + i) else s
        else if bit rep i then s.mapCtl (Ctl.replayed F.XCC_CNT_CM_REP) else s
      let s1 := one 0 s
      let s2 := if size = 8 then one 1 s1 else s1
      if bit fail 0 || (size == 8 && bit fail 1) then swFail s2
      else
        let p := s.xc.side act
        s2.mapCtl (Ctl.answers (p.entry k + (if size = 8 then p.entry (k + 1) * 2 ^ 32 else 0)))
  | some (.selector act i half) =>
    if !pageForm addr size then err 2 s
    else
      let mask := if size = 8 then 3 else 2 ^ half
      let bad := (if size = 8 then fail else fail % 2 * 2 ^ half) &&& mask
      let rp := (if size = 8 then rep else rep % 2 * 2 ^ half) &&& mask
      if bad ≠ 0 then
        let s := s.mapCtl (Ctl.count F.XCC_CNT_SEL_FAIL 1)
        swFail (if act then s.markSel true i bad else s)
      else
        let s := if rp ≠ 0 then s.mapCtl (Ctl.replayed F.XCC_CNT_SEL_REP) else s
        let v := (s.xc.side act).selector i
        s.mapCtl (Ctl.answers (if size = 8 then v else if half = 0 then bits v 31 0 else bits v 63 32))

/-- The STANDBY side becomes UNSEALED, without a verdict (R200). -/
def Ctl.unseal (c : Ctl) : Ctl :=
  { c.sets [(F.CMP_STAT_STATE, 0), (F.CMP_STAT_VERDICT, 0), (F.LGR_STAT_STBY_VALID, 0)] with mgn := { c.mgn with refStby := none } }

/-- A write to a STANDBY window is refused (Table 7.1, R201). -/
def Ctl.standbyLocked (c : Ctl) : Bool :=
  c.get F.CMP_STAT_STATE == 3 || c.on F.CMP_STAT_SWAP_PENDING || !c.on F.CMP_STAT_INIT_DONE

/-- A write that completes abandons a seal and ends a verdict (Table 7.1). -/
def Ctl.standbyWritten (c : Ctl) : Ctl :=
  if c.get F.CMP_STAT_STATE = 1 then c.abandonSeal else if c.get F.CMP_STAT_STATE = 2 then c.unseal else c

/-- An entry is stored: its mark clears (R191). -/
def PageSet.putEntry (k v : Nat) (p : PageSet) : PageSet :=
  { p with entries := tputD p.entries k v aisEntry, badE := p.badE.filter (· != k) }

/-- Halves of a selector are stored: the mark clears once every half that held a failing byte has been written (R191). -/
def PageSet.putSel (i halves v : Nat) (p : PageSet) : PageSet :=
  let old := tget p.badS i 0
  let left := old - (old &&& halves)
  { p with sels := tputD p.sels i v 0, badS := if left = 0 then tdel p.badS i else tput p.badS i left }

/-- A write to a STANDBY window (R169, R200, R201); the ACTIVE windows are read-only (R25). -/
def standbyWindowWrite (m addr size data : Nat) (s : State) : State :=
  let err (cause : Nat) (s : State) : State := s.mapCtl (Ctl.dtError m addr size true cause)
  let go (f : PageSet → PageSet) : State :=
    if s.ctl.standbyLocked then (err 1 s).mapCtl (fun c => c.raise 0x021 7 [])
    else { s with xc := s.xc.setStandby (f s.xc.standby) }.mapCtl (fun c => c.standbyWritten.answers 0)
  match pageLoc addr with
  | none => s
  | some .hole => err 0 s
  | some (.entry act k) =>
    if !pageForm addr size then err 2 s
    else if act then err 1 s
    else if size = 8 then go (fun p => (p.putEntry k (data % 2 ^ 32)).putEntry (k + 1) (data / 2 ^ 32 % 2 ^ 32))
    else go (PageSet.putEntry k (data % 2 ^ 32))
  | some (.selector act i half) =>
    if !pageForm addr size then err 2 s
    else if act then err 1 s
    else if size = 8 then go (PageSet.putSel i 3 (data % 2 ^ 64))
    else go (fun p => p.putSel i (2 ^ half) (putHalf (p.selector i) half (data % 2 ^ 32)))

/-! ### Fingerprints (R208) -/

/-- An affine map of 32-bit numbers over GF(2): the images of the 32 single bits, and the image of 0. -/
structure Affine where
  cols : List Nat
  const : Nat
  deriving DecidableEq, Repr

/-- The linear part applied. -/
def Affine.linear (f : Affine) (x : Nat) : Nat :=
  (f.cols.zipIdx).foldl (fun a p => if bit x p.2 then a ^^^ p.1 else a) 0

/-- The map applied. -/
def Affine.apply (f : Affine) (x : Nat) : Nat := f.linear x ^^^ f.const

/-- A map repeated twice. -/
def Affine.twice (f : Affine) : Affine := ⟨f.cols.map f.linear, f.apply f.const⟩

/-- `n` repetitions of a map applied to a number, for `n` below two to the power of the fuel. -/
def Affine.repeated : Nat → Affine → Nat → Nat → Nat
  | 0, _, _, x => x
  | k + 1, f, n, x => Affine.repeated k f.twice (n / 2) (if n % 2 = 1 then f.apply x else x)

/-- Bytes run through the register of the CRC-32 (R90). -/
def crcRun (l : List Byte) (r : Nat) : Nat := l.foldl (fun r b => crcByte 32 0x04C11DB7 r b.toNat) r

/-- What one word of bytes does to the register. -/
def crcAffine (l : List Byte) : Affine :=
  let c := crcRun l 0
  ⟨(List.range 32).map (fun i => crcRun l (2 ^ i) ^^^ c), c⟩

/-- The register after positions `[at, stop)` of a sequence of words of `n` bytes, of which a table lists those that differ from
a default whose map is `f`. -/
def crcTable (n : Nat) (f : Affine) : Tbl Nat → Nat → Nat → Nat → Nat
  | [], at_, stop, r => f.repeated 24 (stop - at_) r
  | (k, v) :: t, at_, stop, r =>
    if stop ≤ k then f.repeated 24 (stop - at_) r
    else crcTable n f t (k + 1) stop (crcRun (beBytes n v) (f.repeated 24 (k - at_) r))

/-- The place of an output slot in the order of the fingerprint. -/
def slotRank (k : Nat) : Nat := k / 2 ^ 18 * laneSlots + k % 2 ^ 18

/-- The fingerprint of a page and table (R208). -/
def PageSet.fingerprint (p : PageSet) : Nat :=
  let r := crcTable 4 (crcAffine (beBytes 4 aisEntry)) (p.entries.map fun e => (slotRank e.1, e.2)) 0 4770000 0xFFFFFFFF
  crcTable 8 (crcAffine (beBytes 8 0)) p.sels 0 262144 r ^^^ 0xFFFFFFFF

/-! ### Copy (R202) -/

/-- Why a seal or copy request is refused (SEAL_REFUSE): 1 busy, 3 not initialised. (DEDUCED: log entry 39.) -/
def Ctl.pageRefusal (c : Ctl) : Nat :=
  if c.get F.CMP_STAT_STATE = 1 || c.get F.CMP_STAT_STATE = 3 || c.on F.CMP_STAT_SWAP_PENDING then 1
  else if !c.on F.CMP_STAT_INIT_DONE then 3 else 0

/-- A copy is requested. (DEDUCED: log entry 39.) -/
def copyRequest (c : Ctl) : Ctl :=
  let r := c.pageRefusal
  let c := c.set F.CMP_STAT_SEAL_REFUSE r
  if r = 0 then c.unseal.set F.CMP_STAT_STATE 3 else c

/-- The copy ends: the ACTIVE side stands in the STANDBY side, with AIS entries and zero selectors for those that cannot be
read. A selector whose read fails is marked in both halves: the copy reads it whole. (DEDUCED: log entries 37, 39.) -/
def copyDone (entries sels : List Nat) (s : State) : State :=
  if s.ctl.get F.CMP_STAT_STATE ≠ 3 then s
  else
    let s := entries.foldl (fun s k => s.entryFault true true k) s
    let s := sels.foldl (fun s i => s.selFault true true i 3) s
    let a := s.xc.active
    let p : PageSet :=
      { entries := a.badE.foldl tdel a.entries, sels := a.badS.foldl (fun t q => tdel t q.1) a.sels, badE := [], badS := [] }
    { s with xc := s.xc.setStandby p }.mapCtl fun c =>
      (c.sets [(F.CMP_STAT_STATE, 0), (F.CMP_COPY_STAT_BAD, a.badE.length + a.badS.length), (F.CMP_FP_STBY_FP, p.fingerprint)]).raise
        0x021 6 []

/-! ### The seal (R203 to R207, R226, R227) -/

/-- A seal is requested (R203); in RECOVERY it is refused by mode, whatever else would refuse it (R42). (DEDUCED: log entry 39.) -/
def sealRequest (c : Ctl) : Ctl :=
  let r := if c.mode = .recovery then 2 else c.pageRefusal
  let c := c.set F.CMP_STAT_SEAL_REFUSE r
  if r ≠ 0 then c.raise 0x021 1 []
  else
    c.unseal.sets [(F.CMP_STAT_STATE, 1), (F.CMP_STAT_SEAL_ABORTED, 0),
      (F.CMP_SEAL_RATES_RATES, maskOf 24 (fun n => c.on (F.LRX_CTL_RATE n)))]

/-- The slots of a lane that are sent, at recorded rates (R205). -/
def sealedSlots (rates lane : Nat) : Nat := if lane < 24 ∧ bit rates lane then 39000 else laneSlots

/-- An output slot is assembled at recorded rates (R205). -/
def slotAssembled (rates k : Nat) : Bool := decide (k % 2 ^ 18 < sealedSlots rates (k / 2 ^ 18))

/-- The LANE, SLOT and RATE reasons of a source (Table 7.2, bits 1 to 3). -/
def sourceReasons (rates : Nat) (q : Nat × Nat) : Nat :=
  b2n (decide (30 ≤ q.1)) * 2 + b2n (decide (laneSlots ≤ q.2)) * 4 + b2n (decide (sealedSlots rates q.1 = 39000 ∧ 39000 ≤ q.2)) * 8

/-- A bit that Table 6.2 gives as 0 for the TYPE is non-zero. -/
def entryReserved (v : Nat) : Bool :=
  match entryType v with
  | 0 => bits v 28 23 != 0
  | 1 => bits v 28 18 != 0
  | 2 => bits v 29 8 != 0
  | _ => bits v 29 0 != 0

/-- The reasons for which an entry is malformed (Table 7.2). -/
def PageSet.entryReasons (p : PageSet) (rates k : Nat) : Nat :=
  let v := p.entry k
  let asmd := slotAssembled rates k
  b2n (asmd && entryReserved v) + (if entryType v = 0 then sourceReasons rates (sourceOf v) else 0) +
  b2n (!asmd && v != aisEntry) * 16 + b2n (asmd && p.badE.contains k) * 32

/-- The reasons for which a named selector is malformed (Table 7.2). -/
def PageSet.selReasons (p : PageSet) (rates i : Nat) : Nat :=
  let v := p.selector i
  b2n (bit v 63) + (sourceReasons rates (selWork v) ||| sourceReasons rates (selProt v)) + b2n (tfind p.badS i).isSome * 32

/-- The SELECT entries of assembled slots. -/
def PageSet.selects (p : PageSet) (rates : Nat) : List (Nat × Nat) :=
  p.entries.filter fun e => entryType e.2 == 1 && slotAssembled rates e.1

/-- The named selectors, in increasing index, each once (R205). -/
def PageSet.named (p : PageSet) (rates : Nat) : List Nat :=
  ((p.selects rates).foldl (fun t e => tput t (entrySel e.2) ()) []).map Prod.fst

/-- The malformed entries and then the malformed selectors of a page, each with whether it is a selector, its location and its
reasons. -/
def PageSet.malformed (p : PageSet) (rates : Nat) : List (Bool × Nat × Nat) :=
  let keys := (p.badE.foldl (fun t k => tput t k ()) (p.entries.map fun e => (e.1, ()))).map Prod.fst
  (keys.map (fun k => (false, k, p.entryReasons rates k)) ++ (p.named rates).map (fun i => (true, i, p.selReasons rates i))).filter
    (fun q => q.2.2 != 0)

/-- The sources that an assembled slot's entry reads (Table 6.3). -/
def PageSet.sources (p : PageSet) (v : Nat) : List (Nat × Nat) :=
  match entryType v with
  | 0 => [sourceOf v]
  | 1 => [selWork (p.selector (entrySel v)), selProt (p.selector (entrySel v))]
  | _ => []

/-- The counts of a page (R206): assembled slots, selector reads, data-memory reads, hottest sub-bank and its reads. -/
def PageSet.counts (p : PageSet) (rates : Nat) : Nat × Nat × Nat × Nat × Nat :=
  let c := (List.range 30).foldl (fun a l => a + sealedSlots rates l) 0
  let srcs := (p.entries.filter (fun e => slotAssembled rates e.1)).flatMap (fun e => p.sources e.2)
  let banks := srcs.foldl (fun t q => tmod t (dmWord q % 512) 0 (· + 1)) ([] : Tbl Nat)
  let hot := banks.foldl (fun (a : Nat × Nat) q => if a.2 < q.2 then q else a) (0, 0)
  (c, (p.selects rates).length, srcs.length, hot.1, hot.2)

/-- The parity failures that the scan meets: each marks its STANDBY entry or selector (R205). -/
def State.scanFaults (faults : List ParityFault) (s : State) : State :=
  faults.foldl (fun s f => match f with
    | .entry k fail => s.entryFault false fail k
    | .selector i fail halves => s.selFault false fail i halves
    | _ => s) s

/-- A page with malformations: the verdict MALFORMED, and where the first of them lies (R207). -/
def Ctl.malformedVerdict (q : SealScan) (bad : List (Bool × Nat × Nat)) (c : Ctl) : Ctl :=
  let first := lget bad 0 (false, 0, 0)
  ((c.scanShown q).sets [(F.CMP_STAT_VERDICT, 3), (F.CMP_SEAL_BAD_COUNT, min (2 ^ 23 - 1) bad.length),
    (F.CMP_SEAL_BAD_REASON, bad.foldl (fun a p => a ||| p.2.2) 0), (F.CMP_SEAL_LOC_VALID, 1), (F.CMP_SEAL_LOC_SEL, b2n first.1),
    (F.CMP_SEAL_LOC_LOC, first.2.1), (F.CMP_SEAL_ASM_CEIL, 0), (F.CMP_SEAL_ASM_ASM, 0)]).raise 0x021 1 []

/-- The scan of a seal ends (R205 to R207): a malformed page has its verdict, another is judged by the ledger, which judges no seal
before the first evaluation: until then it waits, STATE staying SEALING (R228). (DEDUCED: log entry 40.) -/
def sealVerdict (faults : List ParityFault) (s : State) : State :=
  if s.ctl.get F.CMP_STAT_STATE ≠ 1 || s.ctl.mgn.waiting.any Waiting.isSeal then s
  else
    let t := s.scanFaults faults
    let p := t.xc.standby
    let rates := t.ctl.get F.CMP_SEAL_RATES_RATES
    let bad := p.malformed rates
    let n := p.counts rates
    let q : SealScan := ⟨p.fingerprint, n.1, n.2.1, n.2.2.1, n.2.2.2.1, n.2.2.2.2⟩
    t.mapCtl fun c =>
      if !bad.isEmpty then c.malformedVerdict q bad
      else if c.on F.LGR_STAT_WAITING then c.await (.seal q) else c.ledgerVerdict q

/-! ### The swap (R209 to R217) -/

/-- The rate that a lane has from boundary `g` onward, as it now stands (R215). -/
def Ctl.rateAt (c : Ctl) (g n : Nat) : Nat := if (c.fnN / 32 + 1) * 32 ≤ g then c.get (F.LRX_CTL_RATE n) else (c.lrx n).rate

/-- Every lane's rate from a boundary onward is the recorded one (R215). -/
def Ctl.ratesOk (c : Ctl) (g : Nat) : Bool := (List.range 24).all fun n => c.rateAt g n == b2n (c.onBit F.CMP_SEAL_RATES_RATES n)

/-- F_next (R209). -/
def Ctl.fnNext (c : Ctl) (late : Bool) : Nat := c.fnN + 1 + b2n late

/-- The swap is agreed with the mate: AGREE is ignored with PAIR_EN low (R218). -/
def Ctl.agreed (c : Ctl) (agree : Bool) : Bool := agree && c.pairEn

/-- A request is refused: nothing changes but CMP_SWAP_STAT (R210). -/
def Ctl.swapDenied (result : Nat) (c : Ctl) : Ctl := (c.set F.CMP_SWAP_STAT_RESULT result).raise 0x021 3 []

/-- A request is accepted (R209, R211, R212). -/
def Ctl.swapAccepted (target : Nat) (agree late : Bool) (c : Ctl) : Ctl :=
  if !c.ratesOk target then c.swapDenied 10
  else
    let c := c.sets [(F.CMP_STAT_SWAP_PENDING, 1), (F.CMP_SWAP_STAT_RESULT, 1), (F.CMP_SWAP_TGT_FN, target)]
    let c := { c with swap := some ⟨target % 2 ^ 48, agree, late, false⟩ }
    if late then (c.set F.CMP_SWAP_STAT_SCHED_LATE 1).raise 0x021 4 [] else c

/-- A swap is requested (R209 to R212). (DEDUCED: log entry 41.) -/
def swapRequest (agree strict sched late : Bool) (c : Ctl) : Ctl :=
  let next := c.fnNext late
  let pair := c.agreed agree
  if pair && !sched then c.swapDenied 4
  else if c.mode = .recovery then c.swapDenied 8
  else if c.on F.CMP_STAT_SWAP_PENDING || c.get F.CMP_STAT_STATE = 1 || c.get F.CMP_STAT_STATE = 3 then c.swapDenied 6
  else if c.get F.CMP_STAT_STATE ≠ 2 ∨ c.get F.CMP_STAT_VERDICT ≠ 1 then c.swapDenied 5
  else if !sched then c.swapAccepted next pair false
  else
    let d := sdiff 32 (c.get F.CMP_SWAP_FN_T) (next % 2 ^ 32)
    if (if pair then 16 else 0) ≤ d then c.swapAccepted (next + d.toNat) pair false
    else if strict || pair then (c.set F.CMP_SWAP_STAT_SCHED_MISSED 1).swapDenied 7
    else c.swapAccepted ((next + 31) / 32 * 32) pair true

/-- The pending swap is cancelled (R216). (DEDUCED: log entry 41.) -/
def swapCancel (c : Ctl) : Ctl :=
  if c.swap.isSome then { c with swap := none }.sets [(F.CMP_STAT_SWAP_PENDING, 0), (F.CMP_SWAP_STAT_RESULT, 11)] else c

/-- The slots whose entry, or whose named selector, differs between two pages keep no held byte (R185). -/
def heldAfter (old new : PageSet) (h : Tbl Byte) : Tbl Byte :=
  h.filter fun q => old.entry q.1 == new.entry q.1 &&
    (entryType (new.entry q.1) != 1 || old.selector (entrySel (new.entry q.1)) == new.selector (entrySel (new.entry q.1)))

/-- The swap is made at the boundary that begins its target frame (R213, R215). (DEDUCED, DESIGN CHOICE: log entries 4, 41.) -/
def swapExecute (s : State) : State :=
  match s.ctl.swap with
  | none => s
  | some r =>
    if r.target ≠ (s.ctl.fnN + 1) % 2 ^ 48 then s
    else if !s.ctl.ratesOk (s.ctl.fnN + 1) then s.mapCtl (Ctl.swapRefused 10)
    else
      let x := { s.xc with act1 := !s.xc.act1, heldBytes := heldAfter s.xc.active s.xc.standby s.xc.heldBytes }
      let t := { s with xc := x }.mapCtl fun c =>
        let a := c.mgn.refStby.getD c.mgn.refAct
        let c := { c with swap := none, mgn := { c.mgn with refAct := a } }.evalTrigger.unseal
        let c := c.sets [(F.CMP_FP_ACTIVE_FP, c.get F.CMP_FP_STBY_FP), (F.CMP_FP_STBY_FP, c.get F.CMP_FP_ACTIVE_FP),
          (F.CMP_ACT_FN_FN, r.target), (F.CMP_STAT_SWAP_PENDING, 0), (F.CMP_SWAP_STAT_RESULT, if r.late then 3 else 2),
          (F.CMP_STAT_ACT_MEM, b2n x.act1), (F.CMP_CNT_SWAPS, c.get F.CMP_CNT_SWAPS + 1), (F.LGR_ASM_ACT_REF, refUnits a)]
        (c.occ 0xC7 1).raise 0x021 2 []
      t.countBad

/-! ### Injection and the bad log (R195, R196) -/

/-- ARM acts in MAINTENANCE only. -/
def injectArm (c : Ctl) : Ctl := if c.mode = .maintenance then c.set F.XCC_INJ_ARM 1 else c

/-- The bad log is emptied. -/
def badlogClear (c : Ctl) : Ctl := (c.setReg R.XCC_BADLOG_STAT 0).zero ((List.range 64).map R.XCC_BADLOG)

/-! ### The meanings -/

/-- A read of a window. -/
def execConnWindowRead (m addr size rep fail : Nat) (s : State) : Host.Outcome State Fault Refusal :=
  onState (asAccess m addr size false (issued m addr size false (atPlace addr) (connWindowRead m addr size rep fail))) s

/-- A write of a window. -/
def execStandbyWindowWrite (m addr size data : Nat) (s : State) : Host.Outcome State Fault Refusal :=
  onState (asAccess m addr size true (issued m addr size true (atPlace addr) (standbyWindowWrite m addr size data))) s

/-- ARM. -/
def execInjectArm (s : State) : Host.Outcome State Fault Refusal := onCtl injectArm s

/-- BADLOG. -/
def execBadlogClear (s : State) : Host.Outcome State Fault Refusal := onCtl badlogClear s

/-- A copy request. -/
def execCopyRequest (s : State) : Host.Outcome State Fault Refusal := onCtl copyRequest s

/-- The end of a copy. -/
def execCopyDone (entries sels : List Nat) (s : State) : Host.Outcome State Fault Refusal := onState (copyDone entries sels) s

/-- A seal request. -/
def execSealRequest (s : State) : Host.Outcome State Fault Refusal := onCtl sealRequest s

/-- The verdict of a seal. -/
def execSealVerdict (faults : List ParityFault) (s : State) : Host.Outcome State Fault Refusal := onState (sealVerdict faults) s

/-- A swap request. -/
def execSwapRequest (agree strict sched late : Bool) (s : State) : Host.Outcome State Fault Refusal :=
  onCtl (swapRequest agree strict sched late) s

/-- A swap cancelled. -/
def execSwapCancel (s : State) : Host.Outcome State Fault Refusal := onCtl swapCancel s

/-- The target boundary of a swap. -/
def execSwapExecute (s : State) : Host.Outcome State Fault Refusal := onStateTimed swapExecute s

end Sys2Proof.Machine
end

