-- ==== Sys2Proof/Machine/Protect.lean ====
section
/-! DEFINITION. Protection switching (R244 to R275). Slot group `g` has key `g`; lane group `j` has key 65,536 + `j`. -/

namespace Sys2Proof.Machine

/-- A group's applied copy and live state; an unlisted group is unconfigured (R247). -/
def Ctl.group (c : Ctl) (k : Nat) : Group := tget c.groups k {}

/-- Change a group. -/
def Ctl.setGroup (k : Nat) (g : Group) (c : Ctl) : Ctl := { c with groups := tput c.groups k g }

/-- Queue one group (R269). -/
def Ctl.queueGroup (k cause : Nat) (c : Ctl) : Ctl := c.queueGroups (fun j _ => j == k) cause

/-! ### Conditions (R255) -/

/-- The effective conditions at a moment: those whose hold-off has ended, and with HOLDOFF = 0 every raw one (R255). -/
def Group.effAt (now : Nat) (g : Group) : List Bool :=
  g.hold.map fun h => match h with
    | some t => decide (t ≤ now ∨ g.holdoff = 0)
    | none => false

/-- Effective condition `i` of a group: 0 W_SF, 1 W_SD, 2 P_SF, 3 P_SD. -/
def Group.cond (g : Group) (i : Nat) : Bool := lget g.eff i false

/-! ### Requests and selection (R256 to R259, R261) -/

/-- A request calls for protection (Table 9.2). -/
def callsProtection (req : Nat) : Bool := [0xE, 0xB, 0x9, 0x7, 0x5, 0x1].contains req

/-- The request that holds by a command or a condition (rows 1 to 6 of Table 9.2). -/
def Group.standing (g : Group) : Option Nat :=
  if g.cmd = 1 then some 0xF
  else if g.cmd = 2 then some 0xE
  else if g.cond 2 then some 0xD
  else if g.cond 0 then some 0xB
  else if g.cond 1 && !g.cond 3 then some 0x9
  else if g.cmd = 3 then some 0x7
  else none

/-- The request that follows when no command or condition holds one (Table 9.3). -/
def Group.following (g : Group) : Nat :=
  if g.req = 0xB ∨ g.req = 0x9 then (if g.revert then 0x5 else 0x1)
  else if g.req = 0xE ∨ g.req = 0x7 then (if g.revert then 0x0 else 0x1)
  else if g.req = 0x5 then (if g.wtrEnd.isSome then 0x5 else 0x0)
  else if g.req = 0x1 then 0x1
  else 0x0

/-- The local request of a group (R256). -/
def Group.localReq (g : Group) : Nat := g.standing.getD g.following

/-- The far-end request as it ranks: NR while FE_LOST is present, and RR counts as NR (R256, R266). -/
def Group.feRank (g : Group) : Nat := if g.feLost || g.feReq = 2 then 0 else g.feReq

/-- The effective request (R257). -/
def Group.effReq (g : Group) (req : Nat) : Nat := if g.bidir && decide (req < g.feRank) then g.feRank else req

/-- REQ, BR and SEL as they would be sent for slot or lane group (R267). -/
def Group.wouldSend (g : Group) (lane : Bool) : Nat × Bool × Bool :=
  (if g.req < g.feRank then 2 else g.req, if lane then g.txBridge else true, g.sel)

/-- A wait-to-restore timer of WTR seconds that starts at a moment. -/
def wtrFrom (now wtr : Nat) : Nat := now + wtr * secondTicks

/-- The ticks of the 50 ms of FE_MISM, and of the 5 s of FE_LOST (R266). -/
def mismTicks : Nat := 10240000

/-- The ticks of the 5 s of FE_LOST (R266). -/
def lostTicks : Nat := 5 * secondTicks

/-- The far-end selection beside the group's own at a moment: FE_MISM clears when they agree, and its 50 ms run while they differ and
FE_LOST is absent (R266). -/
def Group.mismSeen (now : Nat) (g : Group) : Group :=
  if g.feSel = g.sel then { g with feMism := false, mismAt := none }
  else if g.feLost || !g.bidir then { g with mismAt := none }
  else { g with mismAt := some (g.mismAt.getD (now + mismTicks)) }

/-- A group after an evaluation at a moment on raw conditions (R255 to R259, R261, R266, R267). -/
def Group.evaluated (g : Group) (now : Nat) (lane : Bool) (raw : List Bool) : Group :=
  let g := g.rawSeen now raw
  let g := { g with eff := g.effAt now }
  let req := g.localReq
  let wtrEnd := if req = 0x5 then (if g.req = 0x5 then g.wtrEnd else some (wtrFrom now g.wtr)) else none
  let cmd := if g.cmd = 3 && decide (req = 0xD ∨ req = 0xB ∨ req = 0x9) then 0 else g.cmd
  let sel := callsProtection (g.effReq req)
  let g := { g with req, wtrEnd, cmd, sel }.mismSeen now
  let would := g.wouldSend lane
  { g with sent := would, apsPend := g.apsPend || (g.bidir && would != g.sent) }

/-- A change of selection counts, is pending for its record and triggers the recorders (R274, R275, R289, R465). -/
def Ctl.switched (k cause : Nat) (c : Ctl) : Ctl :=
  let c := (c.count F.PGS_CNT_SW_SWITCHES 1).raise 0x022 0 []
  let c := if lgBase ≤ k then c.count (F.PGS_LG_CNT_SWITCHES (k - lgBase)) 1 else c
  let old := tget c.ev.swPend k (0, c.fnN, 0, 0)
  let c := { c with ev := { c.ev with swPend := tput c.ev.swPend k (old.1 + 1, old.2.1, c.fnN, cause) } }
  [0, 1].foldl (fun c r =>
    let named := c.on (F.RL_TRIG_PG_ANY r) ||
      (c.get (F.RL_TRIG_PG_LG r) == b2n (decide (lgBase ≤ k)) && c.get (F.RL_TRIG_PG_GROUP r) == k % lgBase)
    if c.on (F.RL_TRIG_PG_EN r) && named then c.rlTrigger r 2 else c) c

/-- While the lane of its messages is source-fail, a bidirectional group has FE_LOST (R266). (DEDUCED: log entry 42.) -/
def Ctl.feLostBySource (k : Nat) (c : Ctl) : Ctl :=
  let g := c.group k
  if g.bidir && !g.feLost && c.sourceFail g.apsLane then (c.setGroup k { g with feLost := true }).raise 0x022 3 [] else c

/-- A group is evaluated (R269); an unconfigured one raises no request (R247). -/
def Ctl.evaluate (k cause : Nat) (c : Ctl) : Ctl :=
  if (c.group k).frozen then c
  else if !(c.group k).en then c.occ 0x04 1
  else
    let c := c.feLostBySource k
    let g := c.group k
    let g' := g.evaluated c.mtime (decide (lgBase ≤ k)) (c.rawConditions k g)
    let c := (c.setGroup k g').occ 0x04 1
    if g.sel != g'.sel then c.switched k cause else c

/-- A freeze holds a group's timers with the time that they have left (R263, R272). -/
def Group.freeze (now : Nat) (g : Group) : Group :=
  { g with frozen := true, wtrEnd := none, wtrHeld := g.wtrEnd.map (· - now), lostAt := g.lostAt - now, mismAt := g.mismAt.map (· - now) }

/-- The timers that a freeze held resume. -/
def Group.resume (now : Nat) (g : Group) : Group :=
  if g.frozen then
    { g with wtrEnd := g.wtrHeld.map (now + ·), wtrHeld := none, lostAt := now + g.lostAt, mismAt := g.mismAt.map (now + ·) }
  else g

/-- A read of a slot group's parity-protected words failed after replay: the group freezes, and CFG_MEM is triggered (R272). -/
def Ctl.freezeGroup (k : Nat) (c : Ctl) : Ctl :=
  let c := c.setGroup k ((c.group k).freeze c.mtime)
  ({ c with pgQueue := c.pgQueue.filter (fun q => q.1 != k) }.raise 0x022 4 []).trigger 0x022 3

/-- The evaluation of the group at the head of the queue; `us` is the time that the last group of an event took (R270). -/
def groupEvaluation (fail : Bool) (us : Option Nat) (c : Ctl) : Ctl :=
  match c.pgQueue with
  | [] => c
  | (k, cause) :: rest =>
    let c := { c with pgQueue := rest }
    let c := if fail && decide (k < lgBase) then c.freezeGroup k else c.evaluate k cause
    match us with
    | none => c
    | some t =>
      let t := min t 65535
      (c.sets [(F.PGS_EVAL_TIME_LAST, t), (F.PGS_EVAL_TIME_MAX, max t (c.get F.PGS_EVAL_TIME_MAX))]).raiseIf
        (decide (1000 < t)) 0x022 5

/-- A timer of a group has an end moment that comes by the end of the present frame; the group runs it. (DESIGN CHOICE: log entry 5.) -/
def Ctl.groupDue (k : Nat) (t : Option Nat) (c : Ctl) : Bool :=
  (c.group k).en && !(c.group k).frozen && (match t with
    | some t => c.dueBy t
    | none => false)

/-- A raw condition has lasted for its hold-off: its group is queued, and the evaluation finds it effective (R255, R269). (DESIGN CHOICE: log entry 5.) -/
def holdoffExpiry (k i : Nat) (c : Ctl) : Ctl :=
  let t := lget (c.group k).hold i none
  if c.groupDue k t && !(c.group k).cond i then (c.advMoment (t.getD 0)).queueGroup k 31 else c

/-- A wait-to-restore timer that has run out stops, and its group is queued (R258). (DESIGN CHOICE: log entry 5.) -/
def wtrExpiry (k : Nat) (c : Ctl) : Ctl :=
  let g := c.group k
  if c.groupDue k g.wtrEnd then ((c.advMoment (g.wtrEnd.getD 0)).setGroup k { g with wtrEnd := none }).queueGroup k 31 else c

/-- FE_LOST is declared 5 s after the last matched message (R266). (DESIGN CHOICE: log entry 5.) -/
def feLostExpiry (k : Nat) (c : Ctl) : Ctl :=
  let g := c.group k
  if c.groupDue k (some g.lostAt) && g.bidir && !g.feLost then
    (((c.advMoment g.lostAt).setGroup k ({ g with feLost := true }.mismSeen c.mtime)).raise 0x022 3 []).queueGroup k 31
  else c

/-- FE_MISM is declared once the selections have differed for 50 ms while FE_LOST is absent (R266). (DESIGN CHOICE: log entry 5.) -/
def feMismExpiry (k : Nat) (c : Ctl) : Ctl :=
  let g := c.group k
  if c.groupDue k g.mismAt && g.bidir && !g.feLost && !g.feMism && g.feSel != g.sel then
    (((c.advMoment (g.mismAt.getD 0)).setGroup k { g with feMism := true }).raise 0x022 2 []).queueGroup k 31
  else c

/-- A lane group's bridge takes effect at the frame boundary (R250). (DESIGN CHOICE: log entry 4.) -/
def lgBridgeEffect (j : Nat) (c : Ctl) : Ctl :=
  if j < 12 then
    let g := c.group (lgBase + j)
    c.setGroup (lgBase + j) { g with bridge := g.en && g.txBridge }
  else c

/-! ### Commands (R260 to R264) -/

/-- The key that LG and GROUP name. -/
def groupKey (lg : Bool) (g : Nat) : Nat := if lg then lgBase + g else g

/-- A command is judged: its RESULT is reported (R260), and a refusal raises CMD_REFUSED (R275). -/
def Ctl.pgResult (m op : Nat) (lg : Bool) (g result : Nat) (c : Ctl) : Ctl :=
  let c := c.sets [(F.PGS_CMD_STAT_RESULT, result), (F.PGS_CMD_STAT_OP, op), (F.PGS_CMD_STAT_LG, b2n lg),
    (F.PGS_CMD_STAT_MASTER, m), (F.PGS_CMD_STAT_GROUP, g)]
  c.raiseIf (decide (result ≠ 1)) 0x022 1

/-- A group with the fields of its stored words (the PG_CFG layouts), and whether a reserved bit is set. -/
def slotConfig (w0 w1 w2 : Nat) : Group × Bool :=
  ({ en := bit w0 31, revert := bit w0 30, bidir := bit w0 29, monEn := bit w0 28, feSelEn := bit w0 27
     w := bits w0 25 21, p := bits w0 20 16, apsLane := bits w0 15 11, holdoff := bits w0 9 0
     wtr := bits w1 25 16, monN := bits w1 14 8, monIdx := bits w2 17 0 },
   bit w0 26 || bit w0 10 || bits w1 31 26 != 0 || bit w1 15 || bits w1 7 0 != 0 || bits w2 31 18 != 0)

/-- A lane group with the fields of PGS_LG_CFG_A and PGS_LG_CFG_B. -/
def laneConfig (a b : Nat) : Group × Bool :=
  ({ en := bit a 31, revert := bit a 30, bidir := bit a 29, feSelEn := bit a 28, txBridge := bit a 27
     w := bits a 4 0, p := bits a 12 8, apsLane := bits a 12 8, holdoff := bits a 24 15
     wtr := bits b 9 0, apsId := bits b 31 16 },
   bits a 26 25 != 0 || bits a 14 13 != 0 || bits a 7 5 != 0 || bits b 15 10 != 0)

/-- An APPLY is judged under R262: the RESULT of the first failure, or 1. -/
def Ctl.judgeApply (c : Ctl) (lg : Bool) (k : Nat) (new : Group) (resv : Bool) : Nat :=
  let top := if lg then 23 else 29
  let bad := decide (top < new.w) || decide (top < new.p) || (new.bidir && decide (23 < new.apsLane)) ||
    decide (1000 < new.holdoff) || (new.revert && decide (new.wtr < 1 ∨ 720 < new.wtr)) ||
    (new.monEn && decide (new.monN < 8 ∨ 64 < new.monN)) || (lg && new.w == new.p)
  let used := lg && c.groups.any (fun (j, g) => decide (lgBase ≤ j) && j != k && g.en &&
    (g.w == new.w || g.p == new.w || g.w == new.p || g.p == new.p))
  if c.mode == .recovery then 6
  else if resv then 2
  else if new.en && bad then 2
  else if new.en && used then 8
  else 1

/-- The monitors of a group under a new configuration: they start again when MON_EN or MON_IDX changes, and otherwise stand, a changed
MON_N applying to them (R253). -/
def Group.monKept (old new : Group) : Group :=
  if old.monEn != new.monEn || old.monIdx != new.monIdx then new
  else
    let rep (r : Bool) (cnt clr : Nat) : Bool := (r && !decide (new.monN ≤ clr)) || decide (new.monN ≤ cnt)
    { new with
      monW := old.monW, monP := old.monP, clrW := old.clrW, clrP := old.clrP
      repW := new.monEn && rep old.repW old.monW old.clrW, repP := new.monEn && rep old.repP old.monP old.clrP }

/-- Which of the four raw conditions a source holds that both configurations name, so that they have been present without a break
(Table 9.1, R255, R263). -/
def Ctl.heldOver (k : Nat) (old new : Group) (c : Ctl) : List Bool :=
  let w := c.groupLane k new.w
  let p := c.groupLane k new.p
  let sameW := old.w == new.w
  let sameP := old.p == new.p
  let fe := old.feSelEn && new.feSelEn && sameW && sameP
  let mon := old.monEn && new.monEn && old.monIdx == new.monIdx
  let rates := decide (lgBase ≤ k) && sameW && sameP && (c.lrx new.w).rate != (c.lrx new.p).rate
  [sameW && c.laneSf false w p || fe && c.laneSf true w p || mon && old.repW && new.repW, sameW && c.laneSd w,
   sameP && c.laneSf false p w || fe && c.laneSf true p w || mon && old.repP && new.repP || rates, sameP && c.laneSd p]

/-- The hold-off of one condition at an APPLY (R263): a timer runs on; one that only new sources hold starts, as does, in a group that was
frozen, that of a condition that was not effective. (DEDUCED: log entry 43.) -/
def holdKept (now ticks : Nat) (frozen : Bool) (raw kept eff : Bool) (h : Option Nat) : Option Nat :=
  if !raw then none
  else if frozen then some (if eff then now else now + ticks)
  else if kept then some (h.getD (now + ticks))
  else some (now + ticks)

/-- The live state of a group that was configured, under a new configuration whose monitors stand as given, with the raw conditions and those
of them that have been present without a break (R253, R259, R263, R264). (DEDUCED: log entry 43.) -/
def Group.reapplied (old new : Group) (now : Nat) (raw kept : List Bool) : Group :=
  let aps := old.bidir != new.bidir || old.apsLane != new.apsLane || old.apsId != new.apsId
  let run := old.resume now
  let toWtr := old.req = 0x1 ∧ !old.revert ∧ new.revert
  let toDnr := old.req = 0x5 ∧ old.revert ∧ !new.revert
  { new with
    sel := old.sel, cmd := old.cmd, feReq := old.feReq, feSel := old.feSel, sent := old.sent, bridge := old.bridge, eff := old.eff
    req := if toWtr then 0x5 else if toDnr then 0x1 else old.req
    wtrEnd := if toWtr then some (wtrFrom now new.wtr) else if toDnr then none else run.wtrEnd
    hold := (List.range 4).map fun i =>
      holdKept now (new.holdoff * holdTicks) old.frozen (lget raw i false) (lget kept i false) (old.cond i) (lget old.hold i none)
    feLost := old.feLost && new.bidir
    feMism := old.feMism && new.bidir
    lostAt := if aps then now + lostTicks else run.lostAt
    mismAt := run.mismAt
    apsPend := (old.apsPend || aps) && new.bidir }.mismSeen now

/-- An accepted APPLY takes the applied copy, and queues the group (R260, R263, R264); a group that selected protection and is made
unconfigured selects working from now on (R247, R274, R275). -/
def Ctl.applyGroup (k : Nat) (new : Group) (c : Ctl) : Ctl :=
  let old := c.group k
  if !new.en then
    let c := { c with
      groups := if lgBase ≤ k then tput c.groups k { bridge := old.bridge } else tdel c.groups k
      pgQueue := if c.pgQueue.any (fun q => q.1 == k) then c.pgQueue else c.pgQueue ++ [(k, 31)] }
    if old.en && old.sel then c.switched k 31 else c
  else
    let g := if old.en then
        let mon := old.monKept new
        old.reapplied mon c.mtime (c.rawConditions k mon) (c.heldOver k old mon)
      else { new with apsPend := new.bidir, bridge := old.bridge, lostAt := c.mtime + lostTicks }
    (c.setGroup k g).queueGroup k 31

/-- The engine's read of the stored words for an APPLY fails after replay: the group freezes (R272), and the APPLY is refused, by mode
where that has brought RECOVERY, else as frozen. (DEDUCED: log entry 43.) -/
def Ctl.applyUnread (k : Nat) (c : Ctl) : Nat × Ctl :=
  let c := if (c.group k).frozen then c else c.freezeGroup k
  (if c.mode == .recovery then 6 else 5, c)

/-- APPLY (R262 to R264); `words` are the stored words of the protection table by 4 g + word, whose read may `fail`. (DEDUCED: log entry 43.) -/
def pgApply (words : Tbl Nat) (m : Nat) (lg : Bool) (g : Nat) (fail : Bool) (c : Ctl) : Ctl :=
  if lg && decide (11 < g) then c.pgResult m 1 lg g 7
  else
    let k := groupKey lg g
    let cfg := if lg then laneConfig (c.reg (R.PGS_LG_CFG_A g)).toNat (c.reg (R.PGS_LG_CFG_B g)).toNat
      else slotConfig (tget words (4 * g) 0) (tget words (4 * g + 1) 0) (tget words (4 * g + 2) 0)
    let q := if fail && !lg then c.applyUnread k
      else
        let r := c.judgeApply lg k cfg.1 cfg.2
        (r, if r = 1 then c.applyGroup k cfg.1 else c)
    q.2.pgResult m 1 lg g q.1

/-- A command other than APPLY: unknown group, unconfigured, frozen, and then the command's own judgement (R260). (DEDUCED: log entry 43.) -/
def Ctl.pgCommand (m op : Nat) (lg : Bool) (g : Nat) (judge : Group → Nat) (f : Group → Group) (c : Ctl) : Ctl :=
  if lg && decide (11 < g) then c.pgResult m op lg g 7
  else
    let k := groupKey lg g
    let old := c.group k
    let r := if !old.en then 4 else if old.frozen then 5 else judge old
    let c := if r = 1 then (c.setGroup k (f old)).queueGroup k 31 else c
    c.pgResult m op lg g r

/-- LO (Table 9.4). -/
def pgLockout (m : Nat) (lg : Bool) (g : Nat) (c : Ctl) : Ctl :=
  c.pgCommand m 2 lg g (fun _ => 1) (fun o => { o with cmd := 1 })

/-- FS (Table 9.4). -/
def pgForcedSwitch (m : Nat) (lg : Bool) (g : Nat) (c : Ctl) : Ctl :=
  c.pgCommand m 3 lg g (fun o => if o.cmd = 1 then 3 else 1) (fun o => { o with cmd := 2 })

/-- MS (Table 9.4): CMD is none or MS, and the effective request ranks below MS. (DEDUCED: log entry 42.) -/
def pgManualSwitch (m : Nat) (lg : Bool) (g : Nat) (c : Ctl) : Ctl :=
  c.pgCommand m 4 lg g
    (fun o => if (o.cmd = 0 ∨ o.cmd = 3) ∧ o.effReq o.req < 0x7 then 1 else 3)
    (fun o => { o with cmd := 3 })

/-- CLEAR: CMD becomes none, and a running wait-to-restore ends (Table 9.4). -/
def pgClear (m : Nat) (lg : Bool) (g : Nat) (c : Ctl) : Ctl :=
  c.pgCommand m 5 lg g (fun _ => 1) (fun o => { o with cmd := 0, wtrEnd := none })

/-- An unknown OP is refused with RESULT 7 (R260). -/
def pgCmdUnknown (m op : Nat) (lg : Bool) (g : Nat) (c : Ctl) : Ctl := c.pgResult m op lg g 7

/-- A write of PGS_CMD (R260). -/
def pgCmdWrite (words : Tbl Nat) (m : Nat) (w : Word) (c : Ctl) : Ctl :=
  let op := wGet w 31 28
  let lg := bit w.toNat 24
  let g := wGet w 15 0
  if op = 1 then pgApply words m lg g false c
  else if op = 2 then pgLockout m lg g c
  else if op = 3 then pgForcedSwitch m lg g c
  else if op = 4 then pgManualSwitch m lg g c
  else if op = 5 then pgClear m lg g c
  else pgCmdUnknown m op lg g c

/-! ### Bidirectional operation (R265 to R268) -/

/-- The group that a message received on a lane belongs to (R265). -/
def Ctl.apsMatch (c : Ctl) (n pg : Nat) : Option Nat :=
  match c.groups.find? (fun (k, g) => decide (lgBase ≤ k) && g.en && g.bidir && g.p == n && g.apsId == pg) with
  | some (k, _) => some k
  | none =>
    let g := c.group pg
    if pg < lgBase ∧ g.en ∧ g.bidir ∧ g.apsLane = n then some pg else none

/-- A passed message acts on its group; a message without a group counts as NOGRP (R265, R266). -/
def Ctl.apsAct (n : Nat) (a : ApsMsg) (c : Ctl) : Ctl :=
  match c.apsMatch n a.pg with
  | none => c.count (F.LOH_CNT_APS_NOGRP n) 1
  | some k =>
    let g := c.group k
    let c := c.occ 0x07 1
    if g.frozen then c
    else
      let g := { g with feReq := a.req, feSel := a.sel, feLost := g.feLost && c.sourceFail n, lostAt := c.mtime + lostTicks }
      (c.setGroup k (g.mismSeen c.mtime)).queueGroup k (if n < 24 then n else 31)

/-- The bidirectional groups of a transmit lane that satisfy a condition, in the order of R268: lane groups, then slot groups. -/
def Ctl.apsGroups (c : Ctl) (n : Nat) (p : Group → Bool) : List Nat :=
  let ks := (c.groups.filter (fun (_, g) => g.en && g.bidir && !g.frozen && g.apsLane == n && p g)).map Prod.fst
  ks.filter (fun k => decide (lgBase ≤ k)) ++ ks.filter (fun k => decide (k < lgBase))

/-- The rank of a group in the order of R268. -/
def apsRank (k : Nat) : Nat := if lgBase ≤ k then k - lgBase else k + 12

/-- The group that follows the one sent last, with wrap. -/
def nextAfter (last : Option Nat) (ks : List Nat) : Option Nat :=
  match last with
  | none => ks.head?
  | some l => match ks.find? (fun k => decide (apsRank l < apsRank k)) with
    | some k => some k
    | none => ks.head?

/-- The message of a group as it stands now (R267). -/
def Ctl.apsOf (c : Ctl) (k : Nat) : ApsMsg :=
  let g := c.group k
  let s := g.wouldSend (decide (lgBase ≤ k))
  ⟨if lgBase ≤ k then g.apsId else k, s.1, s.2.1, s.2.2⟩

/-- One APS message position of a transmit lane: its 8 bytes, and the state after it (R96, R268). -/
def Ctl.apsPosition (n : Nat) (c : Ctl) : List Byte × Ctl :=
  let t := c.ltx n
  let send (k : Nat) (c : Ctl) : List Byte × Ctl :=
    (apsEncode (c.apsOf k) t.apsSeq, (c.setTx n { c.ltx n with apsSeq := (t.apsSeq + 1) % 65536 }).occ 0x06 1)
  match nextAfter t.lastPend (c.apsGroups n (·.apsPend)) with
  | some k =>
    let c := c.setTx n { t with lastPend := some k }
    let r := send k ((c.setGroup k { c.group k with apsPend := false }).count F.PGS_CNT_APS_CHANGE 1)
    r
  | none =>
    if !c.on F.PGS_CTL_REFRESH_EN then (List.replicate 8 0, c)
    else match nextAfter t.lastRef (c.apsGroups n (fun _ => true)) with
      | some k => send k ((c.setTx n { t with lastRef := some k }).count F.PGS_CNT_APS_REFRESH 1)
      | none => (List.replicate 8 0, c)

/-- Several APS positions of a lane. -/
def Ctl.apsPositions (n : Nat) : Nat → Ctl → List Byte × Ctl
  | 0, c => ([], c)
  | k + 1, c =>
    let r := c.apsPosition n
    let q := Ctl.apsPositions n k r.2
    (r.1 ++ q.1, q.2)

/-! ### The slot-AIS monitor (R252, R253) -/

/-- A monitor's count, clear count and report after one frame's byte (`none`: no good read). -/
def monStep (n : Nat) (b : Option Byte) (s : Nat × Nat × Bool) : Nat × Nat × Bool :=
  match b with
  | none => s
  | some v =>
    if v = 0xFF then (min 255 (s.1 + 1), 0, s.2.2 || decide (n ≤ s.1 + 1))
    else (0, min 255 (s.2.1 + 1), s.2.2 && !decide (n ≤ s.2.1 + 1))

/-- The bytes of the first reads of each selector go to the monitors of the groups that watch it (R252). -/
def Ctl.monitors (reads : Tbl (Option Byte × Option Byte)) (c : Ctl) : Ctl :=
  let step (g : Group) : Group :=
    match tfind reads g.monIdx with
    | none => g
    | some (w, p) =>
      let a := monStep g.monN w (g.monW, g.clrW, g.repW)
      let b := monStep g.monN p (g.monP, g.clrP, g.repP)
      { g with monW := a.1, clrW := a.2.1, repW := a.2.2, monP := b.1, clrP := b.2.1, repP := b.2.2 }
  let watch (k : Nat) (g : Group) : Bool := decide (k < lgBase) && g.en && g.monEn
  let changed := (c.groups.filter (fun (k, g) => watch k g && ((step g).repW != g.repW || (step g).repP != g.repP))).map Prod.fst
  { c with groups := c.groups.map (fun (k, g) => if watch k g then (k, step g) else (k, g)) }.queueGroups
    (fun k _ => changed.contains k) 31

/-! ### The state word and the table (R245, R247) -/

/-- The state word of a group (PG_STATE); an unconfigured group shows FROZEN alone (R247, R272). (DEDUCED: log entry 43.) -/
def Ctl.stateWord (c : Ctl) (k : Nat) : Nat :=
  let g := c.group k
  if !g.en then b2n g.frozen * 2 ^ 31
  else
    let left := match g.wtrEnd, g.wtrHeld with
      | some e, _ => (e - c.mtime) / secondTicks
      | none, some l => if g.frozen then l / secondTicks else 0
      | none, none => 0
    b2n g.frozen * 2 ^ 31 + 2 ^ 30 + b2n g.sel * 2 ^ 29 + g.req * 2 ^ 25 + g.feReq * 2 ^ 21 + g.cmd * 2 ^ 19 +
    b2n (g.cond 0) * 2 ^ 18 + b2n (g.cond 1) * 2 ^ 17 + b2n (g.cond 2) * 2 ^ 16 + b2n (g.cond 3) * 2 ^ 15 +
    b2n g.feLost * 2 ^ 14 + b2n g.feMism * 2 ^ 13 + b2n g.apsPend * 2 ^ 12 + min 1023 left

/-- A word of the protection table as it reads. (DEDUCED: log entry 43.) -/
def State.protWord (s : State) (i : Nat) : Nat := if i % 4 = 3 then s.ctl.stateWord (i / 4) else tget s.xc.prot i 0

/-- The form of an access to the protection table is allowed (R245). -/
def protForm (off size : Nat) : Bool := (size == 4 && off % 4 == 0) || (size == 8 && off % 8 == 0)

/-- An access of a master to the protection table (R245, R272). -/
def protTableAccess (m addr size : Nat) (write : Bool) (data : Nat) (fail : Bool) (s : State) : State :=
  let off := addr - 0x38000000
  let i := off / 4
  let last := i + size / 4 - 1
  if addr < 0x38000000 ∨ 0x38100000 ≤ addr then s
  else if !protForm off size then s.mapCtl (Ctl.dtError m addr size write 2)
  else if write then
    if last % 4 = 3 then s.mapCtl (Ctl.dtError m addr size write 1)
    else
      let p := tputD s.xc.prot i (data % 2 ^ 32) 0
      let p := if size = 8 then tputD p (i + 1) (data / 2 ^ 32 % 2 ^ 32) 0 else p
      { s with xc := { s.xc with prot := p } }.mapCtl (Ctl.answers 0)
  else if fail then
    (s.mapCtl (Ctl.dtError m addr size write 1)).mapCtl (fun c => if (c.group (i / 4)).frozen then c else c.freezeGroup (i / 4))
  else
    let v := s.protWord i + (if size = 8 then s.protWord (i + 1) * 2 ^ 32 else 0)
    s.mapCtl (Ctl.answers v)

/-! ### The meanings -/

/-- APPLY. -/
def execPgApply (m : Nat) (lg : Bool) (g : Nat) (fail : Bool) (s : State) : Host.Outcome State Fault Refusal :=
  onState (byMaster m R.PGS_CMD true (State.mapCtl (pgApply s.xc.prot m lg g fail))) s

/-- LO. -/
def execPgLockout (m : Nat) (lg : Bool) (g : Nat) (s : State) : Host.Outcome State Fault Refusal :=
  onState (byMaster m R.PGS_CMD true (State.mapCtl (pgLockout m lg g))) s

/-- FS. -/
def execPgForcedSwitch (m : Nat) (lg : Bool) (g : Nat) (s : State) : Host.Outcome State Fault Refusal :=
  onState (byMaster m R.PGS_CMD true (State.mapCtl (pgForcedSwitch m lg g))) s

/-- MS. -/
def execPgManualSwitch (m : Nat) (lg : Bool) (g : Nat) (s : State) : Host.Outcome State Fault Refusal :=
  onState (byMaster m R.PGS_CMD true (State.mapCtl (pgManualSwitch m lg g))) s

/-- CLEAR. -/
def execPgClear (m : Nat) (lg : Bool) (g : Nat) (s : State) : Host.Outcome State Fault Refusal :=
  onState (byMaster m R.PGS_CMD true (State.mapCtl (pgClear m lg g))) s

/-- A command that no OP of Table 9.4 names, or a lane group above 11. -/
def execPgCmdUnknown (m op : Nat) (lg : Bool) (g : Nat) (s : State) : Host.Outcome State Fault Refusal :=
  onState (byMaster m R.PGS_CMD true (State.mapCtl (pgCmdUnknown m op lg g))) s

/-- An access to the protection table. -/
def execProtTableAccess (m addr size : Nat) (write : Bool) (data : Nat) (fail : Bool) (s : State) :
    Host.Outcome State Fault Refusal :=
  onState (asAccess m addr size write (issued m addr size write (decide (0x38000000 ≤ addr ∧ addr < 0x38100000))
    (protTableAccess m addr size write data fail))) s

/-- A queued group is evaluated. -/
def execGroupEvaluation (fail : Bool) (us : Option Nat) (s : State) : Host.Outcome State Fault Refusal :=
  onTimed (groupEvaluation fail us) s

/-- A hold-off ends. -/
def execHoldoffExpiry (k i : Nat) (s : State) : Host.Outcome State Fault Refusal := onTimed (holdoffExpiry k i) s

/-- A wait-to-restore timer ends. -/
def execWtrExpiry (k : Nat) (s : State) : Host.Outcome State Fault Refusal := onTimed (wtrExpiry k) s

/-- No message was matched for 5 s. -/
def execFeLostExpiry (k : Nat) (s : State) : Host.Outcome State Fault Refusal := onTimed (feLostExpiry k) s

/-- The far-end selection differed for 50 ms. -/
def execFeMismExpiry (k : Nat) (s : State) : Host.Outcome State Fault Refusal := onTimed (feMismExpiry k) s

/-- A lane group's bridge starts or stops. -/
def execLgBridgeEffect (j : Nat) (s : State) : Host.Outcome State Fault Refusal := onTimed (lgBridgeEffect j) s

end Sys2Proof.Machine
end

