-- ==== Sys2Proof/Machine/Operands.lean ====
section
/-! DEFINITION. The operands of an access on the bus matrix: the target that an address reaches for a master (R24 to R29, R427,
R428, R430, R436, R530), and the accesses to every target but the register pages. -/

namespace Sys2Proof.Machine

/-- What an address reaches. -/
inductive Target where
  /-- the boot ROM, at an offset -/
  | rom (o : Nat)
  /-- the working SRAM -/
  | sram (o : Nat)
  /-- the local memory of a core -/
  | lmem (core o : Nat)
  /-- the scratchpad, directly or through a casement window -/
  | spad (o : Nat)
  /-- the register pages: page × 0x1000 + offset -/
  | reg (a : Nat)
  /-- a connection-page or selector window -/
  | page
  /-- the protection table -/
  | prot
  /-- an LPDDR4X byte -/
  | ddr (b : Nat)
  /-- the default target, with its CAUSE -/
  | bad (cause : Nat)
  deriving DecidableEq, Repr

/-- A memory window accepts an access: naturally aligned, 8 to 64 bits (R428). The cipher engine makes 64-bit accesses for a core too;
what a core issues itself is narrower (`Ctl.busTarget`). -/
def memForm (a size : Nat) : Bool := (size == 1 || size == 2 || size == 4 || size == 8) && a % size == 0

/-- The host writes working SRAM while a host image is being judged (R57). -/
def Ctl.hostImageHeld (c : Ctl) : Bool :=
  c.on F.TOP_HOSTBOOT_HB_READY && !c.on F.TOP_HOSTBOOT_HB_DONE && !c.on F.TOP_HOSTBOOT_HB_FAIL

/-- Read-only memory: a write has CAUSE 1. -/
def romTarget (o : Nat) (write : Bool) : Target := if write then .bad 1 else .rom o

/-- Working SRAM, refused to the host's writes during host boot. -/
def Ctl.sramTarget (c : Ctl) (m o : Nat) (write : Bool) : Target :=
  if write && m == 4 && c.hostImageHeld then .bad 1 else .sram o

/-- The bytes that a window may reach: those below the parity region of the fitted capacity, or of the greatest capacity that a part has
while the fitted one is not known (R29, R432). (DESIGN CHOICE: log entry 63.) -/
def Ctl.ddrReach (c : Ctl) : Nat := if c.ddrCap = 0 then 2 ^ 33 - 2 ^ 27 else c.ddrTop

/-- LPDDR4X byte `b` through a window: an absent byte comes before a controller that is not ready (R530). (DESIGN CHOICE: log entry 63.) -/
def Ctl.ddrTarget (c : Ctl) (b : Nat) : Target :=
  if c.ddrReach ≤ b then .bad 0 else if !c.on F.MEM_STAT_READY then .bad 1 else .ddr b

/-- A memory target once the form of the access is judged. -/
def formed (a size : Nat) (t : Target) : Target := if memForm a size then t else .bad 2

/-- The same for a target that may be absent: CAUSE 0 comes first (R530). -/
def present (a size : Nat) (t : Target) : Target := if t = .bad 0 then t else formed a size t

/-- The target of an access (Table 1.5, Table 15.5). (DEDUCED: log entry 73.) -/
def Ctl.target (c : Ctl) (m a size : Nat) (write : Bool) : Target :=
  if a < 0x00100000 then
    if c.on F.TOP_REMAP_REMAP then formed a size (c.sramTarget m a write)
    else if a < 0x10000 then formed a size (romTarget a write) else .bad 0
  else if 0x01000000 ≤ a ∧ a < 0x01010000 then formed a size (romTarget (a - 0x01000000) write)
  else if 0x02000000 ≤ a ∧ a < 0x02100000 then formed a size (c.sramTarget m (a - 0x02000000) write)
  else if 0x0F000000 ≤ a ∧ a < 0x0F010000 then formed a size (if m < 4 then .lmem m (a - 0x0F000000) else .bad 3)
  else if 0x10000000 ≤ a ∧ a < 0x10400000 then formed a size (.spad (a - 0x10000000))
  else if 0x11000000 ≤ a ∧ a < 0x11100000 then
    let w := (a - 0x11000000) / 0x10000
    if !c.on (F.SPM_CASE_CFG_EN w) then .bad 0
    else
      let len := c.get (F.SPM_CASE_CFG_SIZE w) * 64
      formed a size (.spad (c.get (F.SPM_CASE_CFG_BASE w) * 64 + a % 0x10000 % max 1 len))
  else if 0x20000000 ≤ a ∧ a < 0x21000000 then .reg (a - 0x20000000)
  else if (pageLoc a).isSome then .page
  else if 0x38000000 ≤ a ∧ a < 0x38100000 then .prot
  else if 0x80000000 ≤ a ∧ a < 0xC0000000 then present a size (c.ddrTarget (a - 0x80000000))
  else if 0xC0000000 ≤ a ∧ a < 0x100000000 then
    if 6 < m then formed a size (.bad 3)
    else present a size (c.ddrTarget (c.get (F.MEM_SEG_SEG m) * 2 ^ 30 + (a - 0xC0000000)))
  else .bad 0

/-- The bytes of an access as a number, least significant byte at the lowest address (R483), or `none` for an error response. -/
abbrev Access := Option Nat × State

/-- An error response of the default target. -/
def State.accessError (m a size : Nat) (write : Bool) (cause : Nat) (s : State) : Access :=
  (none, s.mapCtl (Ctl.dtError m a size write cause))

/-- The parity failures that touch bytes `[a, a + n)` of working SRAM. -/
def sramFaults (fs : List ParityFault) (a n : Nat) : List Bool :=
  fs.filterMap fun f => match f with
    | .sram o fail => if a ≤ o ∧ o < a + n then some fail else none
    | _ => none

/-- The entries or selector halves of a window access whose read fails, as `connWindowRead` takes them: those whose replay passes, or
with `fail` those whose replay fails (R193). (DEDUCED: log entry 37.) -/
def windowFaults (fs : List ParityFault) (a size : Nat) (fail : Bool) : Nat :=
  fs.foldl (fun w f => match pageLoc a, f with
    | some (.entry _ k), .entry j b => if b == fail ∧ k ≤ j ∧ j < k + size / 4 then w ||| 2 ^ (j - k) else w
    | some (.selector _ i half), .selector j b h => if b == fail ∧ i = j then w ||| (if size = 8 then h % 4 else b2n (bit h half)) else w
    | _, _ => w) 0

/-- A word of the protection table that an access reads fails after replay (R272). -/
def protFault (fs : List ParityFault) (a size : Nat) : Bool :=
  fs.any fun f => match f with
    | .prot w => decide (a ≤ 0x38000000 + 4 * w ∧ 4 * w + 0x38000000 < a + size)
    | _ => false

/-- The parity failures that touch bytes of a core's local memory. -/
def localFaults (fs : List ParityFault) (core a n : Nat) : List Bool :=
  fs.filterMap fun f => match f with
    | .coreMem k o fail => if k = core ∧ a ≤ o ∧ o < a + n then some fail else none
    | _ => none

/-- A local-memory read fails parity (R420). -/
def Ctl.localParity (core : Nat) (fail : Bool) (c : Ctl) : Ctl :=
  let c := c.occ 0x03 (b2n !fail)
  if fail then (c.count (F.CPX_CORE_STAT_PAR core) 1).raise 0x048 0 [] else c

/-- A read of a memory target: the bytes, or an error response when they fail parity or are poisoned (R420, R421, R434). The
software masters and the DMA engines receive an error response (`soft`); the cipher engine receives the read as poisoned, but for local
memory, whose failed read ends with an error response for every master (R420). (DEDUCED: log entry 73.) -/
def State.memRead (soft : Bool) (m a size : Nat) (t : Target) (fs : List ParityFault) (s : State) : Access :=
  let fails (s : State) : Access := if soft then s.accessError m a size false 1 else (none, s)
  let done (l : List Byte) (s : State) : Access := (some (leNat l), s)
  match t with
  | .rom o => done ((List.range size).map (fun i => Config.romByte (o + i))) s
  | .sram o =>
    let hits := sramFaults fs o size
    let s := s.mapCtl fun c => hits.foldl (fun c f => c.spmParity m a f) c
    if hits.any id then fails s else done (tbytes s.mem.sram o size) s
  | .lmem k o =>
    let hits := localFaults fs k o size
    let s := s.mapCtl fun c => hits.foldl (fun c f => c.localParity k f) c
    if hits.any id then s.accessError m a size false 1 else done (tbytes s.mem.lmem (k * 65536 + o) size) s
  | .spad o =>
    let hits := spadFaults fs o size
    let s := s.mapCtl fun c => hits.foldl (fun c f => c.spmParity m (0x10000000 + o) f) c
    if hits.any id then fails s else done (tbytes s.mem.spad o size) s
  | .ddr b =>
    let hits := ddrFaults fs b size
    let s := s.mapCtl fun c => (hits.foldl (fun c f => c.ddrParity m b f) c).occ 0x0D 1
    if hits.any id then fails s
    else if s.mem.poisoned b size then fails (s.mapCtl (Ctl.memPoison m b))
    else done (tbytes s.mem.ddr b size) s
  | .page =>
    let s := connWindowRead m a size (windowFaults fs a size false) (windowFaults fs a size true) { s with ctl := { s.ctl with answer := .error } }
    (match s.ctl.answer with | .data v => some v | _ => none, s)
  | .prot =>
    let s := protTableAccess m a size false 0 (protFault fs a size) { s with ctl := { s.ctl with answer := .error } }
    (match s.ctl.answer with | .data v => some v | _ => none, s)
  | .reg _ => s.accessError m a size false 2
  | .bad cause => s.accessError m a size false cause

/-- A write to a memory target. -/
def State.memWrite (m a size data : Nat) (t : Target) (fs : List ParityFault) (s : State) : Access :=
  let l := leBytes size data
  let ok (mem : Mem) : Access := (some 0, { s with mem, ctl := s.ctl.breakResv m a size })
  match t with
  | .sram o => ok { s.mem with sram := tputBytes s.mem.sram o l }
  | .lmem k o => ok { s.mem with lmem := tputBytes s.mem.lmem (k * 65536 + o) l }
  | .spad o => ok (s.mem.spadWrite o l)
  | .ddr b => (some 0, (s.mapCtl (Ctl.breakResv m a size)).ddrStore m b l fs)
  | .page =>
    let s := standbyWindowWrite m a size data { s with ctl := { s.ctl with answer := .error } }
    (match s.ctl.answer with | .data v => some v | _ => none, s)
  | .prot =>
    let s := protTableAccess m a size true data false { s with ctl := { s.ctl with answer := .error } }
    (match s.ctl.answer with | .data v => some v | _ => none, s)
  | .reg _ => s.accessError m a size true 2
  | .rom _ => s.accessError m a size true 1
  | .bad cause => s.accessError m a size true cause

/-- An access is counted: by its master, and by the scratchpad bank that serves it (Table 16.3, R422). (DEDUCED: log entry 66.) -/
def Ctl.accessed (m : Nat) (t : Target) (c : Ctl) : Ctl :=
  match t with
  | .spad o => c.bankAccess m o
  | _ => c.busAccess m

/-- A register that a map names, or a header register. -/
def regExists (p o : Nat) : Bool := (pageBlock p).isSome && (decide (o < 0x40) || (regEntry p o).isSome)

/-- The CAUSE of an engine's access to the register window: a DMA engine, and the cipher engine whatever master ID it carries, reach no
register (R480); an absent register and a wrong form come first (R530). -/
def engRegCause (a size : Nat) : Nat :=
  if !regExists (a / 0x1000) (a / 4 * 4 % 0x1000) then 0 else if size = 4 ∧ a % 4 = 0 then 3 else 2

/-- A read that a DMA engine or the cipher engine makes for a master. -/
def State.engRead (soft : Bool) (m a size : Nat) (fs : List ParityFault) (s : State) : Access :=
  match s.ctl.target m a size false with
  | .reg x => s.accessError m a size false (engRegCause x size)
  | t => (s.mapCtl (Ctl.accessed m t)).memRead soft m a size t fs

/-- A write that a DMA engine or the cipher engine makes for a master. -/
def State.engWrite (m a size data : Nat) (fs : List ParityFault) (s : State) : Access :=
  match s.ctl.target m a size true with
  | .reg x => s.accessError m a size true (engRegCause x size)
  | t => (s.mapCtl (Ctl.accessed m t)).memWrite m a size data t fs

/-- Bytes read by an engine in naturally aligned accesses, or `none` once one of them is answered with an error. The fuel is the
number of bytes. -/
def engReadBytes (soft : Bool) (m : Nat) (fs : List ParityFault) : Nat → Nat → Nat → State → Option (List Byte) × State
  | 0, _, _, s => (some [], s)
  | k + 1, a, n, s =>
    if n = 0 then (some [], s)
    else
      let z := pieceSize a a n
      match s.engRead soft m a z fs with
      | (none, s) => (none, s)
      | (some v, s) =>
        match engReadBytes soft m fs k (a + z) (n - z) s with
        | (none, s) => (none, s)
        | (some l, s) => (some (leBytes z v ++ l), s)

/-- Bytes written by an engine: how many were written before an error response, and whether there was none. -/
def engWriteBytes (m : Nat) (fs : List ParityFault) : Nat → Nat → List Byte → State → (Nat × Bool) × State
  | 0, _, _, s => ((0, true), s)
  | k + 1, a, l, s =>
    if l.isEmpty then ((0, true), s)
    else
      let z := pieceSize a a l.length
      match s.engWrite m a z (leNat (l.take z)) fs with
      | (none, s) => ((0, false), s)
      | (some _, s) =>
        let r := engWriteBytes m fs k (a + z) (l.drop z) s
        ((r.1.1 + z, r.1.2), r.2)

end Sys2Proof.Machine
end

