-- ==== Sys2Proof/Machine/Crypto.lean ====
section
/-! DEFINITION. AES and GCM (R385, R386, R408): AES-128 and AES-256 forward, GHASH, and the two ways of GCM, with a 96-bit IV
as NIST SP 800-38D defines it. Blocks are lists of 16 bytes as numbers. -/

namespace Sys2Proof.Machine

/-! ### AES -/

/-- Multiplication by x in GF(2⁸). -/
def xtime (a : Nat) : Nat := if 128 ≤ a then (a * 2 - 256) ^^^ 0x1B else a * 2

/-- Multiplication in GF(2⁸), by the low `k` bits of the second factor. -/
def gfMul : Nat → Nat → Nat → Nat
  | 0, _, _ => 0
  | k + 1, a, b => (if b % 2 = 1 then a else 0) ^^^ gfMul k (xtime a) (b / 2)

/-- The inverse in GF(2⁸), and 0 of 0: the 254th power. -/
def gfInv (a : Nat) : Nat :=
  let m (x y : Nat) : Nat := gfMul 8 x y
  let a2 := m a a
  let a3 := m a2 a
  let a6 := m a3 a3
  let a7 := m a6 a
  let a14 := m a7 a7
  let a15 := m a14 a
  let a30 := m a15 a15
  let a31 := m a30 a
  let a62 := m a31 a31
  let a63 := m a62 a
  let a126 := m a63 a63
  let a127 := m a126 a
  m a127 a127

/-- A byte rotated left. -/
def rotl8 (a n : Nat) : Nat := (a * 2 ^ n) % 256 + a / 2 ^ (8 - n)

/-- The S-box. -/
def sbox (a : Nat) : Nat :=
  let b := gfInv a
  b ^^^ rotl8 b 1 ^^^ rotl8 b 2 ^^^ rotl8 b 3 ^^^ rotl8 b 4 ^^^ 0x63

/-- The S-box as a list. -/
def sboxTable : List Nat := (List.range 256).map sbox

/-- The S-box by its list. -/
def subByte (t : List Nat) (a : Nat) : Nat := t.getD a 0

/-- Two lists combined by exclusive-or. -/
def xorList (a b : List Nat) : List Nat := List.zipWith (· ^^^ ·) a b

/-- The words of the key schedule: `fuel` more words of a key of `nk` words, most recent first. -/
def keyWords (t : List Nat) (nk : Nat) : Nat → Nat → Nat → List (List Nat) → List (List Nat)
  | 0, _, _, ws => ws
  | fuel + 1, i, rcon, ws =>
    let last := ws.headD []
    let old := ws.getD (nk - 1) []
    let tmp :=
      if i % nk = 0 then xorList ((last.drop 1 ++ last.take 1).map (subByte t)) [rcon, 0, 0, 0]
      else if nk = 8 ∧ i % nk = 4 then last.map (subByte t)
      else last
    keyWords t nk fuel (i + 1) (if i % nk = 0 then xtime rcon else rcon) (xorList old tmp :: ws)

/-- A list cut into pieces of `n`; the fuel bounds their number. -/
def pieces (n : Nat) : Nat → List Nat → List (List Nat)
  | 0, _ => []
  | k + 1, l => if l.isEmpty then [] else l.take n :: pieces n k (l.drop n)

/-- The round keys of a key of 16 or 32 bytes, 16 bytes each. -/
def roundKeys (t : List Nat) (key : List Nat) : List (List Nat) :=
  let nk := key.length / 4
  let total := 4 * (nk + 7)
  pieces 16 (nk + 7) ((keyWords t nk (total - nk) nk 1 ((pieces 4 nk key).reverse)).reverse.flatten)

/-- ShiftRows of a block held column by column. -/
def shiftRows (b : List Nat) : List Nat := [0, 5, 10, 15, 4, 9, 14, 3, 8, 13, 2, 7, 12, 1, 6, 11].map (fun i => b.getD i 0)

/-- MixColumns of one column. -/
def mixColumn (c : List Nat) : List Nat :=
  match c with
  | [a, b, d, e] =>
    [xtime a ^^^ xtime b ^^^ b ^^^ d ^^^ e, a ^^^ xtime b ^^^ xtime d ^^^ d ^^^ e, a ^^^ b ^^^ xtime d ^^^ xtime e ^^^ e,
      xtime a ^^^ a ^^^ b ^^^ d ^^^ xtime e]
  | _ => c

/-- The rounds after the first key addition. -/
def aesRounds (t : List Nat) : List (List Nat) → List Nat → List Nat
  | [], b => b
  | [k], b => xorList (shiftRows (b.map (subByte t))) k
  | k :: ks, b => aesRounds t ks (xorList (((pieces 4 4 (shiftRows (b.map (subByte t)))).map mixColumn).flatten) k)

/-- A prepared cipher: the S-box and the round keys. -/
structure AesKey where
  box : List Nat
  rks : List (List Nat)
  deriving DecidableEq, Repr

/-- A key prepared. -/
def aesKey (key : List Byte) : AesKey := let t := sboxTable; ⟨t, roundKeys t (key.map BitVec.toNat)⟩

/-- A block enciphered. -/
def AesKey.block (k : AesKey) (b : List Nat) : List Nat :=
  match k.rks with
  | [] => b
  | r :: rs => aesRounds k.box rs (xorList b r)

/-! ### GHASH and GCM -/

/-- The number of a block, most significant byte first. -/
def blockNat (b : List Nat) : Nat := b.foldl (fun a x => a * 256 + x) 0

/-- A number as a block of 16 bytes. -/
def natBlock (v : Nat) : List Nat := (beBytes 16 v).map BitVec.toNat

/-- Multiplication in GF(2¹²⁸) as GCM orders its bits, over the low `k` bits of `x` from the top. -/
def ghMul : Nat → Nat → Nat → Nat → Nat
  | 0, _, _, z => z
  | k + 1, x, v, z => ghMul k x (if v % 2 = 1 then (v / 2) ^^^ (0xE1 * 2 ^ 120) else v / 2) (if bit x k then z ^^^ v else z)

/-- GHASH carried on over blocks. -/
def ghash (h : Nat) (acc : Nat) (blocks : List (List Nat)) : Nat :=
  blocks.foldl (fun a b => ghMul 128 (a ^^^ blockNat b) h 0) acc

/-- Bytes as blocks, the last padded with zeros. -/
def padBlocks (l : List Byte) : List (List Nat) :=
  let n := (l.length + 15) / 16
  pieces 16 n (l.map BitVec.toNat ++ List.replicate (16 * n - l.length) 0)

/-- The hash key. -/
def AesKey.hashKey (k : AesKey) : Nat := blockNat (k.block (List.replicate 16 0))

/-- The counter block of an IV. -/
def ctrBlock (iv : List Byte) (n : Nat) : List Nat := iv.map BitVec.toNat ++ (beBytes 4 n).map BitVec.toNat

/-- Data through the keystream from counter `n`; the fuel is the number of blocks. -/
def AesKey.ctr (k : AesKey) (iv : List Byte) : Nat → Nat → List Byte → List Byte
  | 0, _, _ => []
  | f + 1, n, l =>
    if l.isEmpty then []
    else
      List.zipWith (fun (b : Byte) x => b ^^^ BitVec.ofNat 8 x) (l.take 16) (k.block (ctrBlock iv n)) ++ AesKey.ctr k iv f (n + 1) (l.drop 16)

/-- The tag of 16 bytes from a running GHASH and the lengths of AAD and ciphertext in bytes (R386). -/
def AesKey.tag (k : AesKey) (iv : List Byte) (h acc aLen cLen : Nat) : List Byte :=
  let y := ghMul 128 (acc ^^^ (aLen * 8 * 2 ^ 64 + cLen * 8)) h 0
  beBytes 16 (y ^^^ blockNat (k.block (ctrBlock iv 1)))

/-- GMAC of associated data. -/
def gmac (key iv aad : List Byte) : List Byte :=
  let k := aesKey key
  let h := k.hashKey
  k.tag iv h (ghash h 0 (padBlocks aad)) aad.length 0

/-- GCM encryption: ciphertext and tag. -/
def gcmSeal (key iv aad plain : List Byte) : List Byte × List Byte :=
  let k := aesKey key
  let h := k.hashKey
  let c := k.ctr iv ((plain.length + 15) / 16) 2 plain
  (c, k.tag iv h (ghash h (ghash h 0 (padBlocks aad)) (padBlocks c)) aad.length c.length)

/-- GCM decryption: the plaintext, and whether the tag holds. -/
def gcmOpen (key iv aad cipher tag : List Byte) : List Byte × Bool :=
  let k := aesKey key
  let h := k.hashKey
  let y := ghash h (ghash h 0 (padBlocks aad)) (padBlocks cipher)
  (k.ctr iv ((cipher.length + 15) / 16) 2 cipher, k.tag iv h y aad.length cipher.length == tag)

end Sys2Proof.Machine
end

