-- ==== Sys2Proof/Machine/Life.lean ====
section
/-! DEFINITION. The life record (R467 to R471): LIF_DATA, the hourly checkpoint, the speed-index history and the fault
records. -/

namespace Sys2Proof.Machine

/-- Power-on hours lie in 64 rotating words of 0x5000; power cycles, the five reset causes and the RECOVERY entries follow. (DESIGN CHOICE: log entry 71.) -/
def lifHours : Nat := 0x5000

/-- The word of power cycles. (DESIGN CHOICE: log entry 71.) -/
def lifCycles : Nat := 0x5100

/-- The words of the reset causes. (DESIGN CHOICE: log entry 71.) -/
def lifCauses : Nat := 0x5104

/-- The word of RECOVERY entries. (DESIGN CHOICE: log entry 71.) -/
def lifRecoveries : Nat := 0x5118

/-- The temperature histogram (Table 16.5). -/
def lifHist : Nat := 0x6000

/-- The speed-index history (Table 16.5). -/
def lifSpeed : Nat := 0x7000

/-- The fault records (Table 16.5). -/
def lifFaults : Nat := 0xA000

/-- The block write counts (Table 16.5). -/
def lifWear : Nat := 0xB000

/-- A word of the life record, most significant byte first. -/
def Mem.mramWord (m : Mem) (a : Nat) : Nat := beNat (m.mramBytes a 4)

/-- A word written to the life record. -/
def Mem.mramPut (a v : Nat) (m : Mem) : Mem := m.mramWrite a (beBytes 4 v)

/-- The register values that mirror the life record: LIF_POH and LIF_CYCLES. -/
def Ctl.lifRegs (c : Ctl) : Ctl :=
  (c.setReg R.LIF_POH (BitVec.ofNat 32 c.life.hours)).setReg R.LIF_CYCLES (BitVec.ofNat 32 c.life.cycles)

/-- The entries of a list of words, with their addresses. -/
def putWords : Nat → List Nat → Mem → Mem
  | _, [], m => m
  | a, w :: t, m => putWords (a + 4) t (m.mramPut a w)

/-- The block with the highest write count. -/
def wearHighest (t : Tbl Nat) : Nat := (t.foldl (fun (a : Nat × Nat) p => if a.2 < p.2 then p else a) (0, 0)).1

/-- A block of the firmware area takes `n` word writes; WEAR is raised when its count first exceeds LIF_WEAR_THR (R471). (DESIGN CHOICE: log entry 71.) -/
def Ctl.wearAdd (block n : Nat) (c : Ctl) : Ctl :=
  let old := tget c.life.wear block 0
  let new := satAdd 32 old n
  let thr := (c.reg R.LIF_WEAR_THR).toNat
  let c := { c with life := { c.life with wear := tput c.life.wear block new } }
  (c.set F.LIF_WEAR_BLOCK (wearHighest c.life.wear)).raiseIf (decide (old ≤ thr ∧ thr < new)) 0x053 1

/-- A word that has been written mismatches a second time: MRAM_FAIL, and what the word holds is free (R467). (DESIGN CHOICE: log entry 71.) -/
def State.mramFail (a : Nat) (s : State) : State :=
  let r := s.ctl.takeFree 32
  let c := r.2.sets [(F.LIF_STAT_WFAIL, 1), (F.LIF_STAT_OFS, a)]
  { s with ctl := c.raise 0x053 2 [], mem := s.mem.mramPut a r.1 }

/-- The device has written words of the life record and reads each back: those that it has been told of, and worn ones, mismatch a second
time (R467). (DESIGN CHOICE: log entry 71.) -/
def State.mramCheck (words fails : List Nat) (s : State) : State :=
  (words.filter fun a => fails.contains a || s.mem.mramWorn.contains a).foldl (fun s a => s.mramFail a) s

/-- The device writes words of the life record and reads each back (R467). -/
def State.lifWrites (ws : List (Nat × Nat)) (fails : List Nat) (s : State) : State :=
  State.mramCheck (ws.map Prod.fst) fails { s with mem := ws.foldl (fun m q => m.mramPut q.1 q.2) s.mem }

/-- Words of the life record have worn out (R467). (DESIGN CHOICE: log entry 71.) -/
def State.wearOut (fs : List ParityFault) (s : State) : State :=
  let l := fs.filterMap fun f => match f with
    | .mram a => some a
    | _ => none
  { s with mem := { s.mem with mramWorn := s.mem.mramWorn ++ l.filter fun a => !s.mem.mramWorn.contains a } }

/-- The next LIF_ADDR. -/
def Ctl.lifNext (c : Ctl) : Ctl := c.set F.LIF_ADDR_ADDR (c.get F.LIF_ADDR_ADDR + 1)

/-- A write of LIF_DATA: the word is written and read back, a mismatch is retried once, and a second one is MRAM_FAIL (R467,
R468). Below 0x08_0000 it completes with an error. -/
def lifDataWrite (m : Nat) (value : Word) (misses : Nat) (s : State) : State :=
  let a := 4 * s.ctl.get F.LIF_ADDR_ADDR
  if a < 0x80000 then s.mapCtl (Ctl.dtError m (0x20000000 + R.LIF_DATA) 4 true 1)
  else
    let s := s.mapCtl (fun c => (c.wearAdd (a / 4096) (if misses = 0 && !s.mem.mramWorn.contains a then 1 else 2)).lifNext.answers 0)
    if 2 ≤ misses ∨ s.mem.mramWorn.contains a then s.mramFail a
    else { s with mem := s.mem.mramPut a value.toNat }

/-- A read of LIF_DATA (R468). -/
def lifDataRead (s : State) : State :=
  let a := 4 * s.ctl.get F.LIF_ADDR_ADDR
  s.mapCtl (fun c => c.lifNext.answers (s.mem.mramWord a))

/-- A power-on hour in ticks. (DESIGN CHOICE: log entry 71.) -/
def hourTicks : Nat := 3600 * secondTicks

/-- The words of a checkpoint: hours, histogram, write counts, and the RECOVERY entries (R468). -/
def Life.checkpoint (l : Life) : List (Nat × Nat) :=
  (lifHours + 4 * (l.hours % 64), l.hours) :: l.hist.mapIdx (fun i n => (lifHist + 4 * i, n)) ++
    l.wear.map (fun q => (lifWear + 4 * q.1, q.2)) ++ [(lifRecoveries, l.recoveries)]

/-- The checkpoint of a power-on hour (R468). (DEDUCED, DESIGN CHOICE: log entries 5, 24.) -/
def lifeCheckpoint (fails : List Nat) (s : State) : State :=
  let due := s.ctl.life.hourEnd
  if !s.ctl.dueBy due then s
  else
    let l := { s.ctl.life with hours := s.ctl.life.hours + 1, hourEnd := due + hourTicks }
    { s with ctl := { s.ctl.advMoment due with life := l }.lifRegs }.lifWrites l.checkpoint fails

/-- A speed-index entry is appended at the first valid measurement after each 720 power-on hours (R469). -/
def siHistoryAppend (s : State) : State :=
  let c := s.ctl
  let k := c.mgn.history.length
  if c.life.hours < c.mgn.historyDue ∨ 512 ≤ k then s
  else
    let avg := c.get F.MGN_SI_SI_AVG
    let e := beBytes 4 c.life.hours ++ beBytes 2 avg ++ beBytes 2 (c.get F.MGN_AVS_STAT_SET_MV)
    State.mramCheck [lifSpeed + 8 * k, lifSpeed + 8 * k + 4] []
      { s with ctl := { c with mgn := { c.mgn with history := c.mgn.history ++ [avg], historyDue := (c.life.hours / 720 + 1) * 720 } }
               mem := s.mem.mramWrite (lifSpeed + 8 * k) e }

/-! ### Fault records (R470, Table 16.6) -/

/-- The content of a fault record after its SEQ. -/
def Ctl.faultBody (c : Ctl) (writer m : Nat) (payload : List Byte) : List Byte :=
  [BitVec.ofNat 8 writer, BitVec.ofNat 8 m] ++ beBytes 6 c.fnN ++ beBytes 12 c.tb.sel ++ beBytes 4 c.life.hours ++
  [BitVec.ofNat 8 c.mode.code, BitVec.ofNat 8 (c.get F.TOP_RECOV_CAUSE_CAUSE), BitVec.ofNat 8 (wGet (c.reg R.TOP_RST_CAUSE) 7 0), 0] ++
  slice payload 0 224

/-- The highest SEQ stored. -/
def Mem.faultSeq (m : Mem) : Nat := (List.range 16).foldl (fun a i => max a (m.mramWord (lifFaults + 256 * i))) 0

/-- The words of the fault record that is written next. -/
def Mem.faultWords (m : Mem) : List Nat := (List.range 64).map fun w => lifFaults + 256 * ((m.faultSeq + 1) % 16) + 4 * w

/-- A fault record is written into position SEQ mod 16. -/
def Mem.faultWrite (body : List Byte) (m : Mem) : Mem :=
  let q := m.faultSeq + 1
  m.mramWrite (lifFaults + 256 * (q % 16)) (beBytes 4 q ++ body)

/-- The payload words LIF_FAULT_W. -/
def Ctl.faultPayload (c : Ctl) : List Byte := (List.range 56).flatMap (fun w => beBytes 4 (c.reg (R.LIF_FAULT_W w)).toNat)

/-- LIF_FAULT_GO starts a record of firmware; it is ignored while BUSY. -/
def faultRecordGo (m : Nat) (c : Ctl) : Ctl :=
  if c.on F.LIF_STAT_BUSY then c
  else { c.set F.LIF_STAT_BUSY 1 with life := { c.life with fault := some (c.faultBody 1 m c.faultPayload) } }

/-- The record is written, and FAULT_REC is raised. -/
def faultRecordDone (fails : List Nat) (s : State) : State :=
  match s.ctl.life.fault with
  | none => s
  | some b =>
    ({ s with mem := s.mem.faultWrite b }.mapCtl fun c =>
      ({ c with life := { c.life with fault := none } }.set F.LIF_STAT_BUSY 0).raise 0x053 0 []).mramCheck s.mem.faultWords fails

/-! ### The meanings -/

/-- A write of LIF_DATA. -/
def execLifDataWrite (m : Nat) (value : Word) (misses : Nat) (s : State) : Host.Outcome State Fault Refusal :=
  onState (byMaster m R.LIF_DATA true (lifDataWrite m value misses)) s

/-- A read of LIF_DATA; every master of the register window may make it. -/
def execLifDataRead (m : Nat) (s : State) : Host.Outcome State Fault Refusal :=
  onState (byMaster m R.LIF_DATA false lifDataRead) s

/-- A power-on hour ends. -/
def execLifeCheckpoint (fails : List Nat) (s : State) : Host.Outcome State Fault Refusal := onStateTimed (lifeCheckpoint fails) s

/-- A write of LIF_FAULT_GO. -/
def execFaultRecordGo (m : Nat) (s : State) : Host.Outcome State Fault Refusal :=
  onState (byMaster m R.LIF_FAULT_GO true (State.mapCtl (faultRecordGo m))) s

/-- A fault record is complete. -/
def execFaultRecordDone (fails : List Nat) (s : State) : Host.Outcome State Fault Refusal := onState (faultRecordDone fails) s

end Sys2Proof.Machine
end

