-- ==== Sys2Proof/Machine/Cipher.lean ====
section
/-! DEFINITION. The cipher engine (R385 to R406) and the sealer's jobs in it (R407 to R411). -/

namespace Sys2Proof.Machine

/-! ### Slots, IVs and reservations (R394, R399 to R401) -/

/-- A key slot. -/
def Ctl.slot (c : Ctl) (i : Nat) : KeySlot := tget c.cip.slots i {}

/-- Change a key slot. -/
def Ctl.setSlot (i : Nat) (k : KeySlot) (c : Ctl) : Ctl := { c with cip := { c.cip with slots := tput c.cip.slots i k } }

/-- The nonce area of a slot in the life record: 128 bytes, the first word its epoch with SIDE in bit 31, the second the high part
of R / 65,536, and 16 words from byte 64 that hold the low part in rotation (R400, Table 16.5). (DEDUCED: log entry 60.) -/
def nonceArea (i : Nat) : Nat := 0x8000 + 128 * i

/-- A slot's epoch and SIDE are stored. (DEDUCED: log entry 60.) -/
def Mem.putEpoch (i epoch : Nat) (side : Bool) (m : Mem) : Mem := m.mramPut (nonceArea i) (b2n side * 2 ^ 31 + epoch)

/-- A slot's reservation is stored, in the next word of the rotation. (DEDUCED: log entry 60.) -/
def Mem.putResv (i resv : Nat) (m : Mem) : Mem :=
  let q := resv / 65536
  let m := if q % 2 ^ 32 ≤ 1 then putWords (nonceArea i + 4) (q / 2 ^ 32 :: List.replicate 30 0) m else m
  m.mramPut (nonceArea i + 64 + 4 * (q % 16)) q

/-- The words of the nonce area that a stored reservation has written. -/
def resvWords (i resv : Nat) : List Nat :=
  let q := resv / 65536
  (if q % 2 ^ 32 ≤ 1 then (List.range 31).map fun k => nonceArea i + 4 + 4 * k else []) ++ [nonceArea i + 64 + 4 * (q % 16)]

/-- The reservation that the life record holds for a slot. -/
def Mem.getResv (m : Mem) (i : Nat) : Nat :=
  let lo := (List.range 16).foldl (fun a k => max a (m.mramWord (nonceArea i + 64 + 4 * k))) 0
  (m.mramWord (nonceArea i + 4) * 2 ^ 32 + lo) * 65536

/-- A generated IV (R399). -/
def ivBytes (label epoch ctr : Nat) : List Byte := BitVec.ofNat 8 label :: beBytes 3 epoch ++ beBytes 8 ctr

/-- A counter value of a slot is consumed: the reservation is moved on before the counter reaches it (R400), and a slot whose counter
can rise no further is EXHAUSTED (R401). (DEDUCED: log entry 60.) -/
def State.useCtr (i : Nat) (s : State) : Nat × State :=
  let k := s.ctl.slot i
  let v := k.ctr
  let grow := k.staged.isNone && decide (k.resv ≤ v + 1)
  let resv := if grow then ((v + 1) / 65536 + 1) * 65536 else k.resv
  let s := if grow then State.mramCheck (resvWords i resv) [] { s with mem := s.mem.putResv i resv } else s
  let out := decide (2 ^ 64 ≤ v + 1)
  (v, s.mapCtl fun c => (c.setSlot i { k with ctr := v + 1, resv, exhausted := k.exhausted || out }).raiseIf out 0x040 3)

/-- A seal slot holds a key with which a lane can be sealed (R157, R401). -/
def Ctl.sealKey (c : Ctl) (n : Nat) : Option KeyVal := if (c.slot n).exhausted then none else (c.slot n).key

/-! ### The latch (R390 to R393) -/

/-- Ticks since the start of system timing. -/
def Ctl.now (c : Ctl) : Nat := c.mtime

/-- Whole microseconds in a number of ticks of 204.8 MHz. -/
def ticksUs (n : Nat) : Nat := n * 10 / 2048

/-- The lease in µs, of the adopted record (R392). -/
def Ctl.leaseUs (c : Ctl) : Nat := min 2000 (max 10 (c.adoptedFld F.CIP_LEASE_LEASE))

/-- The SLR takes the latch: its wait is reported. -/
def Ctl.slrTakes (c : Ctl) : Ctl :=
  let w := if c.latch.slrWaiting then min 65535 (ticksUs (c.now - c.latch.asked)) else 0
  let c := c.sets [(F.SLR_WAIT_LAST, w), (F.SLR_WAIT_MAX, max w (c.get F.SLR_WAIT_MAX))]
  { c with latch := { c.latch with holder := some 10, since := c.now, slrWaiting := false } }

/-- The SLR requests the latch for the jobs that it has (R393). (DEDUCED: log entry 36.) -/
def Ctl.slrRequest (c : Ctl) : Ctl :=
  if c.cip.pend.isEmpty || c.latch.slrWaiting || c.latch.holder == some 10 then c
  else if c.latch.holder.isNone then c.slrTakes
  else { c with latch := { c.latch with slrWaiting := true, asked := c.now } }

/-- The latch is released: a waiting SLR holds it at once. -/
def Ctl.latchFree (c : Ctl) : Ctl :=
  let w := c.latch.slrWaiting
  let c := { c with latch := { c.latch with holder := none } }
  if w then c.slrTakes else c

/-- A read of CIP_LATCH (R390). -/
def latchAcquire (m tick : Nat) (c : Ctl) : Ctl :=
  let c := c.advTo tick
  match c.latch.holder with
  | none => { c with latch := { c.latch with holder := some m, since := c.now } }.answers (2 ^ 31 + m)
  | some h => c.answers (b2n (h == m) * 2 ^ 31 + h)

/-! ### The sealer's jobs (R408 to R411) -/

/-- The sealer needs a job that is neither waiting nor done. -/
def Ctl.slrWant (j : SlrJob) (c : Ctl) : Ctl :=
  if c.cip.pend.contains j || c.cip.ready.contains j then c
  else { c with cip := { c.cip with pend := c.cip.pend ++ [j] } }.slrRequest

/-- A mask requested on demand (R410). -/
def Ctl.slrDemand (j : SlrJob) (c : Ctl) : Ctl :=
  if c.cip.pend.contains j || c.cip.ready.contains j then c
  else { c with cip := { c.cip with demand := c.cip.demand ++ [j] } }.count F.SLR_CNT_OND_ON_DEMAND 1 |>.slrWant j

/-- A job's result is at hand. -/
def Ctl.slrReady (c : Ctl) (j : SlrJob) : Bool := c.cip.ready.contains j

/-- Jobs that a predicate names are forgotten. -/
def Ctl.slrDrop (p : SlrJob → Bool) (c : Ctl) : Ctl :=
  let keep (l : List SlrJob) : List SlrJob := l.filter (fun j => !p j)
  { c with cip := { c.cip with pend := keep c.cip.pend, ready := keep c.cip.ready, demand := keep c.cip.demand } }

/-- The engine refuses every job (R404, R405). (DEDUCED: log entry 59.) -/
def Ctl.engineOff (c : Ctl) : Bool := c.on F.CIP_STAT_LOCKED || c.on F.CIP_STAT_KAT_BUSY

/-- Sealing is enabled on a lane in some direction. -/
def Ctl.sealingOn (c : Ctl) : Bool := (List.range 24).any fun n => c.on (F.LOH_SEAL_TX_EN n) || c.on (F.LOH_SEAL_RX_EN n)

/-- ENGINE_UNAVAILABLE is raised when the condition of SLR HDR_STAT bit 0 begins (R415). -/
def Ctl.engineGone (was : Bool) (c : Ctl) : Ctl := c.raiseIf (!was && c.sealingOn && c.on F.CIP_STAT_LOCKED) 0x041 2

/-- Whether it holds. -/
def Ctl.engineMissing (c : Ctl) : Bool := c.sealingOn && c.on F.CIP_STAT_LOCKED

/-- An inverse check or the two GHASH results differ: the engine is locked (R404). -/
def Ctl.engineFault (c : Ctl) : Ctl := ((c.set F.CIP_STAT_LOCKED 1).raise 0x040 1 []).engineGone c.engineMissing

/-- The first `done` of the SLR's pending jobs are complete, and the others are not done. -/
def Ctl.slrDone (done : Nat) (c : Ctl) : Ctl :=
  let l := c.cip.pend.take done
  { c with cip := { c.cip with ready := c.cip.ready ++ l, pend := [] } }.count F.SLR_CNT_MASK_JOBS l.length

/-- The SLR has run its pending jobs, and releases the latch (R393); a locked engine refuses them, and the inverse check of one that fails
locks it, with the jobs before it done (R404). (DEDUCED: log entry 59.) -/
def slrJobsDone (tick : Nat) (mismatch : Option Nat) (c : Ctl) : Ctl :=
  let c := c.advTo tick
  if c.latch.holder ≠ some 10 then c
  else if c.engineOff then { c with cip := { c.cip with pend := [] } }.latchFree
  else match mismatch with
    | some done => ((c.slrDone done).engineFault).latchFree
    | none => (c.slrDone c.cip.pend.length).latchFree

/-! ### Starting a segment (R385 to R387, R394, R402) -/

/-- Randomised operation outside ACTIVE and STANDBY (R406). -/
def Ctl.randomised (c : Ctl) : Bool := c.mode != .active && c.mode != .standby

/-- A range `[a, a + n)` meets a range `[b, b + k)`. -/
def rangesMeet (a n b k : Nat) : Bool := decide (0 < n ∧ 0 < k ∧ a < b + k ∧ b < a + n)

/-- The operation writes output data. -/
def opWrites (op : Nat) : Bool := op == 1 || op == 2

/-- The data bytes of a segment: the GMAC operations take none. -/
def Ctl.segLenOf (c : Ctl) (op : Nat) : Nat := if opWrites op then c.get F.CIP_JOB_LEN_VALUE else 0

/-- The ranges of the segment are illegal: DST partly overlaps SRC or AAD (R387). -/
def Ctl.segOverlap (c : Ctl) (op : Nat) : Bool :=
  let dst := c.get F.CIP_JOB_DST_VALUE
  let src := c.get F.CIP_JOB_SRC_VALUE
  let n := c.segLenOf op
  opWrites op && ((dst != src && rangesMeet dst n src n) ||
    rangesMeet dst n (c.get F.CIP_JOB_AAD_VALUE) (c.get F.CIP_JOB_AADLEN_VALUE))

/-- The rules of R386 and R387 on lengths, with what the job has taken so far; the rules on LEN are those of every operation. (DEDUCED: log entry 58.) -/
def Ctl.segLengthsOk (c : Ctl) (op : Nat) (lenUsed : Bool) (aadSoFar dataSoFar : Nat) : Bool :=
  let aad := c.get F.CIP_JOB_AADLEN_VALUE
  (c.on F.CIP_JOB_CTL_LAST || (aad % 16 == 0 && c.get F.CIP_JOB_LEN_VALUE % 16 == 0)) && (!lenUsed || aad == 0) &&
    decide (aadSoFar + aad ≤ 2 ^ 32 ∧ dataSoFar + c.segLenOf op ≤ 2 ^ 32)

/-- The bytes of a tag (R386). -/
def tagBytes (code : Nat) : Nat := if code = 0 then 16 else if code = 1 then 12 else 8

/-- A segment is refused with a RESULT. -/
def Ctl.jobRefused (m result : Nat) (c : Ctl) : Ctl := (c.set F.CIP_JOB_STAT_RESULT result).set F.CIP_JOB_STAT_MASTER m

/-- The output of a job that has not completed must not be used (R402, Table 14.4). -/
def JobCtx.untrusted (j : JobCtx) : Bool := j.op == 1 || (j.op == 2 && j.flagged)

/-- The next segment of a suspended job that a zeroise has discarded (R398, Table 14.4). (DEDUCED: log entry 58.) -/
def Ctl.wipedRefused (m : Nat) (j : JobCtx) (c : Ctl) : Ctl :=
  { c with cip := { c.cip with wiped := tdel c.cip.wiped m } }.set F.CIP_JOB_STAT_UNTRUSTED (b2n j.untrusted) |>.jobRefused m 4

/-- The segment runs. -/
def Ctl.segStart (m : Nat) (ctx : JobCtx) (c : Ctl) : Ctl :=
  let ctx := { ctx with lenUsed := ctx.lenUsed || c.get F.CIP_JOB_LEN_VALUE != 0 }
  let g : Segment := { master := m, last := c.on F.CIP_JOB_CTL_LAST, aad := c.get F.CIP_JOB_AAD_VALUE
                       aadLen := c.get F.CIP_JOB_AADLEN_VALUE, src := c.get F.CIP_JOB_SRC_VALUE, dst := c.get F.CIP_JOB_DST_VALUE
                       len := c.segLenOf ctx.op, rand := c.randomised, ctx }
  { c with cip := { c.cip with seg := some g } }.sets
    [(F.CIP_JOB_STAT_BUSY, 1), (F.CIP_JOB_STAT_UNTRUSTED, 0), (F.CIP_JOB_STAT_MASTER, m), (F.CIP_JOB_STAT_RESULT, 0)]

/-- The slot may be used by a master for software jobs (Table 14.3, R395). -/
def Ctl.slotUsable (c : Ctl) (m i : Nat) : Bool := decide (24 ≤ i ∧ i < 47) && c.onBit (F.CIP_SLOT_POL_USE i) m

/-- The twelve bytes of CIP_JOB_IV. -/
def Ctl.jobIv (c : Ctl) : List Byte := (List.range 3).flatMap fun w => beBytes 4 (c.reg (R.CIP_JOB_IV w)).toNat

/-- The sixteen bytes of CIP_JOB_TAG. -/
def Ctl.jobTag (c : Ctl) : List Byte := (List.range 4).flatMap fun w => beBytes 4 (c.reg (R.CIP_JOB_TAG w)).toNat

/-- Bytes laid into registers, most significant first. -/
def Ctl.putRegBytes (r : Nat → Nat) (n : Nat) (l : List Byte) (c : Ctl) : Ctl :=
  (List.range n).foldl (fun c w => c.setReg (r w) (BitVec.ofNat 32 (beAt l (4 * w) 4))) c

/-- A first segment is accepted: a suspended job of the master is discarded, a staged key takes effect, and ENC and GEN consume an
IV (R387, R396, R399). -/
def State.jobBegin (m op : Nat) (s : State) : State :=
  let c := s.ctl
  let i := c.get F.CIP_JOB_CTL_SLOT
  let k := c.slot i
  let k := match k.staged with
    | some v => { k with key := some v, staged := none }
    | none => k
  let lost := (tfind c.cip.susp m).isSome
  let s := s.mapCtl fun c =>
    let c := { c with cip := { c.cip with susp := tdel c.cip.susp m, wiped := tdel c.cip.wiped m } }.setSlot i k
    if lost then c.count F.CIP_CNT_ABORT_JOBS 1 else c
  let kv := k.key.getD ⟨[], 0, false⟩
  let gen := op == 1 || op == 3
  let (v, s) := if gen then s.useCtr i else (0, s)
  let iv := if gen then ivBytes i kv.epoch v else s.ctl.jobIv
  let ctx : JobCtx := { op, slot := i, flagged := s.ctl.on F.CIP_JOB_CTL_POLICY, tagLen := tagBytes (s.ctl.get F.CIP_JOB_CTL_TAGLEN)
                        iv, key := kv.bytes }
  s.mapCtl fun c => ((if gen then c.putRegBytes R.CIP_JOB_IV 3 iv else c).set F.CIP_JOB_DONE_BYTES 0).segStart m ctx

/-- A held DEC is a single segment of at most 65,536 bytes (R402). -/
def Ctl.heldOk (c : Ctl) (op : Nat) : Bool :=
  op != 2 || c.on F.CIP_JOB_CTL_POLICY || (c.on F.CIP_JOB_CTL_LAST && decide (c.get F.CIP_JOB_LEN_VALUE ≤ 65536))

/-- The first refusal that a first segment meets, 0 for none: invalid arguments, a slot not permitted, no key, an exhausted slot. (DEDUCED: log entry 58.) -/
def Ctl.firstRefusal (c : Ctl) (m op : Nat) : Nat :=
  let i := c.get F.CIP_JOB_CTL_SLOT
  let k := c.slot i
  if !c.segLengthsOk op false 0 0 || c.segOverlap op || c.get F.CIP_JOB_CTL_TAGLEN = 3 || !c.heldOk op then 6
  else if !c.slotUsable m i then 11
  else if k.key.isNone && k.staged.isNone then 10
  else if (op = 1 ∨ op = 3) ∧ k.exhausted then 5
  else 0

/-- A later segment of a suspended job: 6, or 0 where it runs (R387). (DEDUCED: log entry 58.) -/
def Ctl.laterRefusal (c : Ctl) (j : JobCtx) : Nat :=
  if !c.segLengthsOk j.op j.lenUsed j.aadLen j.dataLen || c.segOverlap j.op then 6 else 0

/-- The operation of the segment that GO starts: that of the first segment. -/
def Ctl.jobOp (c : Ctl) (m : Nat) : Nat :=
  if c.on F.CIP_JOB_CTL_FIRST then c.get F.CIP_JOB_CTL_OP
  else match (tfind c.cip.susp m).or (tfind c.cip.wiped m) with
    | some j => j.op
    | none => c.get F.CIP_JOB_CTL_OP

/-- GO of an operation: a master that does not hold the latch is answered with an error, and a GO while a segment runs is
ignored. (DEDUCED: log entry 58.) -/
def jobGo (ops : List Nat) (m : Nat) (s : State) : State :=
  let c := s.ctl
  if c.latch.holder ≠ some m then s.mapCtl (Ctl.dtError m (0x20000000 + R.CIP_JOB_GO) 4 true 3)
  else if c.cip.seg.isSome || !ops.contains (c.jobOp m) then s
  else if c.engineOff then s.mapCtl (Ctl.jobRefused m 8)
  else
    let op := c.jobOp m
    if c.on F.CIP_JOB_CTL_FIRST then
      if !(1 ≤ op && op ≤ 4) then s.mapCtl (Ctl.jobRefused m 6)
      else
        let r := c.firstRefusal m op
        if r = 0 then s.jobBegin m op else s.mapCtl (Ctl.jobRefused m r)
    else match tfind c.cip.susp m with
      | none => match tfind c.cip.wiped m with
        | some j => s.mapCtl (Ctl.wipedRefused m j)
        | none => s.mapCtl (Ctl.jobRefused m 6)
      | some j =>
        let r := c.laterRefusal j
        if r = 0 then s.mapCtl fun c => { c with cip := { c.cip with susp := tdel c.cip.susp m } }.segStart m j
        else s.mapCtl (Ctl.jobRefused m r)

/-! ### Running a segment (R386, R388, R402 to R404) -/

/-- Where a run of data blocks stands. -/
structure DataRun where
  hash : Nat
  /-- bytes taken and bytes written -/
  took : Nat
  wrote : Nat
  ok : Bool
  out : List Byte
  st : State

/-- Data blocks of a segment through the engine: read, cipher, GHASH over the ciphertext, and (with `write`) write. The fuel is the
number of blocks. -/
def dataBlocks (k : AesKey) (h : Nat) (g : Segment) (write : Bool) (fs : List ParityFault) (stop : Nat) : Nat → DataRun → DataRun
  | 0, r => r
  | f + 1, r =>
    let n := min 16 (g.len - r.took)
    if n = 0 || stop ≤ r.took then r
    else match engReadBytes false g.master fs n (g.src + r.took) n r.st with
      | (none, s) => { r with ok := false, st := s }
      | (some l, s) =>
        let o := k.ctr g.ctx.iv 1 (2 + (g.ctx.dataLen + r.took) / 16) l
        let hash := ghash h r.hash (padBlocks (if g.ctx.op = 1 then o else l))
        if write then
          let w := engWriteBytes g.master fs n (g.dst + r.took) o s
          let r' : DataRun := ⟨hash, r.took + n, if w.1.2 then r.wrote + n else r.wrote, w.1.2, [], w.2⟩
          if w.1.2 then dataBlocks k h g write fs stop f r' else r'
        else dataBlocks k h g write fs stop f ⟨hash, r.took + n, r.wrote, true, r.out ++ o, s⟩

/-- The job ends with a RESULT that gives no output beyond what was written (Table 14.4). -/
def Ctl.jobAborted (result wrote : Nat) (g : Segment) (c : Ctl) : Ctl :=
  let c := { c with cip := { c.cip with seg := none } }.sets [(F.CIP_JOB_STAT_BUSY, 0), (F.CIP_JOB_STAT_RESULT, result),
    (F.CIP_JOB_STAT_UNTRUSTED, b2n g.ctx.untrusted), (F.CIP_JOB_DONE_BYTES, min (2 ^ 32 - 1) (c.get F.CIP_JOB_DONE_BYTES + wrote))]
  (c.count F.CIP_CNT_ABORT_JOBS 1).occ 0x08 1

/-- The part of a running segment's output that `done` data bytes give is written, and the job ends with a RESULT. -/
def State.abortJob (result done : Nat) (s : State) : State :=
  match s.ctl.cip.seg with
  | none => s
  | some g =>
    if g.ctx.untrusted then
      let k := aesKey g.ctx.key
      let r := dataBlocks k 0 g true [] (done / 16 * 16) (g.len / 16 + 1) ⟨0, 0, 0, true, [], s⟩
      r.st.mapCtl (Ctl.jobAborted result r.wrote g)
    else s.mapCtl (Ctl.jobAborted result 0 g)

/-- A verified or generated tag ends the job (R403). -/
def Ctl.jobEnded (result wrote : Nat) (c : Ctl) : Ctl :=
  let c := { c with cip := { c.cip with seg := none } }.sets [(F.CIP_JOB_STAT_BUSY, 0), (F.CIP_JOB_STAT_RESULT, result),
    (F.CIP_JOB_DONE_BYTES, min (2 ^ 32 - 1) (c.get F.CIP_JOB_DONE_BYTES + wrote))]
  ((c.count F.CIP_CNT_DONE_JOBS 1).occ 0x08 1).raiseIf (result == 2) 0x040 4

/-- The last segment has taken its data: the tag is given or checked; a held output whose write fails leaves DST unwritten (Table 14.4). (DEDUCED, DESIGN CHOICE: log entries 15, 58.) -/
def State.jobFinish (g : Segment) (k : AesKey) (h : Nat) (hash : Nat) (aadLen dataLen wrote : Nat) (out : List Byte) (fs : List ParityFault)
    (s : State) : State :=
  let tag := (k.tag g.ctx.iv h hash aadLen dataLen).take g.ctx.tagLen
  if g.ctx.op = 1 ∨ g.ctx.op = 3 then s.mapCtl fun c => (c.putRegBytes R.CIP_JOB_TAG 4 (slice tag 0 16)).jobEnded 1 wrote
  else
    let good := s.ctl.jobTag.take g.ctx.tagLen == tag
    if g.ctx.op = 2 ∧ !g.ctx.flagged ∧ good then
      let w := engWriteBytes g.master fs out.length g.dst out s
      if w.1.2 then w.2.mapCtl (Ctl.jobEnded 1 out.length) else { s with ctl := w.2.ctl }.mapCtl (Ctl.jobAborted 7 0 g)
    else
      s.mapCtl fun c => (c.set F.CIP_JOB_STAT_UNTRUSTED (b2n (!good && g.ctx.op == 2 && g.ctx.flagged))).jobEnded (if good then 1 else 2) wrote

/-- The running segment ends (R387, R388, R403, R404). -/
def jobSegmentEnd (faults : List ParityFault) (mismatch : Option Nat) (s : State) : State :=
  match s.ctl.cip.seg with
  | none => s
  | some g =>
    match mismatch with
    | some done => (s.abortJob 8 done).mapCtl Ctl.engineFault
    | none =>
      let k := aesKey g.ctx.key
      let h := k.hashKey
      match engReadBytes false g.master faults g.aadLen g.aad g.aadLen s with
      | (none, s) => s.mapCtl (Ctl.jobAborted 7 0 g)
      | (some aad, s) =>
        let hash := ghash h g.ctx.hash (padBlocks aad)
        let r := dataBlocks k h g g.ctx.untrusted faults g.len (g.len / 16 + 1) ⟨hash, 0, 0, true, [], s⟩
        if !r.ok then r.st.mapCtl (Ctl.jobAborted 7 r.wrote g)
        else if g.last then r.st.jobFinish g k h r.hash (g.ctx.aadLen + g.aadLen) (g.ctx.dataLen + g.len) r.wrote r.out faults
        else
          let ctx := { g.ctx with hash := r.hash, aadLen := g.ctx.aadLen + g.aadLen, dataLen := g.ctx.dataLen + g.len }
          r.st.mapCtl fun c =>
            ({ c with cip := { c.cip with seg := none, susp := tput c.cip.susp g.master ctx } }.sets
              [(F.CIP_JOB_STAT_BUSY, 0), (F.CIP_JOB_DONE_BYTES, min (2 ^ 32 - 1) (c.get F.CIP_JOB_DONE_BYTES + r.wrote))]).occ 0x08 1

/-- RELEASE of the latch by its holder; a segment that runs is aborted (R391). -/
def latchRelease (m tick done : Nat) (s : State) : State :=
  let s := s.mapCtl (Ctl.advTo tick)
  if s.ctl.latch.holder ≠ some m then s else (s.abortJob 9 done).mapCtl Ctl.latchFree

/-- The lease of the present holder has run out (R392). (DEDUCED, DESIGN CHOICE: log entries 5, 36.) -/
def leaseExpiry (tick done : Nat) (s : State) : State :=
  let s := s.mapCtl (Ctl.advTo tick)
  match s.ctl.latch.holder with
  | none => s
  | some h =>
    if ticksUs (s.ctl.now - s.ctl.latch.since) < s.ctl.leaseUs then s
    else (s.abortJob 3 done).mapCtl fun c =>
      ((c.sets [(F.CIP_LATCH_STAT_EXP_VALID, 1), (F.CIP_LATCH_STAT_EXP_ID, h)]).raise 0x040 0 []).latchFree.slrRequest

/-! ### Keys (R395 to R398, R401, R411) -/

/-- A load or zeroise is refused (R396, R398). -/
def Ctl.keyRefused (result slot : Nat) (c : Ctl) : Ctl :=
  (c.sets [(F.CIP_KEY_STAT_RESULT, result), (F.CIP_KEY_STAT_SLOT, slot)]).raise 0x040 6 []

/-- MODE of the slot permits a load now (R395). -/
def Ctl.loadMode (c : Ctl) (i : Nat) : Bool :=
  let p := c.get (F.CIP_SLOT_POL_MODE i)
  p == 1 || (p == 2 && c.mode == .commission)

/-- The key that CIP_KEY_W holds: 16 or 32 bytes. -/
def Ctl.keyWordBytes (c : Ctl) (big : Bool) : List Byte :=
  (List.range (if big then 8 else 4)).flatMap fun w => beBytes 4 (c.reg (R.CIP_KEY_W w)).toNat

/-- The first transmit mask of a seal key that waits to take effect is requested at the load (R409). (DEDUCED: log entry 36.) -/
def Ctl.stagedMask (n : Nat) (c : Ctl) : Ctl :=
  let c := c.slrDrop fun j => j.lane == n && j.kind == 4
  if n < 24 ∧ c.on (F.LOH_SEAL_TX_EN n) then c.slrWant ⟨n, 4, 1⟩ else c

/-- LOAD (R396, R400, R401, R409). -/
def keyLoad (m : Nat) (value : Word) (s : State) : State :=
  let c := s.ctl
  let i := c.get F.CIP_KEY_SEL_SLOT
  let k := c.slot i
  let big := bit value.toNat 29
  let epoch := wGet value 23 0
  if 46 < i then s.mapCtl (Ctl.keyRefused 5 i)
  else if !c.loadMode i || !c.onBit (F.CIP_SLOT_POL_LOAD i) m || 4 < m then s.mapCtl (Ctl.keyRefused 2 i)
  else if k.epoch = 0xFFFFFF then s.mapCtl fun c => (c.keyRefused 4 i).raise 0x040 3 []
  else if i < 24 ∧ epoch ≤ k.epoch then s.mapCtl (Ctl.keyRefused 3 i)
  else
    let e := if i < 24 then epoch else k.epoch + 1
    let side := decide (i < 24) && bit value.toNat 28
    let v : KeyVal := ⟨c.keyWordBytes big, e, side⟩
    let k' := { k with staged := some v, epoch := e, side, exhausted := false
                       ctr := if i < 24 then k.ctr else 0, resv := if i < 24 then k.resv else 65536 }
    (State.mramCheck (nonceArea i :: resvWords i 65536) [] { s with mem := (s.mem.putEpoch i e side).putResv i 65536 }).mapCtl fun c =>
      (((c.setSlot i k').zero ((List.range 8).map R.CIP_KEY_W)).sets [(F.CIP_KEY_STAT_RESULT, 1), (F.CIP_KEY_STAT_SLOT, i)]).stagedMask i

/-- ZEROISE (R398). (DEDUCED: log entry 58.) -/
def keyZeroise (m done : Nat) (s : State) : State :=
  let i := s.ctl.get F.CIP_KEY_SEL_SLOT
  if 46 < i then s.mapCtl (Ctl.keyRefused 5 i)
  else if !s.ctl.onBit (F.CIP_SLOT_POL_LOAD i) m || 4 < m then s.mapCtl (Ctl.keyRefused 2 i)
  else
    let s := match s.ctl.cip.seg with
      | some g => if g.ctx.slot = i then s.abortJob 4 done else s
      | none => s
    s.mapCtl fun c =>
      let lost := c.cip.susp.filter fun q => q.2.slot == i
      let wiped := lost.foldl (fun w q => tput w q.1 { q.2 with key := [] }) c.cip.wiped
      let c := { c with cip := { c.cip with susp := c.cip.susp.filter (fun q => q.2.slot != i), wiped } }.setSlot i
        { c.slot i with key := none, staged := none, prev := none }
      let c := (c.slrDrop fun j => j.lane == i).count F.CIP_CNT_ABORT_JOBS lost.length
      (c.sets [(F.CIP_KEY_STAT_RESULT, 1), (F.CIP_KEY_STAT_SLOT, i)]).raise 0x040 5 []

/-- A write of CIP_SLOT_POL in COMMISSION (R395); slot 47's register ignores writes. -/
def slotPolicyWrite (i : Nat) (value : Word) (c : Ctl) : Ctl :=
  if 47 ≤ i ∨ c.mode ≠ .commission then c
  else c.sets [(F.CIP_SLOT_POL_MODE i, wGet value 31 30), (F.CIP_SLOT_POL_LOAD i, wGet value 20 16),
    (F.CIP_SLOT_POL_USE i, if 24 ≤ i then wGet value 6 0 else 0)]

/-! ### A seal key takes effect (R410, R411) -/

/-- The sequence of a MOB against S_last, or `none` for a replay (R160). -/
def sealSeq (last : Option Nat) (hi low : Nat) : Option Nat :=
  match last with
  | none => some (hi * 2 ^ 32 + low)
  | some s => let d := (low + 2 ^ 32 - s % 2 ^ 32) % 2 ^ 32; if d = 0 ∨ 2 ^ 31 < d then none else some (s + d)

/-- The sequence of a MOB is the predicted one, S_last + 1, whose mask was requested at the acceptance before (R410). -/
def seqPredicted (last : Option Nat) (s : Nat) : Bool := last == some (s - 1) && decide (0 < s)

/-- SEAL_SEQ has arrived: the masks of sequences that were not predicted are requested on demand. A predicted one has its mask or, where the
engine refused it, none (R410, R411). -/
def Ctl.sealDemand (n low : Nat) (c : Ctl) : Ctl :=
  let hi := c.get (F.LOH_SEAL_RXHI_HI n)
  let c := match (c.slot n).key, sealSeq (c.loh n).sLast hi low with
    | some _, some s => if seqPredicted (c.loh n).sLast s then c else c.slrDemand ⟨n, 1, s⟩
    | _, _ => c
  match (c.slot n).prev with
  | some (_, last) => match sealSeq last hi low with
    | some s => if seqPredicted last s then c else c.slrDemand ⟨n, 2, s⟩
    | none => c
  | none => c

/-- A SEAL_SEQ that has arrived in a MOB that is not judged yet (R160). -/
def LaneOh.sealSeqIn (o : LaneOh) : Option Nat :=
  match o.mobDone with
  | some (b, _, _, _) => some (beAt b 240 4)
  | none => if 244 ≤ o.mobBuf.length then some (beAt o.mobBuf 240 4) else none

/-- The masks of a lane at the change of its key: the receive masks of the key before are the previous key's, where one is kept, the
transmit mask of the staged key is the new key's, and the other results are forgotten (R409, R411). (DEDUCED: log entry 36.) -/
def Ctl.slrKeep (n : Nat) (prev : Bool) (c : Ctl) : Ctl :=
  let c := c.slrDrop fun j => j.lane == n && j.kind != 4 && !(prev && j.kind == 1)
  let old (l : List SlrJob) : List SlrJob :=
    l.map fun j => if j.lane == n then { j with kind := if j.kind == 4 then 0 else 2 } else j
  { c with cip := { c.cip with pend := old c.cip.pend, ready := old c.cip.ready, demand := old c.cip.demand } }

/-- A staged seal key takes effect at the multiframe boundary, in both directions; the key before it is kept (R411). (DEDUCED: log entry 36.) -/
def sealKeyEffect (n : Nat) (c : Ctl) : Ctl :=
  let k := c.slot n
  match k.staged with
  | none => c
  | some v =>
    if 24 ≤ n || !c.mfEdge then c
    else
      let o := c.loh n
      let prev := k.key.map fun old => (old, o.sLast)
      let c := c.setSlot n { k with key := some v, staged := none, prev, ctr := 1, resv := 65536, exhausted := false }
      let c := c.setOh n { o with sLast := none }
      let c := (c.slrKeep n prev.isSome).slrWant ⟨n, 3, v.epoch⟩
      let c := if c.on (F.LOH_SEAL_TX_EN n) then c.slrWant ⟨n, 0, 1⟩ else c
      match o.sealSeqIn with
      | some low => if c.on (F.LOH_SEAL_RX_EN n) then c.sealDemand n low else c
      | none => c

/-- The previous key is erased after 12 ms. (DESIGN CHOICE: log entry 5.) -/
def prevKeyExpire (n : Nat) (c : Ctl) : Ctl :=
  if n < 24 then (c.setSlot n { c.slot n with prev := none }).slrDrop fun j => j.lane == n && j.kind == 2 else c

/-! ### Engine reset (R405) -/

/-- CIP_RESET with its KEY; the output of a suspended job that it discards is UNTRUSTED (R402, R405). (DEDUCED: log entry 59.) -/
def engineReset (value : Word) (done : Nat) (s : State) : State :=
  if wGet value 31 16 ≠ 0xC1F0 ∨ !bit value.toNat 0 then s
  else
    let s := s.abortJob 12 done
    s.mapCtl fun c =>
      let lost := c.cip.susp
      let unt := lost.any fun q => q.2.untrusted
      let c := { c with cip := { c.cip with susp := [] } }.count F.CIP_CNT_ABORT_JOBS lost.length
      ((c.when unt (Ctl.set F.CIP_JOB_STAT_UNTRUSTED 1)).set F.CIP_STAT_KAT_BUSY 1).latchFree

/-- The known-answer test ends. (DEDUCED: log entry 59.) -/
def katDone (pass : Bool) (c : Ctl) : Ctl :=
  if !c.on F.CIP_STAT_KAT_BUSY then c
  else
    let was := c.engineMissing
    let c := c.sets [(F.CIP_STAT_KAT_BUSY, 0), (F.CIP_STAT_KAT_FAIL, b2n (!pass)), (F.CIP_STAT_LOCKED, b2n (!pass))]
    (c.raiseIf (!pass) 0x040 2).engineGone was

/-! ### Seals of a multiframe (R399, R407, R408) -/

/-- The 64-bit tag of a multiframe: the leftmost 8 bytes of the GMAC of the 2,292 bytes under a slot's key. `own`: the SLR seals;
otherwise it verifies. -/
def sealTag (k : KeyVal) (own : Bool) (seq : Nat) (a : List Byte) : List Byte :=
  (gmac k.bytes (ivBytes (0xA0 + b2n (k.side == own)) k.epoch seq) a).take 8

/-! ### The meanings -/

/-- A read of CIP_LATCH; any other master than a core or the host reaches no register. -/
def execLatchAcquire (m tick : Nat) (s : State) : Host.Outcome State Fault Refusal :=
  onState (byMaster m R.CIP_LATCH false (State.mapCtl (latchAcquire m tick))) s

/-- A write of RELEASE. -/
def execLatchRelease (m tick done : Nat) (s : State) : Host.Outcome State Fault Refusal :=
  onState (byMaster m R.CIP_LATCH true (latchRelease m tick done)) s

/-- The lease runs out. -/
def execLeaseExpiry (tick done : Nat) (s : State) : Host.Outcome State Fault Refusal := onState (leaseExpiry tick done) s

/-- GO with OP ENC. -/
def execJobEnc (m : Nat) (s : State) : Host.Outcome State Fault Refusal :=
  onState (byMaster m R.CIP_JOB_GO true (jobGo [1] m)) s

/-- GO with OP DEC. -/
def execJobDec (m : Nat) (s : State) : Host.Outcome State Fault Refusal :=
  onState (byMaster m R.CIP_JOB_GO true (jobGo [2] m)) s

/-- GO with OP GEN. -/
def execJobGen (m : Nat) (s : State) : Host.Outcome State Fault Refusal :=
  onState (byMaster m R.CIP_JOB_GO true (jobGo [3] m)) s

/-- GO with OP VER. -/
def execJobVer (m : Nat) (s : State) : Host.Outcome State Fault Refusal :=
  onState (byMaster m R.CIP_JOB_GO true (jobGo [4] m)) s

/-- GO with an OP that Table 14.1 refuses. -/
def execJobOpInvalid (m : Nat) (s : State) : Host.Outcome State Fault Refusal :=
  onState (byMaster m R.CIP_JOB_GO true (jobGo [0, 5, 6, 7] m)) s

/-- The running segment ends. -/
def execJobSegmentEnd (faults : List ParityFault) (mismatch : Option Nat) (s : State) : Host.Outcome State Fault Refusal :=
  onState (jobSegmentEnd faults mismatch) s

/-- LOAD. -/
def execKeyLoad (m : Nat) (value : Word) (s : State) : Host.Outcome State Fault Refusal :=
  onState (byMaster m R.CIP_KEY_CTL true (keyLoad m value)) s

/-- ZEROISE. -/
def execKeyZeroise (m done : Nat) (s : State) : Host.Outcome State Fault Refusal :=
  onState (byMaster m R.CIP_KEY_CTL true (keyZeroise m done)) s

/-- A write of CIP_SLOT_POL. -/
def execSlotPolicyWrite (i : Nat) (value : Word) (s : State) : Host.Outcome State Fault Refusal := onCtl (slotPolicyWrite i value) s

/-- A staged seal key takes effect. -/
def execSealKeyEffect (n : Nat) (s : State) : Host.Outcome State Fault Refusal := onTimed (sealKeyEffect n) s

/-- The previous key is erased. -/
def execPrevKeyExpire (n : Nat) (s : State) : Host.Outcome State Fault Refusal := onTimed (prevKeyExpire n) s

/-- A write of CIP_RESET, by a core or the host. -/
def execEngineReset (m : Nat) (value : Word) (done : Nat) (s : State) : Host.Outcome State Fault Refusal :=
  onState (byMaster m R.CIP_RESET true (engineReset value done)) s

/-- The known-answer test ends. -/
def execKatDone (pass : Bool) (s : State) : Host.Outcome State Fault Refusal := onCtl (katDone pass) s

end Sys2Proof.Machine
end

