-- ==== Sys2Proof/Machine/LinePm.lean ====
section
/-! DEFINITION. Line performance monitoring (R447 to R453). -/

namespace Sys2Proof.Machine

/-! ### Seconds (R447, R448) -/

/-- Integer nanoseconds of a time of day. -/
def nsOf (t : Nat) : Nat := t / 2 ^ 32

/-- The whole seconds that S has reached (R447). -/
def Ctl.pmWholeSec (c : Ctl) : Nat := nsOf c.tb.sel / 1000000000

/-- What the new PM second starts with: the present state of every lane. -/
def Ctl.pmRestart (c : Ctl) : Ctl :=
  let p : LinePm := { c.pm with frames := 0, sec := c.pmWholeSec }
  (List.range 24).foldl (fun c n => c.pmMark n) { c with pmAcc := [], pm := p }

/-- The PM second in progress ends; a lane to which R103 applied contributes nothing (R447). -/
def Ctl.pmSecondEnd (c : Ctl) : Ctl :=
  let rows := (List.range 24).filterMap fun n =>
    let a := tget c.pmAcc n {}
    if a.off || !c.rxEnabled n then none else some (n, a)
  let p := c.pm
  { c with pm := { p with pend := p.pend ++ [PmSecond.mk (p.cur false).num (p.cur true).num p.frames rows] } }.pmRestart

/-- S reaches a whole second (R447). -/
def pmSecondEnd (tick : Nat) (c : Ctl) : Ctl :=
  let c := c.advTo tick
  if c.pmWholeSec = c.pm.sec then c else c.pmSecondEnd

/-- A near-end SES: 30 % errored frames or a defect (Table 16.1). -/
def PmSecond.neSes (s : PmSecond) (a : PmAcc) : Bool := a.neDef || (decide (0 < a.ne) && decide (s.frames * 3 ≤ a.ne * 10))

/-- A far-end SES; a near-end defect second adds nothing at the far end (R448). -/
def PmSecond.feSes (s : PmSecond) (a : PmAcc) : Bool :=
  !a.neDef && (a.feDef || (decide (0 < a.fe) && decide (s.frames * 3 ≤ a.fe * 10)))

/-- An SES of a side. -/
def PmSecond.ses (s : PmSecond) (far : Bool) (a : PmAcc) : Bool := if far then s.feSes a else s.neSes a

/-- A lane contributed to a second, and it was (or was not) an SES there. -/
def PmSecond.isSes (s : PmSecond) (n : Nat) (far want : Bool) : Bool :=
  match tfind s.rows n with
  | some a => s.ses far a == want
  | none => false

/-! ### Availability and counts (R448 to R450, R453) -/

/-- Availability of a side before a second is counted: it changes at the first of 10 consecutive SES, or of 10 that are not
(R449). (DEDUCED: log entry 68.) -/
def pmUnavail (was : Bool) (ten : List PmSecond) (n : Nat) (far : Bool) : Bool :=
  if ten.all (fun s => s.isSes n far (!was)) then !was else was

/-- The counts of a second for a side: SECS, ES, SES, BBE, UAS, SLIP, LOS (Table 16.1, R449). `mute`: the far end is not
classified. -/
def pmIncrement (s : PmSecond) (a : PmAcc) (far unavail mute : Bool) : List Nat :=
  let err := if far then a.fe else a.ne
  let dfct := if far then a.feDef else a.neDef
  let ses := s.ses far a
  let es := dfct || decide (0 < err)
  let base := if mute then [0, 0, 0, 0] else if unavail then [0, 0, 0, 1]
    else [b2n es, b2n ses, if ses then 0 else err, 0]
  1 :: base ++ (if far then [0, 0] else [a.slips, b2n a.los])

/-- The key of a bin's counts. -/
def pmKey (num : Nat) (day : Bool) (n : Nat) (far : Bool) : Nat := (num * 2 + b2n day) * 64 + n * 2 + b2n far

/-- The counts of a bin. -/
def LinePm.bin (p : LinePm) (num : Nat) (day : Bool) (n : Nat) (far : Bool) : List Nat :=
  tget p.counts (pmKey num day n far) [0, 0, 0, 0, 0, 0, 0]

/-- The threshold counters of a side: the counter number and its place in a bin's counts (LPM_THR15_c). -/
def pmThresholds (far : Bool) : List (Nat × Nat) :=
  if far then [(6, 1), (7, 2), (8, 3), (9, 4)] else [(0, 1), (1, 2), (2, 3), (3, 4), (4, 5), (5, 6)]

/-- The DETAIL of a TCA record: lane, side, counter and period, one byte each. (DEDUCED: log entry 68.) -/
def tcaDetail (n : Nat) (far : Bool) (ctr : Nat) (day : Bool) : List Byte :=
  [BitVec.ofNat 8 n, BitVec.ofNat 8 (b2n far), BitVec.ofNat 8 ctr, BitVec.ofNat 8 (b2n day)]

/-- A second is counted in a bin; a threshold that the committed count of the current bin first reaches is crossed (R453). (DEDUCED: log entry 68.) -/
def Ctl.pmAdd (num : Nat) (day : Bool) (n : Nat) (far : Bool) (inc : List Nat) (c : Ctl) : Ctl :=
  let old := c.pm.bin num day n far
  let new := List.zipWith (fun a b => satAdd 32 a b) old inc
  let c := { c with pm := { c.pm with counts := tput c.pm.counts (pmKey num day n far) new } }
  if num ≠ (c.pm.cur day).num then c
  else (pmThresholds far).foldl (fun c (ctr, at_) =>
    let thr := (c.reg (if day then R.LPM_THRDAY ctr else R.LPM_THR15 ctr)).toNat
    let f := if day then F.LPM_TCA_DAY n else F.LPM_TCA_Q n
    if thr ≠ 0 ∧ thr ≤ lget new at_ 0 ∧ !c.onBit f ctr then
      (c.setBit f ctr true).raise 0x052 0 (tcaDetail n far ctr day)
    else c) c

/-- A second of one lane and side is committed: the availability is settled, and the counts go to the bins (R449, R450). -/
def Ctl.pmCommitSide (s : PmSecond) (ten : List PmSecond) (n : Nat) (a : PmAcc) (far : Bool) (c : Ctl) : Ctl :=
  let f := if far then F.LPM_UNAV_FE_LANES else F.LPM_UNAV_NE_LANES
  let mute := far && (a.neDef || c.onBit F.LPM_UNAV_NE_LANES n)
  let was := c.onBit f n
  let un := if mute then was else pmUnavail was ten n far
  let c := ((c.setBit f n un).raiseIf (un && !was) 0x052 1).raiseIf (was && !un) 0x052 2
  let inc := pmIncrement s a far un mute
  (c.pmAdd s.q false n far inc).pmAdd s.d true n far inc

/-- The oldest second is committed once the ten seconds from it are known (R450). (DEDUCED: log entry 68.) -/
def pmSecondCommit (c : Ctl) : Ctl :=
  match c.pm.pend with
  | [] => c
  | s :: rest =>
    if rest.length < 9 then c
    else
      let ten := s :: rest.take 9
      let c := s.rows.foldl (fun c (n, a) => (c.pmCommitSide s ten n a false).pmCommitSide s ten n a true) c
      { c with pm := { c.pm with pend := rest } }

/-! ### Bins (R451, R452) -/

/-- The period of a bin in ns. -/
def binNs (day : Bool) : Nat := if day then 86400000000000 else 900000000000

/-- The current bin closes and a new one opens; the bin that falls out of reach is forgotten. A step marks both PARTIAL. -/
def Ctl.pmRoll (day step : Bool) (start : Nat) (c : Ctl) : Ctl :=
  let p := c.pm
  let l := if day then p.d else p.q
  let cur := p.cur day
  let new : PmHdr := ⟨cur.num + 1, start, c.fnN, c.tb.untimed, step⟩
  let l' := (new :: { cur with part := cur.part || step } :: l.drop 1).take (if day then 2 else 33)
  let keep := l'.map PmHdr.num
  let counts := p.counts.filter (fun (k, _) => (k / 64 % 2 == b2n day) == false || keep.contains (k / 128))
  let c := { c with pm := if day then { p with d := l', counts } else { p with q := l', counts } }
  let c := (List.range 24).foldl (fun c n => c.set (if day then F.LPM_TCA_DAY n else F.LPM_TCA_Q n) 0) c
  if day then c else { c with swbDue := c.swbDue ++ [{ cur with part := cur.part || step }] }

/-- A step of S: the second in progress ends, and every current bin closes with PARTIAL (R447, R452). -/
def Ctl.pmStep (c : Ctl) : Ctl :=
  let s := nsOf c.tb.sel
  ((c.pmSecondEnd).pmRoll false true s).pmRoll true true s

/-- The current bin ends where S has reached another whole multiple of its period, at which the new bin starts (R451). -/
def Ctl.pmBinOver (day : Bool) (c : Ctl) : Ctl :=
  let k := nsOf c.tb.sel / binNs day
  if k = (c.pm.cur day).start / binNs day then c else c.pmRoll day false (k * binNs day)

/-- A 15-minute bin ends, and at midnight of S a day bin as well; the PM second that ends with it is that bin's (R447, R451). -/
def pmBinEnd (tick : Nat) (c : Ctl) : Ctl := ((pmSecondEnd tick c).pmBinOver false).pmBinOver true

/-! ### Reading a bin (LPM_SEL) -/

/-- A bin is FINAL once its last second has been committed (R450). -/
def LinePm.final (p : LinePm) (day : Bool) (num : Nat) : Bool :=
  (p.cur day).num != num && !p.pend.any (fun s => (if day then s.d else s.q) == num)

/-- The registers LPM_BIN_INFO, START_HI, START_LO, ES, SES, BBE, UAS, SLIP and LOSS of the bin that LPM_SEL names. -/
def Ctl.pmCapture (c : Ctl) : List Nat :=
  let b := c.get F.LPM_SEL_BIN
  let n := c.get F.LPM_SEL_LANE
  let far := c.on F.LPM_SEL_SIDE
  let day := decide (33 ≤ b)
  let h := if 34 < b ∨ 23 < n then none else if day then c.pm.d[b - 33]? else c.pm.q[b]?
  match h with
  | none => [0, 0, 0, 0, 0, 0, 0, 0, 0]
  | some h =>
    let v := c.pm.bin h.num day n far
    let g (i : Nat) : Nat := lget v i 0
    let info := 2 ^ 31 + b2n (c.pm.final day h.num) * 2 ^ 30 + b2n h.untimed * 2 ^ 29 + b2n h.part * 2 ^ 28 + min 131071 (g 0)
    [info, h.start / 2 ^ 32 % 2 ^ 32, h.start % 2 ^ 32, g 1, g 2, g 3, g 4, g 5, g 6]

/-! ### The meanings -/

/-- S reaches a whole second. -/
def execPmSecondEnd (tick : Nat) (s : State) : Host.Outcome State Fault Refusal := onTimed (pmSecondEnd tick) s

/-- A second is committed. -/
def execPmSecondCommit (s : State) : Host.Outcome State Fault Refusal := onTimed pmSecondCommit s

/-- A bin ends. -/
def execPmBinEnd (tick : Nat) (s : State) : Host.Outcome State Fault Refusal := onTimed (pmBinEnd tick) s

end Sys2Proof.Machine
end

