-- ==== Sys2Proof/Machine/Timebase.lean ====
section
/-! DEFINITION. The timebase and the stamps (R329 to R358). -/

namespace Sys2Proof.Machine

/-! ### Values at an instant (R343) -/

/-- A time in 1/64 ns as units of 2⁻³² ns. -/
def units64 (z : Int) : Int := z * 2 ^ 26

/-- The present moment in 2⁻³² ns of the machine timer. -/
def Ctl.instant (c : Ctl) : Int := (c.mtime * incNominal : Nat)

/-- A domain between its present tick and the next, after a part of the tick. (DEDUCED: log entry 30.) -/
def Domain.between (part : Nat) (d : Domain) : Nat :=
  unsgn 96 ((d.val : Int) + sgn 96 (unsgn 96 (((d.run 1).val : Int) - d.val)) * part / incNominal)

/-- A domain at an instant `ticks` after the moment at which it is held, and a part of a tick; before that moment, as it would have come
to it at the nominal rate. (DEDUCED: log entry 30.) -/
def Domain.at (ticks : Int) (part : Nat) (d : Domain) : Nat :=
  if 0 ≤ ticks then (d.run ticks.toNat).between part else unsgn 96 ((d.val : Int) + ticks * incNominal + part)

/-- The value of a domain at an instant of the machine timer, by interpolation between ticks (R343): from the newest moment held that is
not later, which for an instant to come is the present one. (DEDUCED: log entry 30.) -/
def Ctl.domAt (c : Ctl) (isB : Bool) (u : Int) : Nat :=
  let k := u / (incNominal : Int)
  let now : Nat × Domain × Domain := (c.mtime, c.tb.a, c.tb.b)
  let q := ((now :: c.tb.past).find? fun q => decide ((q.1 : Int) ≤ k)).getD ((c.tb.past.getLast?).getD now)
  (if isB then q.2.2 else q.2.1).at (k - q.1) (u % (incNominal : Int)).toNat

/-- Both domains at an instant. -/
def Ctl.stampAt (c : Ctl) (u : Int) : Stamp2 := ⟨c.domAt false u, c.domAt true u⟩

/-- The frames for which the past of the domains is kept. -/
def pastFrames : Nat := 4

/-- Both domains are held as they stand at this moment. (DEDUCED: log entry 30.) -/
def Ctl.noteDomains (c : Ctl) : Ctl :=
  { c with tb := { c.tb with past :=
      (c.mtime, c.tb.a, c.tb.b) :: c.tb.past.filter fun q => decide (c.mtime ≤ q.1 + pastFrames * ticksPerFrame) } }

/-- A domain has changed: the transmit stamps of the multiframes that begin in the present frame, whose instants may still be to come,
are taken again, in their MOBs as well (R343 to R345). (DEDUCED: log entry 30.) -/
def Ctl.restamp (c : Ctl) : Ctl :=
  if c.fnN % 32 ≠ 0 then c
  else c.tb.lanes.foldl (fun c q =>
    match q.2.tx.getLast? with
    | none => c
    | some (seq, _) =>
      let st := c.stampAt q.2.due
      let t := c.ltx q.1
      let mob := if t.mob.isEmpty then t.mob
        else mobClose (t.mob.take 96 ++ beBytes 10 ((if q.2.domB then st.b else st.a) / 65536) ++ slice t.mob 106 146)
      { c with tb := { c.tb with lanes := tput c.tb.lanes q.1 { q.2 with tx := q.2.tx.dropLast ++ [(seq, st)] } } }.setTx q.1 { t with mob }) c

/-- A domain has changed its value or its rate (R343). -/
def Ctl.domainMoved (c : Ctl) : Ctl := c.noteDomains.restamp

/-! ### Values in registers -/

/-- A time of day as three register words: ns [63:32], ns [31:0], fraction. -/
def words96 (t : Nat) : List Nat := [t / 2 ^ 64 % 2 ^ 32, t / 2 ^ 32 % 2 ^ 32, t % 2 ^ 32]

/-- The units of 2⁻³² ns in a whole number of ns. -/
def nsUnits : Nat := 2 ^ 32

/-! ### Selection (R338 to R341, Table 12.1) -/

/-- TBS_PPS_OFS in ns, within its limits (R354). -/
def Ctl.ppsOfs (c : Ctl) : Int := clampI (-499999999) 499999999 (sgn 32 (c.reg R.TBS_PPS_OFS).toNat)

/-- S + TBS_PPS_OFS in whole seconds (R354). -/
def Ctl.ppsSecond (c : Ctl) : Nat := unsgn 64 ((nsOf c.tb.sel : Int) + c.ppsOfs) / 1000000000

/-- S + TBS_PPS_OFS has moved by an amount at once: after a move back, PPS_OUT waits for the next instant (R354). (DEDUCED: log entry 54.) -/
def Ctl.ppsMoved (z : Int) (c : Ctl) : Ctl := if z < 0 then { c with tb := { c.tb with ppsLast := c.ppsSecond } } else c

/-- The other domain is selected, with O zero when UNTIMED and S unbroken otherwise (R340). -/
def Ctl.selectDomain (isB : Bool) (c : Ctl) : Ctl :=
  let t := c.tb
  let o : Int := if t.untimed then 0 else sgn 96 (unsgn 96 ((t.sel : Int) - (t.dom isB).val))
  let c := { c with tb := { t with selB := isB, ofs := o } }
  (c.ppsMoved (sgn 96 (unsgn 96 ((c.tb.sel : Int) - t.sel)))).raise 0x011 2 []

/-- The automatic selection (Table 12.1): it changes only from a domain that is not healthy to one that is. -/
def Ctl.autoSelect (c : Ctl) : Ctl :=
  if !c.healthy c.tb.selB && c.healthy (!c.tb.selB) then c.selectDomain (!c.tb.selB) else c

/-- GO (Table 12.1). -/
def selGo (isB : Bool) (tick : Nat) (c : Ctl) : Ctl :=
  let c := c.advTo tick
  let res (r : Nat) (c : Ctl) : Ctl := { c with tb := { c.tb with selResult := r } }
  if isB == c.tb.selB then res 1 c
  else if c.healthy isB then res 1 (c.selectDomain isB)
  else res 2 c

/-- VALID is written (R338, R340). -/
def domainValidWrite (isB on : Bool) (tick : Nat) (c : Ctl) : Ctl :=
  ((c.advTo tick).set (F.TBS_CTL_VALID (b2n isB)) (b2n on)).autoSelect

/-! ### Steps and slews (R330 to R338) -/

/-- Change a domain. -/
def Ctl.modDom (isB : Bool) (f : Domain → Domain) (c : Ctl) : Ctl := { c with tb := c.tb.setDom isB (f (c.tb.dom isB)) }

/-- A refused command of a domain: 2 no allowance, 3 mode (R333, R334). -/
def Ctl.stepRefused (isB : Bool) (result : Nat) (c : Ctl) : Ctl :=
  (c.modDom isB fun d => { d with result := result }).raise 0x011 3 []

/-- A step of S closes the PM second and bins (R447, R452), and a backward one makes PPS_OUT wait for the next instant
(R354). -/
def Ctl.steppedS (z : Int) (c : Ctl) : Ctl := (c.ppsMoved z).pmStep

/-- STEP (R333). -/
def tbsStep (isB : Bool) (tick : Nat) (c : Ctl) : Ctl :=
  let c := c.advTo tick
  let d := c.tb.dom isB
  let i := b2n isB
  if !d.first && !d.armed then c.stepRefused isB 2
  else
    let z := sgn 96 (((c.reg (R.TBS_STEP_HI i)).toNat * 2 ^ 64) + (c.reg (R.TBS_STEP_LO i)).toNat * 2 ^ 32 + (c.reg (R.TBS_STEP_FRAC i)).toNat)
    let c := c.modDom isB fun d => { d with val := unsgn 96 ((d.val : Int) + z), first := false, armed := false, isSet := true
                                            slew := 0, suspect := false, result := 1 }
    let c := c.domainMoved.raise 0x011 0 []
    (if c.tb.selB == isB then c.steppedS z else c).autoSelect

/-- ARM (R334). -/
def tbsArm (isB : Bool) (c : Ctl) : Ctl :=
  if c.mode == .commission || c.mode == .maintenance then
    c.modDom isB fun d => if d.armed then { d with result := 1 } else { d with armed := true, armMode := c.mode, result := 1 }
  else c.stepRefused isB 3

/-- The range of an applied increment (R330). -/
def clampInc (v : Nat) : Nat := min 0x4E2200000 (max 0x4E1E00000 v)

/-- A write of INC_INT is held (R330). (DEDUCED: log entry 54.) -/
def incIntWrite (isB : Bool) (w : Word) (c : Ctl) : Ctl := c.modDom isB fun d => { d with incInt := some (wGet w 7 0) }

/-- The write of INC_FRAC acts: INC takes both parts, limited to the range (R330). (DEDUCED: log entry 54.) -/
def incWrite (isB : Bool) (frac : Word) (tick : Nat) (c : Ctl) : Ctl :=
  ((c.advTo tick).modDom isB fun d =>
    { d with inc := clampInc (d.incInt.getD (d.inc / 2 ^ 32) * 2 ^ 32 + frac.toNat), incInt := none }).domainMoved

/-- The jump threshold of a domain in 2⁻³² ns: 1,000 × JUMP ns, from the adopted record (R338). -/
def Ctl.jumpUnits (c : Ctl) (isB : Bool) : Nat := min 1000000 (max 1 (c.adoptedFld (F.TBS_JUMP_JUMP (b2n isB)))) * 1000 * nsUnits

/-- The write of SLEW_LO acts (R336, R338). -/
def slewWrite (isB : Bool) (lo : Word) (tick : Nat) (c : Ctl) : Ctl :=
  let c := (c.advTo tick).setReg (R.TBS_SLEW_LO (b2n isB)) lo
  let z := sgn 64 ((c.reg (R.TBS_SLEW_HI (b2n isB))).toNat * 2 ^ 32 + lo.toNat) * nsUnits
  let big := decide (c.jumpUnits isB < z.natAbs)
  let c := (c.modDom isB fun d => { d with slew := z, suspect := big }).domainMoved
  (c.raiseIf big 0x011 1).autoSelect

/-- |SLEW_LEFT| has fallen to the threshold: SUSPECT clears (R338). -/
def suspectClear (isB : Bool) (tick : Nat) (c : Ctl) : Ctl :=
  let c := c.advTo tick
  let d := c.tb.dom isB
  if d.suspect && decide (d.slew.natAbs ≤ c.jumpUnits isB) then (c.modDom isB fun d => { d with suspect := false }).autoSelect else c

/-! ### Captures (R332, R353, R356, R358) -/

/-- The capture of a group by a master. -/
def Ctl.putCapture (g m : Nat) (l : List Nat) (c : Ctl) : Ctl := { c with tb := { c.tb with caps := tput c.tb.caps (g * 16 + m) l } }

/-- A word of the last capture of a group by a master. -/
def Ctl.captured (c : Ctl) (g m i : Nat) : Nat := lget (tget c.tb.caps (g * 16 + m) []) i 0

/-- The integer ns of SLEW_LEFT, rounded toward zero, as two words. -/
def leftWords (z : Int) : List Nat := let n := unsgn 64 (Int.tdiv z nsUnits); [n / 2 ^ 32, n % 2 ^ 32]

/-- The time that TBL_CTL.SRC chooses, and whether it came from a domain that has been set (R358). -/
def Ctl.legacyTime (c : Ctl) : Nat × Bool :=
  let k := c.get F.TBL_CTL_SRC
  if k = 1 then (c.tb.a.val, c.tb.a.isSet) else if k = 2 then (c.tb.b.val, c.tb.b.isSet) else (c.tb.sel, !c.tb.untimed)

/-- The legacy words NSEC, SEC_LO and SEC_HI (R358). -/
def Ctl.legacyWords (c : Ctl) : List Nat :=
  let t := c.legacyTime
  let n := nsOf t.1
  let s := n / 1000000000
  [n % 1000000000, s % 2 ^ 32, b2n (!t.2) * 2 ^ 31 + s / 2 ^ 32 % 2 ^ 16]

/-- What a capturing register captures: its group, and the words of the group in the order of their offsets. -/
def Ctl.captureOf (c : Ctl) (a : Nat) : Option (Nat × List Nat) :=
  if a = R.TBS_TIME_HI 0 then some (0, words96 c.tb.a.val)
  else if a = R.TBS_TIME_HI 1 then some (1, words96 c.tb.b.val)
  else if a = R.TBS_LEFT_HI 0 then some (2, leftWords c.tb.a.slew)
  else if a = R.TBS_LEFT_HI 1 then some (3, leftWords c.tb.b.slew)
  else if a = R.TBS_SEL_OFS_HI then some (4, words96 (unsgn 96 c.tb.ofs))
  else if a = R.TBS_SEL_TIME_HI then some (5, words96 c.tb.sel)
  else if a = R.TBS_FRAME_FN then some (6, c.fn32 :: (words96 c.tb.sb).take 2)
  else if a = R.TBS_PPS_SEQ then some (7, [c.tb.ppsSeq, c.tb.ppsFn] ++ words96 c.tb.pps.a ++ words96 c.tb.pps.b)
  else if a = R.TBL_NSEC then some (8, c.legacyWords)
  else none

/-- A capturing register is read at a tick: the group is captured for the master, and the read returns its first word. -/
def captureRead (m addr tick : Nat) (c : Ctl) : Ctl :=
  let c := c.advTo tick
  match c.captureOf addr with
  | some (g, l) => (c.putCapture g m l).answers (lget l 0 0)
  | none => c

/-! ### Transmit stamp queues (R350, R351) -/

/-- A transmit stamp queue. -/
def Ctl.txq (c : Ctl) (q : Nat) : TxQueue := tget c.tb.txq q {}

/-- Change a transmit stamp queue. -/
def Ctl.setTxq (q : Nat) (t : TxQueue) (c : Ctl) : Ctl := { c with tb := { c.tb with txq := tput c.tb.txq q t } }

/-- W0 is read: the head entry leaves the queue, and its time is captured for the reading master. -/
def txqPop (m q : Nat) (c : Ctl) : Ctl :=
  if 3 ≤ q then c else
  let t := c.txq q
  match t.items with
  | [] => (c.putCapture (11 + q) m [0, 0, 0]).answers 0
  | e :: rest =>
    ((c.setTxq q { t with items := rest }).putCapture (11 + q) m (words96 e.stamp)).answers
      (2 ^ 31 + b2n e.domB * 2 ^ 30 + e.src % 1024 * 2 ^ 16 + e.id % 65536)

/-- The first tick at or after the instant of a stamp. -/
def StampWant.tick (w : StampWant) : Nat := (-((-w.due) / (incNominal : Int))).toNat

/-- The oldest stamp whose instant comes by the end of the present frame is pushed once it has come, or dropped when its queue is full. (DESIGN CHOICE: log entry 5.) -/
def txqPush (c : Ctl) : Ctl :=
  match c.tb.txPend.find? fun p => c.dueBy p.2.tick with
  | none => c
  | some (q, w) =>
    let c := c.advMoment w.tick
    let c := { c with tb := { c.tb with txPend := c.tb.txPend.erase (q, w) } }
    let e : TxStamp := ⟨w.id, w.domB, w.src, c.domAt w.domB w.due⟩
    let t := c.txq q
    if t.items.length < 16 then (c.setTxq q { t with items := t.items ++ [e] }).occ 0xC5 1
    else ((c.setTxq q { t with ovf := true, drop := satAdd 16 t.drop 1 }).occ 0xC6 1).raise 0x011 4 []

/-- A stamped record asks for a stamp (R350). -/
def Ctl.wantStamp (q : Nat) (w : StampWant) (c : Ctl) : Ctl := { c with tb := { c.tb with txPend := c.tb.txPend ++ [(q, w)] } }

/-- A malformed header is met in a transmit queue's records (R349). -/
def Ctl.txrecBad (q : Nat) (c : Ctl) : Ctl := (c.setTxq q { c.txq q with bad := true }).raise 0x011 5 []

/-! ### PPS, compares and the frame conversion (R353 to R357) -/

/-- A rising edge of PPS_IN. -/
def ppsInEdge (tick : Nat) (c : Ctl) : Ctl :=
  let c := c.advTo tick
  { c with tb := { c.tb with ppsSeq := (c.tb.ppsSeq + 1) % 65536, ppsFn := c.fn32, pps := ⟨c.tb.a.val, c.tb.b.val⟩ } }.raise 0x011 6 []

/-- S + TBS_PPS_OFS has reached a whole second: PPS_OUT rises when it is enabled and not squelched. An edge that falls due while the
output is high, disabled or squelched is not produced, then or afterwards (R326, R354). -/
def ppsOutEdge (tick : Nat) (c : Ctl) : Ctl :=
  let c := c.advTo tick
  if c.ppsSecond = c.tb.ppsLast then c
  else
    let c := { c with tb := { c.tb with ppsLast := c.ppsSecond } }
    if c.ppsOut || !c.on F.TMU_OUT_CTL_PPS_EN || c.tb.squelched then c
    else { c with tb := { c.tb with ppsHigh := true, ppsEnd := c.mtime + c.ppsWidth * msecTicks } }

/-- TBS_PPS_OFS is written: the phase of PPS_OUT moves (R354). (DEDUCED: log entry 54.) -/
def ppsOfsWrite (v : Word) (c : Ctl) : Ctl :=
  let d := c.setReg R.TBS_PPS_OFS v
  d.ppsMoved (d.ppsOfs - c.ppsOfs)

/-- PPS_OUT falls once it has been high for its width (R354). (DESIGN CHOICE: log entry 5.) -/
def ppsOutFall (c : Ctl) : Ctl :=
  if c.tb.ppsHigh && c.dueBy c.tb.ppsEnd then
    let c := c.advMoment c.tb.ppsEnd
    { c with tb := { c.tb with ppsHigh := false } }
  else c

/-- The compare of unit k holds (R355, R357). -/
def Ctl.compareHolds (c : Ctl) (k : Nat) : Bool :=
  let lo := (c.reg (R.TBS_CMP_LO k)).toNat
  let v := (c.reg (R.TBS_CMP_HI k)).toNat * 2 ^ 32 + lo
  let src := c.get (F.TBS_CMP_CTL_SRC k)
  if src = 0 then decide (0 ≤ sdiff 32 c.fn32 lo)
  else decide (0 ≤ sdiff 64 (nsOf (if src = 1 then c.tb.sel else if src = 2 then c.tb.a.val else c.tb.b.val)) v)

/-- The unit fires. -/
def Ctl.compareFires (k : Nat) (late : Bool) (c : Ctl) : Ctl :=
  ((c.set (F.TBS_CMP_CTL_EN k) 0).set (F.TBS_CMP_CTL_LATE k) (b2n late)).raise 0x011 (8 + k) []

/-- TBS_CMP_CTL_k is written. -/
def compareArm (k : Nat) (value : Word) (tick : Nat) (c : Ctl) : Ctl :=
  if 4 ≤ k then c else
  let c := (c.advTo tick).sets [(F.TBS_CMP_CTL_EN k, wGet value 31 31), (F.TBS_CMP_CTL_SRC k, wGet value 29 28)]
  if c.on (F.TBS_CMP_CTL_EN k) then
    let c := c.set (F.TBS_CMP_CTL_LATE k) 0
    if c.compareHolds k then c.compareFires k true else c
  else c

/-- An armed unit whose condition has come to hold fires. -/
def compareFire (k tick : Nat) (c : Ctl) : Ctl :=
  if 4 ≤ k then c else
  let c := c.advTo tick
  if c.on (F.TBS_CMP_CTL_EN k) && c.compareHolds k then c.compareFires k false else c

/-- The write of TBS_CONV_T_LO converts T into a frame number (R356). -/
def frameConversion (lo : Word) (c : Ctl) : Ctl :=
  let c := c.setReg R.TBS_CONV_T_LO lo
  let t := (c.reg R.TBS_CONV_T_HI).toNat * 2 ^ 32 + lo.toNat
  let d := sdiff 64 t (nsOf c.tb.sb)
  let n : Int := -((-d) / 125000)
  c.sets [(F.TBS_CONV_FN_VALUE, unsgn 32 ((c.fn32 : Int) + n)), (F.TBS_CONV_STAT_VALID, b2n (decide (n.natAbs < 2 ^ 31))),
    (F.TBS_CONV_STAT_PAST, b2n (decide (n ≤ 0)))]

/-! ### Multiframe stamps (R344, R346) -/

/-- The stamps of a lane. -/
def Ctl.mfs (c : Ctl) (n : Nat) : MfStamps := tget c.tb.lanes n {}

/-- Change the stamps of a lane. -/
def Ctl.setMfs (n : Nat) (m : MfStamps) (c : Ctl) : Ctl := { c with tb := { c.tb with lanes := tput c.tb.lanes n m } }

/-- The words that TBS_MFS_SEL captures: STAT, XSEQ, then eight stamps of three words. -/
def MfStamps.words (m : MfStamps) : List Nat :=
  let last := m.tx.getLast?
  let stamp (f : Stamp2 → Nat) (o : Option Stamp2) : List Nat := words96 ((o.map f).getD 0)
  let xch (f : Exchange → Nat) : List Nat := words96 ((m.xch.map f).getD 0)
  let stat := b2n m.xch.isSome * 2 ^ 31 + b2n m.rx.isSome * 2 ^ 30 + ((m.xch.map (fun x => b2n x.domB * 2 ^ 29 + x.flags % 8 * 2 ^ 26)).getD 0)
    + ((last.map Prod.fst).getD 0) % 65536
  [stat, m.miss * 65536 + ((m.xch.map Exchange.t2seq).getD 0) % 65536] ++
  stamp Stamp2.a (last.map Prod.snd) ++ stamp Stamp2.b (last.map Prod.snd) ++ stamp Stamp2.a m.rx ++ stamp Stamp2.b m.rx ++
  xch Exchange.t1 ++ xch Exchange.t2 ++ xch Exchange.t3 ++ xch Exchange.t4

/-- TBS_MFS_SEL is written: the lane's stamps and exchange are captured for the writing master. (DEDUCED: log entry 54.) -/
def mfsSelect (m lane : Nat) (c : Ctl) : Ctl :=
  let c := c.set F.TBS_MFS_SEL_LANE lane
  if lane < 24 then c.putCapture 10 m (c.mfs lane).words else c

/-! ### The meanings -/

/-- STEP. -/
def execTbsStep (isB : Bool) (tick : Nat) (s : State) : Host.Outcome State Fault Refusal := onCtl (tbsStep isB tick) s

/-- ARM. -/
def execTbsArm (isB : Bool) (s : State) : Host.Outcome State Fault Refusal := onCtl (tbsArm isB) s

/-- A write of INC_FRAC. -/
def execIncWrite (isB : Bool) (frac : Word) (tick : Nat) (s : State) : Host.Outcome State Fault Refusal := onCtl (incWrite isB frac tick) s

/-- A write of SLEW_LO. -/
def execSlewWrite (isB : Bool) (lo : Word) (tick : Nat) (s : State) : Host.Outcome State Fault Refusal := onCtl (slewWrite isB lo tick) s

/-- SUSPECT clears. -/
def execSuspectClear (isB : Bool) (tick : Nat) (s : State) : Host.Outcome State Fault Refusal := onTimed (suspectClear isB tick) s

/-- Time moves on to the tick at which a slew ends (R337). -/
def execSlewEnd (isB : Bool) (tick : Nat) (s : State) : Host.Outcome State Fault Refusal :=
  onTimed (fun c => if (c.tb.dom isB).slew = 0 then c else c.advTo tick) s

/-- Time moves on to the tick at which O reaches zero (R341). -/
def execOffsetReduced (tick : Nat) (s : State) : Host.Outcome State Fault Refusal :=
  onTimed (fun c => if c.tb.ofs = 0 then c else c.advTo tick) s

/-- GO. -/
def execSelGo (isB : Bool) (tick : Nat) (s : State) : Host.Outcome State Fault Refusal := onCtl (selGo isB tick) s

/-- A write of VALID. -/
def execDomainValidWrite (isB on : Bool) (tick : Nat) (s : State) : Host.Outcome State Fault Refusal := onCtl (domainValidWrite isB on tick) s

/-- A read of a capturing register. -/
def execCaptureRead (m addr tick : Nat) (s : State) : Host.Outcome State Fault Refusal :=
  onState (byMaster m addr false (State.mapCtl (captureRead m addr tick))) s

/-- A read of TBS_TXQ_q_W0. -/
def execTxqPop (m q : Nat) (s : State) : Host.Outcome State Fault Refusal :=
  onState (byMaster m (R.TBS_TXQ_W0 q) false (State.mapCtl (txqPop m q))) s

/-- A stamp falls due. -/
def execTxqPush (s : State) : Host.Outcome State Fault Refusal := onTimed txqPush s

/-- PPS_IN rises. -/
def execPpsInEdge (tick : Nat) (s : State) : Host.Outcome State Fault Refusal := onTimed (ppsInEdge tick) s

/-- A PPS_OUT edge falls due. -/
def execPpsOutEdge (tick : Nat) (s : State) : Host.Outcome State Fault Refusal := onTimed (ppsOutEdge tick) s

/-- PPS_OUT falls. -/
def execPpsOutFall (s : State) : Host.Outcome State Fault Refusal := onTimed ppsOutFall s

/-- A write of TBS_CMP_CTL_k. -/
def execCompareArm (k : Nat) (value : Word) (tick : Nat) (s : State) : Host.Outcome State Fault Refusal := onCtl (compareArm k value tick) s

/-- A compare comes to hold. -/
def execCompareFire (k tick : Nat) (s : State) : Host.Outcome State Fault Refusal := onTimed (compareFire k tick) s

/-- A write of TBS_CONV_T_LO. -/
def execFrameConversion (lo : Word) (s : State) : Host.Outcome State Fault Refusal := onCtl (frameConversion lo) s

/-- A write of TBS_MFS_SEL. -/
def execMfsSelect (m lane : Nat) (s : State) : Host.Outcome State Fault Refusal :=
  onState (byMaster m R.TBS_MFS_SEL true (State.mapCtl (mfsSelect m lane))) s

end Sys2Proof.Machine
end

