-- ==== Sys2Proof/Machine/Overhead.lean ====
section
/-! DEFINITION. The overhead channels (R135 to R166): rings and serial ports, received MOBs and APS messages, and sealing on the
line; and the frame that an IN-FRAME lane receives (R79, R109, R111, R149). -/

namespace Sys2Proof.Machine

/-! ### Stamps (R342, R343) -/

/-- A stamp in one domain. -/
def Stamp2.dom (s : Stamp2) (isB : Bool) : Nat := if isB then s.b else s.a

/-- TX_CAL and RX_CAL of a lane, in 1/64 ns (R342). -/
def Ctl.txCal (c : Ctl) (n : Nat) : Int := sgn 16 (c.get (F.TBS_CAL_TX_CAL n))

/-- RX_CAL of a lane. -/
def Ctl.rxCal (c : Ctl) (n : Nat) : Int := sgn 16 (c.get (F.TBS_CAL_RX_CAL n))

/-- The departure of frame byte `i` of a transmit lane from its plane, after the frame boundary, in 1/64 ns: d_tx is 0.5 µs (R69,
R176, R342). -/
def Ctl.departs (c : Ctl) (n rate i : Nat) : Int := (32000 + byteOffset128 rate i / 2 : Nat) + c.txCal n

/-! ### Rings (R143 to R147, R347 to R349) -/

/-- The size of a ring. -/
def Ctl.dccSize (c : Ctl) (n i : Nat) : Nat := 256 * 2 ^ c.get (F.LOH_RING_CFG_SIZE n i)

/-- The scratchpad offset of a ring. -/
def Ctl.dccBase (c : Ctl) (n i : Nat) : Nat := c.get (F.LOH_RING_CFG_BASE n i)

/-- A ring is enabled, and its lane's overhead is served. -/
def Ctl.dccOn (c : Ctl) (n i : Nat) : Bool := c.on (F.LOH_RING_CFG_EN n i) && c.on (F.HDR_CTL_ENABLE (0x140 + n))

/-- The bytes that a ring of a size holds between its pointers. -/
def dccHeld (size wr rd : Nat) : Nat := (wr + size - rd % size) % size

/-- Bytes stored in a ring of the scratchpad from an offset, with wrap. -/
def Mem.dccPut (base size : Nat) : Nat → List Byte → Mem → Mem
  | _, [], m => m
  | o, b :: l, m => Mem.dccPut base size ((o + 1) % size) l { m with spad := tputD m.spad (base + o) b 0 }

/-- Bytes of a ring from an offset, with wrap. -/
def Mem.dccBytes (base size o n : Nat) (m : Mem) : List Byte := (List.range n).map fun k => tget m.spad (base + (o + k) % size) 0

/-- A byte discarded by a receive ring is counted, and RING_OVF is raised, for each of `k` bytes (R144, R146). (DEDUCED: log entry 33.) -/
def Ctl.dccLost (n i : Nat) : Nat → Ctl → Ctl
  | 0, c => c
  | k + 1, c => Ctl.dccLost n i k ((c.count (F.LOH_RING_CNT_CNT n i) 1).raise (0x140 + n) 3 [])

/-- The bytes of a frame that the OHE stores in time, and how many it does not: the places of the others are listed by ring (R146). (DEDUCED: log entry 33.) -/
def inTime (missed : List (Nat × Nat)) (i : Nat) (l : List Byte) : List Byte × Nat :=
  let keep := (List.range l.length).filter fun k => !missed.contains (i, k)
  (keep.map fun k => lget l k 0, l.length - keep.length)

/-- Received bytes enter a ring as far as there is room; with `whole` all of them or none (R144, R146, R348). (DEDUCED: log entry 33.) -/
def dccStore (n i : Nat) (whole : Bool) (missed : List (Nat × Nat)) (all : List Byte) (s : State) : State :=
  let c := s.ctl
  if !c.dccOn n i then s
  else
    let size := c.dccSize n i
    let wr := c.get (F.LOH_RING_WR_PTR n i)
    let room := size - 1 - dccHeld size wr (c.get (F.LOH_RING_RD_PTR n i))
    let l := (inTime missed i all).1
    let fit := if whole && decide (room < all.length ∨ l.length < all.length) then [] else l.take room
    let mem := s.mem.dccPut (c.dccBase n i) size wr fit
    let lost := all.length - fit.length
    let c := c.ringAccesses 9 (c.dccBase n i) size wr fit.length
    { s with mem, ctl := ((c.set (F.LOH_RING_WR_PTR n i) ((wr + fit.length) % size)).occ 0xA2 fit.length).dccLost n i lost }

/-- A write of LOH_RING_CFG_i (R143, R347). -/
def ringCfgWrite (n i : Nat) (value : Word) (c : Ctl) : Ctl :=
  if 24 ≤ n ∨ 4 ≤ i then c
  else
    let en := bit value.toNat 31
    if c.on (F.LOH_RING_CFG_EN n i) then c.set (F.LOH_RING_CFG_EN n i) (b2n en)
    else
      let sz := wGet value 27 24
      let base := wGet value 21 0
      let size := 256 * 2 ^ sz
      let legal := decide (sz ≤ 8) && base % size == 0 && decide (base + size ≤ 0x400000)
      let c := c.sets [(F.LOH_RING_CFG_SIZE n i, sz), (F.LOH_RING_CFG_BASE n i, base)]
      if en && legal then
        let c := c.sets [(F.LOH_RING_CFG_EN n i, 1), (F.LOH_RING_WR_PTR n i, 0), (F.LOH_RING_RD_PTR n i, 0)]
        let st := c.onBit F.TBS_DCCW_STAMP_LANES n
        let o := c.loh n
        c.setOh n (if i = 2 then { o with stamped2 := st }
          else if i = 3 then { o with stamped3 := st, txRec := [], txRecLen := 0, txStamp := none } else o)
      else c

/-- A firmware write of a ring pointer (R144 to R146): RD of the receive rings and WR of the transmit rings. -/
def ringPtrWrite (n i ptr : Nat) (c : Ctl) : Ctl :=
  if 24 ≤ n ∨ 4 ≤ i ∨ c.dccSize n i ≤ ptr then c
  else if i % 2 = 0 then c.set (F.LOH_RING_RD_PTR n i) ptr else c.set (F.LOH_RING_WR_PTR n i) ptr

/-- A byte that the OHE reads from the scratchpad, or `none` when the read fails parity after replay (R421). -/
def Ctl.oheByte (fs : List ParityFault) (m : Mem) (a : Nat) (c : Ctl) : Option Byte × Ctl :=
  let hits := spadFaults fs a 1
  (if hits.any id then none else some (tget m.spad a 0), hits.foldl (fun c f => c.spmParity 9 (0x10000000 + a) f) (c.spadAccesses 9 a 1))

/-- One byte due on a plain transmit ring. A byte that cannot be read goes as the idle byte (R421). (DEDUCED: log entry 33.) -/
def Ctl.dccTake (fs : List ParityFault) (n i : Nat) (m : Mem) (idle : Byte) (c : Ctl) : Byte × Ctl :=
  let rd := c.get (F.LOH_RING_RD_PTR n i)
  if rd = c.get (F.LOH_RING_WR_PTR n i) then (idle, c.count (F.LOH_RING_CNT_CNT n i) 1)
  else
    let r := c.oheByte fs m (c.dccBase n i + rd)
    let c := (r.2.set (F.LOH_RING_RD_PTR n i) ((rd + 1) % c.dccSize n i)).occ 0xA3 1
    match r.1 with
    | some b => (b, c)
    | none => (idle, c.count (F.LOH_RING_CNT_CNT n i) 1)

/-- Bytes due on a plain transmit ring (R145). -/
def dccTakes (fs : List ParityFault) (n i : Nat) (m : Mem) (idle : Byte) : Nat → Ctl → List Byte × Ctl
  | 0, c => ([], c)
  | k + 1, c =>
    let r := c.dccTake fs n i m idle
    let q := dccTakes fs n i m idle k r.2
    (r.1 :: q.1, q.2)

/-- A transmit record header (Table 12.3): its LEN, and the stamp asked for, or `none` when it is malformed. -/
def txHeader (h : List Byte) (maxLen : Nat) : Option (Nat × Option (Nat × Bool)) :=
  let fl := beAt h 1 1
  let len := beAt h 2 2
  if beAt h 0 1 = 0x5A ∧ fl % 64 = 0 ∧ 1 ≤ len ∧ len ≤ maxLen ∧ beAt h 6 2 = 0 then
    some (len, if bit fl 7 then some (beAt h 4 2, bit fl 6) else none)
  else none

/-- The length of a record: header, data and padding to a multiple of 4 bytes (R347). -/
def recordLen (header len : Nat) : Nat := header + (len + 3) / 4 * 4

/-- The bytes of a record's header or data; one that cannot be read goes as the idle byte and is counted (R421). -/
def Ctl.recordBytes (fs : List ParityFault) (n : Nat) (m : Mem) (idle : Byte) (o : Nat) : Nat → Ctl → List Byte × Ctl
  | 0, c => ([], c)
  | k + 1, c =>
    let r := c.oheByte fs m (c.dccBase n 3 + o % c.dccSize n 3)
    let q := Ctl.recordBytes fs n m idle (o + 1) k (if r.1.isNone then r.2.count (F.LOH_RING_CNT_CNT n 3) 1 else r.2)
    (r.1.getD idle :: q.1, q.2)

/-- A record is started on a stamped DCC-W transmit ring once the whole of it is there; a malformed header empties the ring
(R349). -/
def Ctl.recordStart (fs : List ParityFault) (n : Nat) (m : Mem) (idle : Byte) (c : Ctl) : Ctl :=
  let size := c.dccSize n 3
  let rd := c.get (F.LOH_RING_RD_PTR n 3)
  let held := dccHeld size (c.get (F.LOH_RING_WR_PTR n 3)) rd
  if held < 8 then c
  else
    let h := c.recordBytes fs n m idle rd 8
    let c := h.2
    match txHeader h.1 2048 with
    | none => (c.set (F.LOH_RING_RD_PTR n 3) (c.get (F.LOH_RING_WR_PTR n 3))).txrecBad 2
    | some (len, want) =>
      if held < recordLen 8 len then c
      else
        let r := c.recordBytes fs n m idle (rd + 8) len
        r.2.setOh n { r.2.loh n with txRec := r.1, txRecLen := recordLen 8 len, txStamp := want }

/-- One DCC-W byte due on a stamped transmit ring; `k` is its place in the frame (R349, R350). -/
def Ctl.recordTake (fs : List ParityFault) (n rate k : Nat) (m : Mem) (idle : Byte) (c : Ctl) : Byte × Ctl :=
  let c := if (c.loh n).txRec.isEmpty then c.recordStart fs n m idle else c
  let o := c.loh n
  match o.txRec with
  | [] => (idle, c.count (F.LOH_RING_CNT_CNT n 3) 1)
  | b :: rest =>
    let c := match o.txStamp with
      | some (id, domB) =>
        c.wantStamp 2 ⟨id, domB, n, c.instant + units64 (c.departs n rate (dccwIndex rate k))⟩
      | none => c
    let c := if rest.isEmpty then
        c.set (F.LOH_RING_RD_PTR n 3) ((c.get (F.LOH_RING_RD_PTR n 3) + o.txRecLen) % c.dccSize n 3)
      else c
    (b, (c.setOh n { o with txRec := rest, txStamp := none }).occ 0xA3 1)

/-- DCC-W bytes due on a stamped transmit ring, from place `k` of the frame. -/
def recordTakes (fs : List ParityFault) (n rate : Nat) (m : Mem) (idle : Byte) : Nat → Nat → Ctl → List Byte × Ctl
  | 0, _, c => ([], c)
  | j + 1, k, c =>
    let r := c.recordTake fs n rate k m idle
    let q := recordTakes fs n rate m idle j (k + 1) r.2
    (r.1 :: q.1, q.2)

/-- The DCC-N bytes of the frame that a lane sends now (Table 5.1). -/
def Ctl.dccnOut (fs : List ParityFault) (n : Nat) (m : Mem) (c : Ctl) : List Byte × Ctl :=
  let idle := BitVec.ofNat 8 (c.get (F.LOH_DCC_CTL_IDLE_N n))
  let src := c.get (F.LOH_DCC_CTL_N_SRC n)
  if src = 1 then
    let k := c.get (F.LOH_DCC_CTL_N_OSP n)
    let di := (tget c.osp k {}).di
    (if c.on (F.OHC_OSP_CTL_EN k) ∧ di.length = 128 then di else List.replicate 128 idle, c)
  else if src = 2 ∧ c.dccOn n 1 then dccTakes fs n 1 m idle 128 c
  else (List.replicate 128 idle, c)

/-- The DCC-W bytes of the frame that a lane sends now (Table 5.1). -/
def Ctl.dccwOut (fs : List ParityFault) (n rate : Nat) (m : Mem) (c : Ctl) : List Byte × Ctl :=
  let idle := BitVec.ofNat 8 (c.get (F.LOH_DCC_CTL_IDLE_W n))
  if c.get (F.LOH_DCC_CTL_W_SRC n) = 2 ∧ c.dccOn n 3 then
    if (c.loh n).stamped3 then recordTakes fs n rate m idle 792 0 c else dccTakes fs n 3 m idle 792 c
  else (List.replicate 792 idle, c)

/-! ### Overhead serial ports (R139 to R142) -/

/-- A serial port. -/
def Ctl.ospPort (c : Ctl) (k : Nat) : Osp := tget c.osp k {}

/-- Change a serial port. -/
def Ctl.setOsp (k : Nat) (o : Osp) (c : Ctl) : Ctl := { c with osp := tput c.osp k o }

/-- A received channel of a lane is extracted (R136). -/
def Ctl.extracted (c : Ctl) (n : Nat) : Bool :=
  decide (n < 24) && c.rxEnabled n && (c.lrx n).inFrame && !decide (1 ≤ (c.lrx n).top ∧ (c.lrx n).top ≤ 5)

/-- A slip of a port's elastic store (R142, R165). -/
def Ctl.ospSlip (k : Nat) (c : Ctl) : Ctl :=
  let o := c.ospPort k
  (c.setOsp k { o with slips := satAdd 16 o.slips 1 }).raise 0x030 0 []

/-- The DCC-N bytes of a frame enter a port's elastic store. A byte that finds it full discards the newest 128 bytes (R142). (DESIGN CHOICE: log entry 34.) -/
def Ctl.ospStore (k : Nat) (l : List Byte) (c : Ctl) : Ctl :=
  let o := c.ospPort k
  if 256 < o.store.length + l.length then (c.setOsp k { o with store := o.store.take (o.store.length - 128) ++ l }).ospSlip k
  else c.setOsp k { o with store := o.store ++ l }

/-- A 128-byte block passes on a serial port (R141, R142). No block stands on a port that is disabled: OSP_DO is low (R139). (DESIGN CHOICE: log entry 34.) -/
def ospBlock (k : Nat) (di : List Byte) (c : Ctl) : Ctl :=
  if 8 ≤ k || !c.on (F.OHC_OSP_CTL_EN k) then c
  else
    let idle := List.replicate 128 (BitVec.ofNat 8 (c.get (F.OHC_OSP_CTL_IDLE k)))
    let o : Osp := { c.ospPort k with di := slice di 0 128 }
    if !c.extracted (c.get (F.OHC_OSP_CTL_LANE k)) then c.setOsp k { o with store := [], running := false, out := idle }
    else if 128 ≤ o.store.length then c.setOsp k { o with running := true, out := o.store.take 128, store := o.store.drop 128 }
    else if o.running then (c.setOsp k { o with out := idle }).ospSlip k
    else c.setOsp k { o with out := idle }

/-! ### The received MOB (R147 to R156) -/

/-- Garbage overhead is counted, and MOB_GARBAGE is raised (R148, R149). -/
def Ctl.garbage (n : Nat) (c : Ctl) : Ctl := (c.count (F.LOH_CNT_GARB_GARB n) 1).raise (0x140 + n) 0 []

/-- All bytes of a range are zero. -/
def zeroBytes (l : List Byte) (a n : Nat) : Bool := (slice l a n).all (· == 0)

/-- The UNIT field holds only what Table 3.8 gives as zero or reserved. A PAIR_ID or PENNANT that is not zero beside ROLE UNPAIRED is taken
as received: neither is a bit that is zero in every MOB. (DEDUCED: log entry 31.) -/
def unitOk (b : List Byte) : Bool := beAt b 68 1 % 32 == 0 && bits (beAt b 68 1) 6 5 != 3

/-- The PENNANT field's zero bytes (R85). -/
def pennantOk (b : List Byte) : Bool := zeroBytes b 76 4

/-- The ECHO field's zero bytes (Table 3.9). -/
def echoOk (b : List Byte) : Bool := zeroBytes b 89 7 && (bit (beAt b 88 1) 7 || zeroBytes b 80 8)

/-- The TIME field's zero bits and bytes (Table 3.10). (DEDUCED: log entry 31.) -/
def timeOk (b : List Byte) : Bool :=
  zeroBytes b 121 7 && beAt b 120 1 % 16 == 0 && (bit (beAt b 120 1) 4 || (zeroBytes b 106 10 && zeroBytes b 118 2))

/-- The CAPS field's zero bits and bytes, and its key code (Table 3.11). (DEDUCED: log entry 31.) -/
def capsOk (b : List Byte) : Bool :=
  zeroBytes b 132 12 && beAt b 129 1 < 4 && beAt b 130 1 % 16 == 0 && decide (beAt b 131 1 ≤ 2)

/-- Words of the MOB laid into registers when their field is good. -/
def Ctl.mobWords (ok : Bool) (r : Nat → Nat) (n : Nat) (l : List Byte) (c : Ctl) : Ctl := if ok then c.putRegBytes r n l else c

/-- TIM follows an accepted TRACE (R151). -/
def Ctl.timStep (n : Nat) (trace : List Byte) (c : Ctl) : Ctl :=
  if !c.on (F.LOH_CTL_TIM_EN n) then c
  else
    let exp := (List.range 16).flatMap fun w => beBytes 4 (c.reg (R.LOH_TRACE_EXP n w)).toNat
    let o := c.loh n
    let o := if trace = exp then { o with timSame := min 3 (o.timSame + 1), timDiff := 0 }
      else { o with timDiff := min 3 (o.timDiff + 1), timSame := 0 }
    let l := c.lrx n
    (c.setOh n o).setRx n { l with tim := (l.tim || decide (3 ≤ o.timDiff)) && !decide (3 ≤ o.timSame) }

/-- FE_ACTIVE of a lane takes a value; a change is a change of a raw condition (R154, R269). -/
def Ctl.setFe (n : Nat) (b : Bool) (c : Ctl) : Ctl :=
  let o := c.loh n
  if o.feActive = b then c else (c.setOh n { o with feActive := b }).laneChanged n

/-- Ticks of 204.8 MHz in a millisecond. -/
def msTicks : Nat := 204800

/-- UNIT fields accepted 8 ms ago or later. -/
def Ctl.recentUnits (c : Ctl) (m : Nat) : List (Nat × Nat × Nat × Bool) :=
  (c.loh m).units.filter fun q => decide (c.mtime - q.1 ≤ 8 * msTicks)

/-- The UNIT that lane n has just accepted conflicts with one accepted on another lane in the last 8 ms (R156). -/
def Ctl.unitsConflict (c : Ctl) (n m : Nat) : Bool :=
  match (c.loh n).units with
  | (_, p, d, a) :: _ => m != n && a && p != 0 && (c.recentUnits m).any fun q => q.2.1 == p && q.2.2.1 != d && q.2.2.2
  | [] => false

/-- A lane takes part in a conflict: its bit becomes 1 (R156, R165). -/
def Ctl.conflictOn (n : Nat) (c : Ctl) : Ctl :=
  let was := c.onBit F.OHC_UNIT_CONFL_LANES n
  ((c.setOh n { c.loh n with conflAt := c.mtime }).setBit F.OHC_UNIT_CONFL_LANES n true).raiseIf (!was) 0x030 1

/-- Conflicts of the acceptance just made on a lane. -/
def Ctl.unitConflicts (n : Nat) (c : Ctl) : Ctl :=
  (List.range 24).foldl (fun c m => if c.unitsConflict n m then (c.conflictOn n).conflictOn m else c) c

/-- 8 ms have passed without a conflicting pair: the bit clears. -/
def unitConflictEnd (n tick : Nat) (c : Ctl) : Ctl :=
  let c := c.advTo tick
  if n < 24 ∧ 8 * msTicks ≤ c.mtime - (c.loh n).conflAt then c.setBit F.OHC_UNIT_CONFL_LANES n false else c

/-- What an echo observation proves of the mate (R372): 1 alive, 2 silent, 0 neither. (DEDUCED: log entry 56.) -/
def Ctl.echoProof (c : Ctl) (count age : Nat) : Nat :=
  match c.pair.mate with
  | some p => if 2 ≤ sdiff 32 count p.count then 1 else if age = 2 then 2 else 0
  | none => if age ≤ 1 then 1 else if age = 2 then 2 else 0

/-- An echo observation is given to the pair logic or withheld (R155). -/
def Ctl.echoStep (n : Nat) (b : List Byte) (c : Ctl) : Ctl :=
  let fl := beAt b 88 1
  let count := beAt b 84 4
  if c.pairEn && c.on (F.LOH_CTL_EVID_EN n) && echoOk b && bit fl 7 && decide (fl % 128 ≤ 2) && c.on F.UPR_STAT_DEVID_REC &&
      beAt b 80 4 == (c.reg R.UPR_MATE_DEVID).toNat then
    let o := c.loh n
    let good := match o.echoLast with
      | some q => decide (0 ≤ sdiff 32 count q ∧ sdiff 32 count q ≤ 64)
      | none => true
    if good then
      let c := c.setOh n { o with echoLast := some count, echoAt := c.mtime }
      let old := c.pair.obs.filter fun e => decide (c.mtime - e.time ≤ 32 * msTicks)
      { c with pair := { c.pair with obs := old ++ [⟨n, c.mtime, c.echoProof count (fl % 128)⟩] } }
    else c.raise (0x140 + n) 5 []
  else c

/-- A time exchange is formed, in the domain that the lane's last latch took, or its miss is counted (R345, R346). -/
def Ctl.exchangeStep (n : Nat) (b : List Byte) (c : Ctl) : Ctl :=
  let fl := beAt b 120 1
  if !timeOk b || !bit fl 4 then c
  else
    let m := c.mfs n
    let seq := beAt b 118 2
    let isB := m.domB
    match m.tx.find? (fun q => q.1 == seq), (c.loh n).rxStamp with
    | some (_, t1), some t4 =>
      c.setMfs n { m with xch := some ⟨isB, t1.dom isB, beAt b 106 10 * 65536, beAt b 96 10 * 65536, t4.dom isB, fl / 32, seq⟩ }
    | _, _ => (c.setMfs n { m with miss := satAdd 16 m.miss 1 }).raise 0x011 7 []

/-- A MOB is accepted: every good field is replaced (R148), and the trace, far-end unit, conflict, echo and time rules act on it. Bytes
240 to 251 of an unsealed MOB are not judged. (DEDUCED: log entry 31.) -/
def Ctl.acceptMob (n : Nat) (b : List Byte) (sealed : Bool) (c : Ctl) : Ctl :=
  let trace := slice b 0 64
  let old := (List.range 16).flatMap fun w => beBytes 4 (c.reg (R.LOH_TRACE_RX n w)).toNat
  let clean := unitOk b && pennantOk b && echoOk b && timeOk b && capsOk b && zeroBytes b 144 96
  let c := c.putRegBytes (R.LOH_TRACE_RX n) 16 trace
  let c := c.mobWords (unitOk b) (R.LOH_RX_MOB n) 2 (slice b 64 8)
  let c := c.mobWords (pennantOk b) (fun w => R.LOH_RX_MOB n (w + 2)) 2 (slice b 72 8)
  let c := c.mobWords (echoOk b) (fun w => R.LOH_RX_MOB n (w + 4)) 4 (slice b 80 16)
  let c := c.mobWords (timeOk b) (R.LOH_RX_TIME n) 8 (slice b 96 32)
  let c := c.mobWords (capsOk b) (fun _ => R.LOH_RX_CAPS n) 1 (slice b 128 4)
  let c := (c.set (F.LOH_RX_STAT_MOB_SEQ n) (c.get (F.LOH_RX_STAT_MOB_SEQ n) + 1)).occ (0x78 + n) 1
  let u := c.reg (R.LOH_RX_MOB n 1)
  let units := (if unitOk b then [(c.mtime, wGet u 23 0, (c.reg (R.LOH_RX_MOB n 0)).toNat, wGet u 31 31 == 1)] else []) ++ c.recentUnits n
  let o := { c.loh n with
    accAt := some c.mtime, sealedAcc := sealed, units
    sealedAt := if sealed then some c.mtime else (c.loh n).sealedAt
    t2 := (c.loh n).rxStamp.map fun st => (beAt b 116 2, st) }
  let c := c.setOh n o
  let c := if clean then c else c.garbage n
  let c := c.raiseIf (trace != old) (0x140 + n) 6
  let c := c.timStep n trace
  let c := c.setFe n (sealed && c.on (F.LOH_SEAL_RX_EN n) && bit (beAt b 68 1) 7 && decide (bits (beAt b 68 1) 6 5 ≤ 1))
  let c := if unitOk b then c.unitConflicts n else c
  let c := if sealed then c.echoStep n b else c
  c.exchangeStep n b

/-- The last acceptance under sealing becomes more than 2 multiframes old at the multiframe boundary (R154). -/
def feActiveExpire (n : Nat) (c : Ctl) : Ctl :=
  if 24 ≤ n || !c.mfEdge then c
  else match (c.loh n).sealedAt with
    | none => c.setFe n false
    | some t => if 64 * ticksPerFrame < c.mtime + (ticksPerFrame - c.tick) - t then c.setFe n false else c

/-- AUTH follows a received multiframe that ended with, or without, an accepted MOB (R163). (DEDUCED: log entry 32.) -/
def Ctl.authStep (n : Nat) (good : Bool) (c : Ctl) : Ctl :=
  let l := c.lrx n
  if !c.on (F.LOH_SEAL_RX_EN n) || !l.mfAligned || decide (1 ≤ l.top ∧ l.top ≤ 5) then c
  else
    let o := c.loh n
    let o := if good then { o with authGood := min 2 (o.authGood + 1), authBad := 0 }
      else { o with authBad := min 2 (o.authBad + 1), authGood := 0 }
    ((c.setOh n o).setRx n { l with auth := (l.auth || decide (2 ≤ o.authBad)) && !decide (2 ≤ o.authGood) }).evalTop n

/-- A complete MOB on a lane that expects unsealed overhead is accepted when its CRC holds; otherwise it is garbage (R92, R147). (DEDUCED: log entry 32.) -/
def mobReceive (n tick : Nat) (c : Ctl) : Ctl := c.rxLane n fun c =>
  let c := c.advTo tick
  match (c.loh n).mobDone with
  | none => c
  | some (b, _, _, _) =>
    if c.on (F.LOH_SEAL_RX_EN n) then c
    else
      let c := c.setOh n { c.loh n with mobDone := none }
      if mobCrcOk b then (c.acceptMob n b false).evalTop n else (c.garbage n).occ (0xA4 + n) 1

/-! ### APS messages (R98, R162, R164) -/

/-- A received message is dropped as filler, counted as malformed, or passed to the protection engine. -/
def Ctl.apsTake (n : Nat) (msg : List Byte) (c : Ctl) : Ctl :=
  if apsFiller msg then c
  else match apsDecode msg with
    | some a => c.apsAct n a
    | none => (c.count (F.LOH_CNT_APS_MALF n) 1).raise (0x140 + n) 1 []

/-- The oldest message that an unsealed lane has received is handled. (DEDUCED: log entry 35.) -/
def apsMessageReceive (n : Nat) (c : Ctl) : Ctl := c.rxLane n fun c =>
  match (c.loh n).apsIn with
  | [] => c
  | m :: rest => (c.setOh n { c.loh n with apsIn := rest }).apsTake n m

/-! ### Sealed MOBs (R160, R161, R410, R411) -/

/-- The judgement of a MOB under a key. -/
inductive SealJudge where
  | accept (s : Nat)
  | replay | nochk | tagfail
  deriving DecidableEq, Repr

/-- A MOB is judged for replay, for a mask at hand, and for its tag (R160, R161). `kind` is the job that gives the mask, and `h` says
that the key's hash key is at hand. -/
def Ctl.sealJudge (c : Ctl) (n kind : Nat) (k : KeyVal) (h : Bool) (last : Option Nat) (mism : Bool) (b : List Byte)
    (aps : List (List Byte)) : SealJudge :=
  match sealSeq last (c.get (F.LOH_SEAL_RXHI_HI n)) (beAt b 240 4) with
  | none => .replay
  | some s =>
    if mism || !h || !c.slrReady ⟨n, kind, s⟩ then .nochk
    else if slice b 244 8 = sealTag k false s (b.take 244 ++ aps.flatten) then .accept s
    else .tagfail

/-- A mask that the MOB needs under a key, and that is not complete at the decision, is missed (R410, R415). (DEDUCED: log entry 36.) -/
def Ctl.maskMissed (n kind : Nat) (last : Option Nat) (b : List Byte) (c : Ctl) : Ctl :=
  match sealSeq last (c.get (F.LOH_SEAL_RXHI_HI n)) (beAt b 240 4) with
  | none => c
  | some s =>
    if c.slrReady ⟨n, kind, s⟩ then c
    else
      let asked := c.cip.demand.any fun j => j.lane == n && j.kind == kind
      ((c.when asked (Ctl.count F.SLR_CNT_OND_MISSED 1)).slrDrop fun j => j.lane == n && j.kind == kind).raise 0x041 0 []

/-- Held messages of an accepted multiframe go to the protection engine in index order (R162). -/
def Ctl.releaseAps (n : Nat) (l : List (List Byte)) (c : Ctl) : Ctl := l.foldl (fun c m => c.apsTake n m) c

/-- A MOB is accepted under sealing: the next mask is requested, and the messages are passed on. -/
def Ctl.sealAccept (n kind s : Nat) (b : List Byte) (aps : List (List Byte)) (c : Ctl) : Ctl :=
  let c := (c.slrDrop fun j => j.lane == n && j.kind == kind && decide (j.seq ≤ s)).slrWant ⟨n, kind, s + 1⟩
  ((c.acceptMob n b true).releaseAps n aps).authStep n true |>.evalTop n

/-- A MOB is refused and counts in one field of LOH_CNT_AUTH (R161). -/
def Ctl.sealRefuse (n : Nat) (f : Fld) (c : Ctl) : Ctl := (((c.count f 1).occ (0xA4 + n) 1).raise (0x140 + n) 2 []).authStep n false

/-- The MOB of a lane that expects sealed overhead is judged, and once more under a previous key that is kept (R161, R411); NOCHK counts
where a verification under either key could not be made. (DEDUCED: log entry 32.) -/
def mobSealDecision (n tick : Nat) (mism : Bool) (c : Ctl) : Ctl := c.rxLane n fun c =>
  let c := c.advTo tick
  match (c.loh n).mobDone with
  | none => c
  | some (b, all, passed, aps) =>
    if !c.on (F.LOH_SEAL_RX_EN n) then c
    else
      let c := c.setOh n { c.loh n with mobDone := none }
      let c := if mism then (c.count F.SLR_CNT_GRACE_GHASH_MISM 1).raise 0x041 1 [] else c
      if !all then c.sealRefuse n (F.LOH_CNT_AUTH_UNSEALED n)
      else
        let slot := c.slot n
        let j := match slot.key with
          | some k => c.sealJudge n 1 k (c.slrReady ⟨n, 3, k.epoch⟩) (c.loh n).sLast mism b aps
          | none => match sealSeq (c.loh n).sLast (c.get (F.LOH_SEAL_RXHI_HI n)) (beAt b 240 4) with
            | none => .replay
            | some _ => .nochk
        match j with
        | .accept s => (c.setOh n { c.loh n with sLast := some s }).sealAccept n 1 s b (aps.drop passed)
        | bad =>
          let again := match slot.prev with
            | some (k, last) => c.sealJudge n 2 k true last mism b aps
            | none => .tagfail
          let c := c.when slot.key.isSome (Ctl.maskMissed n 1 (c.loh n).sLast b)
          let c := match slot.prev with
            | some (_, last) => c.maskMissed n 2 last b
            | none => c
          match again, slot.prev with
          | .accept s, some (k, _) =>
            ((c.setSlot n { slot with prev := some (k, some s) }).count F.SLR_CNT_GRACE_GRACE 1).sealAccept n 2 s b (aps.drop passed)
          | _, _ =>
            if bad = .replay then c.sealRefuse n (F.LOH_CNT_AUTH_REPLAY n)
            else if bad = .nochk ∨ again = .nochk then c.sealRefuse n (F.LOH_CNT_AUTH_NOCHK n)
            else c.sealRefuse n (F.LOH_CNT_AUTH_TAGFAIL n)

/-! ### The frame that an IN-FRAME lane receives -/

/-- The FAW check (R109): the errored bits, and the run of errored FAWs. -/
def Ctl.fawStep (n : Nat) (f : RxFrame) (c : Ctl) : Ctl :=
  let e := popCount 32 (f.faw ^^^ fawWord)
  let l := c.lrx n
  let c := c.count (F.LRX_CNT_FAW_FAW n) (if e = 0 then 0 else 1)
  c.setRx n { l with fawErr := if e ≤ 1 then 0 else l.fawErr + 1 }

/-- EXC and DEG count an errored frame, and are declared when the count reaches DECL, unless no window has so many frames (R114, R116). -/
def LaneRx.errored (l : LaneRx) : LaneRx :=
  if 1 ≤ l.top ∧ l.top ≤ 5 then l
  else
    let e := l.excCnt + 1
    let d := l.degCnt + 1
    { l with excCnt := e, degCnt := d, exc := l.exc || decide (l.excSet.1 ≤ e ∧ l.excSet.1 ≤ l.excLen)
             deg := l.deg || decide (l.degSet.1 ≤ d ∧ l.degSet.1 ≤ l.degLen) }

/-- The BIP-8 check of the frame before (R79, R116), which a lane AIS frame does not carry (R80), and the parity of this one. (DEDUCED: log entries 30, 68.) -/
def Ctl.bipStep (n : Nat) (f : RxFrame) (c : Ctl) : Ctl :=
  let l := c.lrx n
  let e := match l.lastXor with
    | some x => if f.stat = 0xFF then 0 else popCount 8 (x ^^^ f.bip)
    | none => 0
  let l := { l with lastXor := some (lineXor l.rate f), reiSum := l.reiSum + e }
  let hit := if e = 0 then 0 else 1
  let a := tget c.pmAcc n {}
  let c := { c with pmAcc := tput c.pmAcc n { a with ne := a.ne + hit } }
  let c := ((c.count (F.LRX_CNT_BIP_BITS n) e).count (F.LRX_CNT_EFR_FRAMES n) hit).occ (0x60 + n) hit
  c.setRx n (if e = 0 then l else l.errored)

/-- Multiframe alignment (R111). (DEDUCED: log entry 26.) -/
def Ctl.mfiStep (n : Nat) (f : RxFrame) (c : Ctl) : Ctl :=
  let l := c.lrx n
  let m := f.mfi % 256
  let run := if m < 32 then (if l.mfRun ≠ 0 ∧ m = (l.mfi + 1) % 32 then l.mfRun + 1 else 1) else 0
  let l := { l with mfi := m, mfRun := run }
  if !l.mfAligned then c.setRx n { l with mfAligned := decide (3 ≤ run), mfExp := (m + 1) % 32, mfErr := 0 }
  else if m = l.mfExp then c.setRx n { l with mfErr := 0, mfExp := (m + 1) % 32 }
  else (c.count (F.LRX_CNT_MFI_MFI n) 1).setRx n { l with mfErr := l.mfErr + 1, mfExp := (l.mfExp + 1) % 32, mfAligned := decide (l.mfErr + 1 < 4) }

/-- The STAT byte is one that R75 does not give, and is ignored (R149). (DEDUCED: log entry 26.) -/
def statBad (st : Nat) : Bool := st != 0xFF && (bit st 7 || 2 ≤ bits st 5 4 || st % 8 != 0)

/-- AIS-L and RDI follow the STAT byte (R112, R149). (DEDUCED: log entry 26.) -/
def LaneRx.statStep (st : Nat) (l : LaneRx) : LaneRx :=
  let l := if st = 0xFF then { l with aisUp := min 3 (l.aisUp + 1), aisDown := 0 } else { l with aisDown := min 3 (l.aisDown + 1), aisUp := 0 }
  let l := { l with ais := (l.ais || decide (3 ≤ l.aisUp)) && !decide (3 ≤ l.aisDown) }
  if st = 0xFF ∨ statBad st then l
  else
    let l := if bit st 6 then { l with rdiUp := min 3 (l.rdiUp + 1), rdiDown := 0 } else { l with rdiDown := min 3 (l.rdiDown + 1), rdiUp := 0 }
    { l with rdi := (l.rdi || decide (3 ≤ l.rdiUp)) && !decide (3 ≤ l.rdiDown) }

/-- The frame just received begins a multiframe: by the expected MFI once the lane has multiframe alignment, by the byte itself before
(R111). -/
def LaneRx.mfBegins (l : LaneRx) (f : RxFrame) : Bool := if l.mfAligned then l.mfExp == 1 else f.mfi == 0

/-- STAT and REI are judged (R120, R149). A SEALED value that differs counts once per multiframe. (DEDUCED: log entry 68.) -/
def Ctl.statStep (n : Nat) (f : RxFrame) (c : Ctl) : Ctl :=
  let c := c.setRx n ((c.lrx n).statStep f.stat)
  let c := if (c.lrx n).mfBegins f then c.setOh n { c.loh n with mismatched := false } else c
  let c := if statBad f.stat then c.garbage n
    else if f.stat ≠ 0xFF ∧ (bit f.stat 3 != c.on (F.LOH_SEAL_RX_EN n)) ∧ !(c.loh n).mismatched then
      ((c.setOh n { c.loh n with mismatched := true }).count (F.LOH_CNT_MISC_MISMATCH n) 1).raise (0x140 + n) 7 []
    else c
  if f.stat = 0xFF then c
  else if 8 < f.rei then c.garbage n
  else
    let a := tget c.pmAcc n {}
    { c with pmAcc := tput c.pmAcc n { a with fe := a.fe + b2n (decide (0 < f.rei)) } }

/-- The APS bytes of a frame as eight messages. -/
def apsSplit (l : List Byte) : List (List Byte) := (List.range 8).map fun k => slice l (8 * k) 8

/-- The MOB slice and the APS messages of a frame (R92, R98, R162). (DEDUCED: log entries 32, 35.) -/
def Ctl.mobStep (n : Nat) (f : RxFrame) (stamp : Stamp2) (c : Ctl) : Ctl :=
  let l := c.lrx n
  let o := c.loh n
  let ais := decide (f.stat = 0xFF)
  let sealedNow := !ais && !statBad f.stat && bit f.stat 3
  let msgs := if ais then [] else apsSplit f.aps
  let rxSealed := c.on (F.LOH_SEAL_RX_EN n)
  let o := if rxSealed then o else { o with apsIn := o.apsIn ++ msgs }
  if !l.mfAligned then c.setOh n { o with mobBuf := [], mobRun := false, mfOpen := false, apsHeld := [], apsPassed := 0 }
  else
    let p := (l.mfExp + 31) % 32
    let good := !ais && decide (f.mfi = p)
    let o := if p = 0 then { o with mobBuf := [], mobRun := good, mfOpen := true, sealedAll := true, apsHeld := [], apsPassed := 0, rxStamp := some stamp }
      else { o with mobRun := o.mobRun && good }
    let o := { o with sealedAll := o.sealedAll && sealedNow, mobBuf := if o.mobRun then o.mobBuf ++ slice f.mob 0 8 else []
                      apsHeld := if o.mobRun then o.apsHeld ++ msgs else []
                      apsPassed := if o.mobRun && !rxSealed then o.apsHeld.length + msgs.length else o.apsPassed }
    let c := if f.mfi = 0 then c.setMfs n { c.mfs n with rx := some stamp } else c
    if p = 30 ∧ o.mobRun ∧ rxSealed then (c.setOh n o).sealDemand n (beAt o.mobBuf 240 4)
    else if p = 31 then
      let c := c.setOh n { o with mobDone := if o.mobRun then some (o.mobBuf, o.sealedAll, o.apsPassed, o.apsHeld) else none
                                  mobBuf := [], mobRun := false, mfOpen := false, apsHeld := [], apsPassed := 0 }
      if o.mfOpen && !o.mobRun then c.authStep n false else c
    else c.setOh n o

/-- The stamp of a received frame at the receive plane: its FAW arrived `ago` (1/64 ns) before now (R343, R344). -/
def Ctl.faceStamp (c : Ctl) (n ago : Nat) : Stamp2 := c.stampAt (c.instant + units64 (-(ago : Int) - c.rxCal n))

/-- The header of a stamped receive record (Table 12.3). -/
def rxHeader (isB isSet : Bool) (len stamp : Nat) : List Byte :=
  [0xA5, BitVec.ofNat 8 (b2n isB * 128 + b2n isSet * 64)] ++ beBytes 2 len ++ beBytes 12 stamp

/-- The data channels of a frame are extracted (R136, R142, R144, R348). -/
def dccExtract (n : Nat) (f : RxFrame) (ago : Nat) (missed : List (Nat × Nat)) (s : State) : State :=
  if !s.ctl.extracted n then s
  else
    let ports := (List.range 8).filter fun k => s.ctl.on (F.OHC_OSP_CTL_EN k) && s.ctl.get (F.OHC_OSP_CTL_LANE k) == n
    let s := if s.ctl.on (F.HDR_CTL_ENABLE (0x140 + n)) then
        dccStore n 0 false missed (slice f.dccn 0 128) (s.mapCtl fun c => ports.foldl (fun c k => c.ospStore k (slice f.dccn 0 128)) c)
      else s
    let w := slice f.dccw 0 792
    if (s.ctl.loh n).stamped2 then
      let c := s.ctl
      let isB := bit (c.get F.TBS_RX_DOM_DOM) 2
      let first := byteOffset128 (c.lrx n).rate (dccwIndex (c.lrx n).rate 0) / 2
      let t := c.domAt isB (c.instant + units64 ((first : Int) - ago - c.rxCal n))
      let h := rxHeader isB (c.tb.dom isB).isSet 792 t
      dccStore n 2 true (missed.map fun q => (q.1, q.2 + h.length)) (h ++ w) s
    else dccStore n 2 false missed w s

/-- The aligner takes the payload of a received frame (R121). -/
def Dp.push (n : Nat) (p : Payload) (d : Dp) : Dp := { d with fifo := tput d.fifo n (tget d.fifo n [] ++ [p]) }

/-- The frame that a lane receives: in a terminal loop the one that its own transmitter sent, and from one that was idle bytes that nothing
states (R131). (DESIGN CHOICE: log entry 16.) -/
def State.received (n : Nat) (f : RxFrame) (s : State) : RxFrame × State :=
  if !(s.ctl.lrx n).looped then (f, s)
  else match tfind s.dp.sentBefore n with
    | some g => (g, s)
    | none =>
      let rate := (s.ctl.lrx n).rate
      let v := s.ctl.takeFree (8 * frameBytes rate)
      (frameOfLine rate (beBytes (frameBytes rate) v.1), { s with ctl := v.2 })

/-- What a FAW position shows a hunting lane. In a terminal loop it is what stands in the stream of the lane's own transmitter (R131), whose
bits the position counts from the first of the frame being sent; an idle transmitter shows nothing. What that stream has not brought yet, or
held before its first frame, is as received. (DESIGN CHOICE: log entry 16.) -/
def State.fawSeen (n pos : Nat) (seen : Bool × Nat × Nat) (s : State) : Option (Bool × Nat × Nat) :=
  let rate := (s.ctl.lrx n).rate
  let p := pos % (8 * frameBytes rate)
  if !(s.ctl.lrx n).looped then some seen
  else (tfind s.dp.sent n).map fun f =>
    if 8 * (frameBytes rate - 6) ≤ p then seen
    else
      let b := tfind s.dp.sentBefore n
      let k := fawCheck rate p (b.getD f) f
      (k.1, k.2.1, if b.isSome then k.2.2 else seen.2.2)

/-- An IN-FRAME lane has received a frame. The fourth consecutive errored FAW ends alignment (R109). `missed`: the bytes, by ring and place
in the channel, that the OHE cannot store in time. (DESIGN CHOICE: log entry 16.) -/
def frameReceive (n : Nat) (f : RxFrame) (ago : Nat) (missed : List (Nat × Nat)) (s : State) : State :=
  if 24 ≤ n || !s.ctl.rxEnabled n || !(s.ctl.lrx n).inFrame then s
  else
    let r := s.received n f
    let f := r.1
    let s := r.2
    let c := s.ctl.fawStep n f
    if 4 ≤ (c.lrx n).fawErr then
      { s with ctl := (c.count (F.LRX_CNT_HUNT_LOSS n) 1).restartHunt n, dp := { s.dp with fifo := tput s.dp.fifo n [] } }
    else
      let stamp := c.faceStamp n ago
      let c := (((c.bipStep n f).mfiStep n f).statStep n f).evalTop n
      dccExtract n f ago missed { s with ctl := c.mobStep n f stamp, dp := s.dp.push n f.pay }

/-! ### What the device sends (R83, R84 to R90, R150, R152, R157 to R159, R409) -/

/-- A change of TX_EN takes effect (R157). (DESIGN CHOICE: log entry 4.) -/
def sealTxEffect (n : Nat) (c : Ctl) : Ctl :=
  if n < 24 ∧ c.mfEdge then c.setTx n { c.ltx n with sealOn := c.on (F.LOH_SEAL_TX_EN n) } else c

/-- Ages in whole multiframes. -/
def Ctl.mfAge (c : Ctl) (t : Nat) : Nat := (c.mtime - t) / (32 * ticksPerFrame)

/-- The MOB content of a lane at the latch that begins a multiframe; `st` is the departure of its first FAW bit. (DEDUCED: log entry 31.) -/
def Ctl.mobContent (c : Ctl) (n : Nat) (st : Stamp2) (sealCode : Nat) : Mob :=
  let e := c.get (F.LOH_CTL_ECHO_LANE n)
  let x := c.loh e
  let echo := match x.accAt with
    | some t => if c.on (F.LOH_CTL_ECHO_EN n) ∧ e ≤ 23 then some t else none
    | none => none
  let isB := c.onBit F.TBS_MOB_DOM_LANES n
  let o := c.loh n
  let t2 := match o.t2, o.accAt with
    | some p, some t => if c.mtime - t ≤ 64 * ticksPerFrame then some p else none
    | _, _ => none
  { trace := (List.range 16).flatMap fun w => beBytes 4 (c.reg (R.LOH_TRACE_TX n w)).toNat
    devid := Config.devid % 2 ^ 32
    active := c.activeFlag
    role := if c.pairEn then c.get F.TOP_STRAPS_UNIT_ROLE else 2
    pairId := if c.pairEn && c.record.isSome then c.adoptedFld F.UPR_CFG_PAIR_ID else 0
    pennant := if c.pairEn then (c.reg R.UPR_COUNT).toNat else 0
    echoId := if echo.isSome then (c.reg (R.LOH_RX_MOB e 0)).toNat else 0
    echoCount := if echo.isSome then (c.reg (R.LOH_RX_MOB e 2)).toNat else 0
    echoValid := echo.isSome
    echoAge := match echo with | some t => min 127 (c.mfAge t) | none => 0
    t1 := st.dom isB / 65536
    t2 := match t2 with | some p => p.2.dom isB / 65536 | none => 0
    mfSeq := bits c.fnN 20 5
    t2Seq := match t2 with | some p => p.1 | none => 0
    domB := isB
    domSet := (c.tb.dom isB).isSet
    domSuspect := (c.tb.dom isB).suspect
    t2Valid := t2.isSome
    sealKey := sealCode }

/-- The code of a key's size in CAPS.SEAL_KEY (Table 3.11). -/
def KeyVal.code (k : KeyVal) : Nat := if k.bytes.length = 16 then 1 else 2

/-- A multiframe begins on a transmit lane: its MOB is latched, and a sealed lane takes its sequence and requests its masks (R83, R158,
R409). (DEDUCED: log entry 36.) -/
def mobLatch (n : Nat) (s : State) : State :=
  let key := if (s.ctl.ltx n).sealOn then s.ctl.sealKey n else none
  let (sealed, s) := match key with
    | some k => let r := s.useCtr n; (some (k, r.1), r.2)
    | none => (none, s)
  s.mapCtl fun c =>
    let due := c.instant + units64 (c.departs n 0 0)
    let st := c.stampAt due
    let m := c.mfs n
    let mob := mobClose (mobBody (c.mobContent n st (match key with | some k => k.code | none => 0)) ++ List.replicate 12 0)
    let c := (c.setMfs n { m with
      tx := lastN 8 (m.tx ++ [(bits c.fnN 20 5, st)]), due, domB := c.onBit F.TBS_MOB_DOM_LANES n }).setTx n
      { c.ltx n with mob, sealed, tagged := false, apsMf := [], apsNext := [] }
    match sealed with
    | some (k, q) =>
      ((((c.slrDrop fun j => j.lane == n && j.kind == 0 && decide (j.seq < q)).slrWant ⟨n, 0, q⟩).slrWant ⟨n, 3, k.epoch⟩).slrWant
        ⟨n, 0, q + 1⟩).sets [(F.LOH_SEAL_STAT_TX_ACTIVE n, 1)]
    | none => c.sets [(F.LOH_SEAL_STAT_TX_ACTIVE n, 0)]

/-- The MOB with its seal fields (R89, R90, R407). -/
def sealedMob (k : KeyVal) (seq : Nat) (mob aps : List Byte) : List Byte :=
  let b := mob.take 240 ++ beBytes 4 seq
  mobClose (b ++ sealTag k true seq (b ++ aps))

/-- The tag of a lane can be made: its mask and hash key are at hand and the bytes that it covers are fixed. -/
def Ctl.tagReady (c : Ctl) (n : Nat) : Bool :=
  match (c.ltx n).sealed with
  | some (k, q) => !(c.ltx n).tagged && c.slrReady ⟨n, 0, q⟩ && c.slrReady ⟨n, 3, k.epoch⟩ && (c.ltx n).apsMf.length == 2048
  | none => false

/-- The seal fields of the MOB being sent are replaced, in the frame sent last as well. (DEDUCED: log entry 33.) -/
def putSeal (n : Nat) (mob : List Byte) (tagged : Bool) (s : State) : State :=
  let t := s.ctl.ltx n
  match tfind s.dp.sent n with
  | some f =>
    let f' := { f with mob := slice mob 240 8 }
    if f.mfi = 30 ∧ !tget s.dp.ais n false ∧ s.ctl.on (F.HDR_CTL_ENABLE (0x140 + n)) then
      { s with ctl := s.ctl.setTx n { t with mob, tagged, lastXor := t.lastXor.map fun x => x ^^^ xorBytes f.mob ^^^ xorBytes f'.mob }
               dp := { s.dp with sent := tput s.dp.sent n f' } }
    else { s with ctl := s.ctl.setTx n { t with mob, tagged } }
  | none => { s with ctl := s.ctl.setTx n { t with mob, tagged } }

/-- The tag of a lane is put in its place when it can be made. -/
def tagLane (s : State) (n : Nat) : State :=
  if s.ctl.tagReady n then
    match (s.ctl.ltx n).sealed with
    | some (k, q) => putSeal n (sealedMob k q (s.ctl.ltx n).mob (s.ctl.ltx n).apsMf) true s
    | none => s
  else s

/-- MOB byte 240 has not been sent: 25 µs have not passed in frame 30 (R159). -/
def Ctl.tagWindow (c : Ctl) : Bool := c.fnN % 32 == 30 && decide (c.tick < 5120)

/-- The tag deadline of a lane: a tag that is not ready, or whose GHASH computations differ, is not sent (R159, R408, R409). -/
def sealTagDeadline (n : Nat) (mism : Bool) (s : State) : State :=
  if 24 ≤ n || (s.ctl.ltx n).sealed.isNone || s.ctl.fnN % 32 != 30 then s
  else
    let s := if mism then s else tagLane s n
    if (s.ctl.ltx n).tagged && !mism then s
    else
      let bare := mobClose ((s.ctl.ltx n).mob.take 240 ++ List.replicate 12 0)
      (putSeal n bare false s).mapCtl fun c =>
        let c := if mism then (c.count F.SLR_CNT_GRACE_GHASH_MISM 1).raise 0x041 1 [] else c.raise 0x041 0 []
        (c.count (F.LOH_CNT_MISC_SEAL_LATE n) 1).raise (0x140 + n) 4 []

/-! ### Writes of the LOH page -/

/-- A write of LOH_TRACE_EXP restarts the TIM count (R151). -/
def traceExpWrite (n w : Nat) (value : Word) (c : Ctl) : Ctl :=
  if 24 ≤ n ∨ 16 ≤ w then c
  else (c.setReg (R.LOH_TRACE_EXP n w) value).setOh n { c.loh n with timDiff := 0, timSame := 0 }

/-- A write of LOH_CTL: while TIM_EN is 0, TIM is absent (R151). -/
def lohCtlWrite (n : Nat) (c : Ctl) : Ctl :=
  if c.on (F.LOH_CTL_TIM_EN n) then c
  else ((c.setOh n { c.loh n with timDiff := 0, timSame := 0 }).setRx n { c.lrx n with tim := false }).evalTop n

/-- LOH_SEAL has been written: enabling a direction requests its jobs, for the transmit direction those of the key that will be in force at
the next multiframe boundary, and enabling RX_EN makes S_last undefined; a lane that no
longer expects sealed overhead has neither AUTH nor FE_ACTIVE (R154, R160, R163, R409). (DEDUCED: log entry 32.) -/
def lohSealWrite (n : Nat) (old : Word) (c : Ctl) : Ctl :=
  let was := bit old.toNat 31
  let wasRx := bit old.toNat 30
  let tx := c.on (F.LOH_SEAL_TX_EN n)
  let rx := c.on (F.LOH_SEAL_RX_EN n)
  let gone := (c.setReg (R.LOH_SEAL n) old).engineMissing
  let c := match c.sealKey n with
    | some k => if tx && !was && (c.slot n).staged.isNone then (c.slrWant ⟨n, 3, k.epoch⟩).slrWant ⟨n, 0, (c.slot n).ctr⟩
      else if rx && !wasRx then c.slrWant ⟨n, 3, k.epoch⟩ else c
    | none => c
  let c := c.when (tx && !was && (c.slot n).staged.isSome) (Ctl.stagedMask n)
  let c := if rx && !wasRx then
      c.setOh n { c.loh n with sLast := none, authBad := 0, authGood := 0 }
    else if wasRx && !rx then
      ((c.setOh n { c.loh n with authBad := 0, authGood := 0 }).setRx n { c.lrx n with auth := false }).evalTop n |>.setFe n false
    else c
  c.engineGone gone

/-! ### The meanings -/

/-- An IN-FRAME lane has received a frame. -/
def execFrameReceive (n : Nat) (f : RxFrame) (ago : Nat) (missed : List (Nat × Nat)) (s : State) : Host.Outcome State Fault Refusal :=
  onStateTimed (frameReceive n f ago missed) s

/-- A complete MOB is judged on an unsealed lane. -/
def execMobReceive (n tick : Nat) (s : State) : Host.Outcome State Fault Refusal := onTimed (mobReceive n tick) s

/-- A unit conflict ends. -/
def execUnitConflictEnd (n tick : Nat) (s : State) : Host.Outcome State Fault Refusal := onTimed (unitConflictEnd n tick) s

/-- FE_ACTIVE falls by age. -/
def execFeActiveExpire (n : Nat) (s : State) : Host.Outcome State Fault Refusal := onTimed (feActiveExpire n) s

/-- A complete MOB is judged on a sealed lane. -/
def execMobSealDecision (n tick : Nat) (mism : Bool) (s : State) : Host.Outcome State Fault Refusal := onTimed (mobSealDecision n tick mism) s

/-- An APS message is handled on an unsealed lane. -/
def execApsMessageReceive (n : Nat) (s : State) : Host.Outcome State Fault Refusal := onTimed (apsMessageReceive n) s

/-- TX_EN takes effect. -/
def execSealTxEffect (n : Nat) (s : State) : Host.Outcome State Fault Refusal := onTimed (sealTxEffect n) s

/-- MOB byte 240 is due. -/
def execSealTagDeadline (n : Nat) (mism : Bool) (s : State) : Host.Outcome State Fault Refusal := onStateTimed (sealTagDeadline n mism) s

/-- A block passes on a serial port. -/
def execOspBlock (k : Nat) (di : List Byte) (s : State) : Host.Outcome State Fault Refusal := onTimed (ospBlock k di) s

/-- A write of LOH_RING_CFG_i. -/
def execRingCfgWrite (n i : Nat) (value : Word) (s : State) : Host.Outcome State Fault Refusal := onCtl (ringCfgWrite n i value) s

/-- A write of a ring pointer. -/
def execRingPtrWrite (n i ptr : Nat) (s : State) : Host.Outcome State Fault Refusal := onCtl (ringPtrWrite n i ptr) s

/-- A write of LOH_TRACE_EXP. -/
def execTraceExpWrite (n w : Nat) (value : Word) (s : State) : Host.Outcome State Fault Refusal := onCtl (traceExpWrite n w value) s

/-- The SLR has run its jobs; a tag that they complete in time goes into its MOB. -/
def execSlrJobsDone (tick : Nat) (mismatch : Option Nat) (s : State) : Host.Outcome State Fault Refusal :=
  onState (fun s => let s := s.mapCtl (slrJobsDone tick mismatch); if s.ctl.tagWindow then (List.range 24).foldl tagLane s else s) s

end Sys2Proof.Machine
end

