-- ==== Sys2Proof/Machine/LaneTx.lean ====
section
/-! DEFINITION. The transmit lanes (R129, R130, R517), and the meanings of the receive lanes' commands. -/

namespace Sys2Proof.Machine

/-- What a transmit lane is to send (Table 4.5). -/
def Ctl.sourceWanted (c : Ctl) (n : Nat) : Nat :=
  if !c.on (F.HDR_CTL_ENABLE (0x120 + n)) then 3
  else if !c.traffic then 1
  else if c.on (F.LTX_CTL_AIS_FORCE n) then 1
  else if c.mode == .maintenance && c.onBit F.TOP_MAINT_SET_LANES n then c.get (F.LTX_TEST_MODE n)
  else 0

/-- A change of SOURCE takes effect at the frame boundary (R130, R134). -/
def txSourceChange (n : Nat) (c : Ctl) : Ctl :=
  let t := c.ltx n
  if 24 ≤ n ∨ c.sourceWanted n = t.source then c
  else (c.setTx n { t with source := c.sourceWanted n }).raise (0x120 + n) 0 []

/-- A combination of coefficients is permitted (R517). -/
def ffePermitted (w : Word) : Bool :=
  let pre := wGet w 4 0
  let main := wGet w 13 8
  let post := wGet w 20 16
  decide (pre + main + post ≤ 63 ∧ pre + post + 16 ≤ main)

/-- A write of LTX_FFE: the register reads as written, and the transmitter keeps the last permitted combination (R517). -/
def ffeWrite (n : Nat) (value : Word) (c : Ctl) : Ctl :=
  if 24 ≤ n then c
  else
    let c := c.sets [(F.LTX_FFE_POST n, wGet value 20 16), (F.LTX_FFE_MAIN n, wGet value 13 8), (F.LTX_FFE_PRE n, wGet value 4 0)]
    if ffePermitted value then c.setTx n { c.ltx n with ffe := (c.reg (R.LTX_FFE n)).toNat } else c

/-- The input of a lane rises. -/
def execSignalRise (n : Nat) (s : State) : Host.Outcome State Fault Refusal := onTimed (signalRise n) s

/-- The input of a lane falls. -/
def execSignalFall (n : Nat) (s : State) : Host.Outcome State Fault Refusal := onTimed (signalFall n) s

/-- LOS is declared. -/
def execLosDeclare (n : Nat) (s : State) : Host.Outcome State Fault Refusal := onTimed (losDeclare n) s

/-- LOS clears. -/
def execLosClear (n : Nat) (s : State) : Host.Outcome State Fault Refusal := onTimed (losClear n) s

/-- The CDR locks. -/
def execCdrLock (n : Nat) (s : State) : Host.Outcome State Fault Refusal := onTimed (cdrLock n) s

/-- The CDR loses lock. -/
def execCdrLockLoss (n : Nat) (s : State) : Host.Outcome State Fault Refusal := onTimed (cdrLockLoss n) s

/-- LOL is declared. -/
def execLolDeclare (n : Nat) (s : State) : Host.Outcome State Fault Refusal := onTimed (lolDeclare n) s

/-- LOL clears. -/
def execLolClear (n : Nat) (s : State) : Host.Outcome State Fault Refusal := onTimed (lolClear n) s

/-- The equaliser converges. -/
def execEqConverge (n eyeV eyeH : Nat) (s : State) : Host.Outcome State Fault Refusal := onTimed (eqConverge n eyeV eyeH) s

/-- Adaptation is restarted. -/
def execEqRestart (n : Nat) (s : State) : Host.Outcome State Fault Refusal := onCtl (eqRestart n) s

/-- A write of TERM_LOOP. -/
def execTermLoopWrite (n : Nat) (on : Bool) (s : State) : Host.Outcome State Fault Refusal := onCtl (termLoopWrite n on) s

/-- A FAW position during the hunt. -/
def execFawCandidateMatch (n pos : Nat) (exact : Bool) (mfi bip : Nat) (s : State) : Host.Outcome State Fault Refusal :=
  onStateTimed (fun s => match s.fawSeen n pos (exact, mfi, bip) with
    | some (e, m, b) => s.mapCtl (fawCandidateMatch n pos e m b)
    | none => s) s

/-- A decision window closes. -/
def execDecisionWindowClose (n phase : Nat) (s : State) : Host.Outcome State Fault Refusal := onTimed (decisionWindowClose n phase) s

/-- LOF clears. -/
def execLofClear (n arr : Nat) (s : State) : Host.Outcome State Fault Refusal := onTimed (lofClear n arr) s

/-- A member joins its bond. -/
def execBondJoin (n : Nat) (s : State) : Host.Outcome State Fault Refusal := onTimed (bondJoin n) s

/-- An error window ends. -/
def execErrorWindowEnd (n : Nat) (deg : Bool) (s : State) : Host.Outcome State Fault Refusal := onTimed (errorWindowEnd n deg) s

/-- A write of RATE. -/
def execRateWrite (n rate : Nat) (s : State) : Host.Outcome State Fault Refusal := onCtl (rateWrite n rate) s

/-- A rate change takes effect. -/
def execRateChange (n : Nat) (s : State) : Host.Outcome State Fault Refusal := onTimed (rateChange n) s

/-- A write of the receive side's ENABLE. -/
def execRxEnableWrite (n : Nat) (on : Bool) (s : State) : Host.Outcome State Fault Refusal := onCtl (rxEnableWrite n on) s

/-- A reform is requested. -/
def execBondReformRequest (n : Nat) (s : State) : Host.Outcome State Fault Refusal := onCtl (bondReformRequest n) s

/-- A bond is reformed. -/
def execBondReform (b : Nat) (s : State) : Host.Outcome State Fault Refusal := onTimed (bondReform b) s

/-- SOURCE changes. -/
def execTxSourceChange (n : Nat) (s : State) : Host.Outcome State Fault Refusal := onTimed (txSourceChange n) s

/-- A write of LTX_FFE. -/
def execFfeWrite (n : Nat) (value : Word) (s : State) : Host.Outcome State Fault Refusal := onCtl (ffeWrite n value) s

end Sys2Proof.Machine
end

