-- ==== Sys2Proof/Machine/CrossConnect.lean ====
section
/-! DEFINITION. The cross-connect core (R168 to R195): the assembly of an output frame, its parity and replay, and what the staging
memory and the loopback store give. -/

namespace Sys2Proof.Machine

/-! ### Frames of all lanes -/

/-- A lane that carries 0xFF in every slot. -/
def payAis : Payload := payFill 0xFF

/-- The payload of a lane; an unlisted lane carries 0xFF. -/
def lanePay (t : Tbl Payload) (n : Nat) : Payload := tget t n payAis

/-- A lane's payload stored. -/
def putPay (n : Nat) (p : Payload) (t : Tbl Payload) : Tbl Payload := tputD t n p payAis

/-- The rate of a lane; internal lanes have the 10.24 GBd shape. -/
def Ctl.laneRate (c : Ctl) (n : Nat) : Nat := if n < 24 then (c.lrx n).rate else 0

/-- The source-fail state of a lane as the core samples it: that of the lane whose frame was written (R117, R249). -/
def Ctl.coreFail (c : Ctl) (n : Nat) : Bool := decide (n < 24) && c.sourceFail (tget c.subst n n)

/-- An output slot is assembled (R174). -/
def Ctl.assembled (c : Ctl) (k : Nat) : Bool := decide (k % 2 ^ 18 < slotsOf (c.laneRate (k / 2 ^ 18)) ∧ k / 2 ^ 18 < 30)

/-! ### Hidden parity (R187) -/

/-- The parity bit of a byte: the byte and its bit together hold an odd number of ones. -/
def byteParity (b : Byte) : Bool := popCount 8 b.toNat % 2 == 0

/-- The parity bits of the `n` bytes of a word, bit `i` over byte `i`, as every write generates them. (DEDUCED: log entry 37.) -/
def wordParity (n v : Nat) : Nat := maskOf n fun i => byteParity (BitVec.ofNat 8 (v / 2 ^ (8 * i)))

/-- The parity bits of a connection entry. (DEDUCED: log entry 37.) -/
def PageSet.entryParity (p : PageSet) (k : Nat) : Nat := wordParity 4 (p.entry k)

/-- The parity bits of a selector entry. (DEDUCED: log entry 37.) -/
def PageSet.selParity (p : PageSet) (i : Nat) : Nat := wordParity 8 (p.selector i)

/-- The parity bits of the word of a data memory or a staging memory that holds a lane's slots from `8 i` on. (DEDUCED: log entry 37.) -/
def payParity (t : Tbl Payload) (lane i : Nat) : Nat := maskOf 8 fun j => byteParity (payByte (lanePay t lane) (8 * i + j))

/-! ### The order of assembly (R172) -/

/-- The segment in which an output slot is completed. -/
def Ctl.outSegment (c : Ctl) (k : Nat) : Nat := slotSegment (c.laneRate (k / 2 ^ 18)) (k % 2 ^ 18)

/-- The first of a list in segment order; of one segment, the first listed. (DEDUCED: log entry 38.) -/
def Ctl.firstRead {α : Type} (c : Ctl) (l : List (Nat × α)) : Option (Nat × α) :=
  l.foldl (fun b q => match b with
    | some r => if c.outSegment q.1 < c.outSegment r.1 then some q else b
    | none => some q) none

/-! ### Injection (R195) -/

/-- The sources that an output slot's entry reads: working or only source, and protection source. -/
def PageSet.reads (p : PageSet) (v : Nat) : List (Bool × Nat × Nat) :=
  match entryType v with
  | 0 => [(false, sourceOf v)]
  | 1 => [(false, selWork (p.selector (entrySel v))), (true, selProt (p.selector (entrySel v)))]
  | _ => []

/-- The parity failure that the armed injection makes in the core's reads of this frame, if the location is read. A failure of a selector
marks both halves, and a LOC that names no input slot is never read. (DEDUCED: log entry 37.) -/
def State.injected (s : State) : Option ParityFault :=
  let c := s.ctl
  let p := s.xc.active
  let loc := c.get F.XCC_INJ_LOC
  let dbl := c.on F.XCC_INJ_DOUBLE
  let live := p.entries.filter fun q => c.assembled q.1
  if !c.on F.XCC_INJ_ARM then none
  else match c.get F.XCC_INJ_TARGET with
    | 0 =>
      let w := dmWord (sourceOf loc)
      let hit := live.filterMap fun q => ((p.reads q.2).find? fun r => dmWord r.2 == w).map fun r => (q.1, r.1)
      if 30 ≤ (sourceOf loc).1 ∨ laneSlots ≤ (sourceOf loc).2 then none
      else (c.firstRead hit).map fun q => .dataMem q.1 q.2 dbl true
    | 1 => if c.assembled loc then some (.entry loc dbl) else none
    | 2 => if live.any fun q => entryType q.2 == 1 && entrySel q.2 == loc % 2 ^ 18 then some (.selector (loc % 2 ^ 18) dbl 3) else none
    | _ => none

/-- The injection has acted. -/
def Ctl.injectDone (c : Ctl) : Ctl := c.set F.XCC_INJ_ARM 0

/-! ### Parity of the core's reads (R188 to R190, R194) -/

/-- A data-memory read fails after replay: it is counted, recorded and raised (R188, R194). (DEDUCED: log entry 37.) -/
def Ctl.dmFail (src : Nat × Nat) (c : Ctl) : Ctl :=
  let slot := src.2 / 8 * 8
  let same := c.on F.XCC_DM_LAST_VALID && c.get F.XCC_DM_LAST_LANE == src.1 && c.get F.XCC_DM_LAST_SLOT == slot
  let c := ((c.count F.XCC_CNT_DM_FAIL_FAIL 1).raise 0x020 0 []).set F.XCC_DM_LAST_HALF ((c.fnN + 1) % 2)
  if same then c
  else { c with dmRun := (0, 0), dmOk := 0 }.sets [(F.XCC_DM_LAST_VALID, 1), (F.XCC_DM_LAST_PERSIST, 0),
    (F.XCC_DM_LAST_LANE, src.1), (F.XCC_DM_LAST_SLOT, slot)]

/-- The recorded word in a frame: it failed, or was read without a failure, or was not read. Failures run over the frames that use
one half, reads without a failure over all frames (R194). (DEDUCED: log entry 37.) -/
def Ctl.dmPersist (failed read : Bool) (c : Ctl) : Ctl :=
  if !c.on F.XCC_DM_LAST_VALID then c
  else
    let first := (c.fnN + 1) % 2 == 0
    let run := if failed then min 8 ((if first then c.dmRun.1 else c.dmRun.2) + 1) else 0
    let ok := if failed || !read then 0 else min 16 (c.dmOk + 1)
    let c := { c with dmRun := if first then (run, c.dmRun.2) else (c.dmRun.1, run), dmOk := ok }
    if run = 8 then (if c.on F.XCC_DM_LAST_PERSIST then c else (c.set F.XCC_DM_LAST_PERSIST 1).raise 0x020 5 [])
    else if ok = 16 then c.set F.XCC_DM_LAST_PERSIST 0 else c

/-- One parity failure in the core's reads. (DEDUCED: log entry 37.) -/
def State.coreFault (s : State) (f : ParityFault) : State :=
  let p := s.xc.active
  match f with
  | .entry k fail => if s.ctl.assembled k then s.entryFault true fail k else s
  | .selector i fail halves =>
    if p.entries.any fun q => s.ctl.assembled q.1 && entryType q.2 == 1 && entrySel q.2 == i then s.selFault true fail i halves else s
  | .dataMem k prot fail _ =>
    match (p.reads (p.entry k)).find? fun r => r.1 == prot with
    | some (_, src) =>
      if !s.ctl.assembled k then s
      else if fail then s.mapCtl (Ctl.dmFail src) else s.mapCtl (Ctl.replayed F.XCC_CNT_DM_REP_REP)
    | none => s
  | _ => s

/-- The byte of a read for an output slot fails after replay. (DEDUCED: log entry 37.) -/
def dmLost (fs : List ParityFault) (k : Nat) (prot : Bool) : Bool :=
  fs.any fun f => match f with
    | .dataMem o p fail hit => o == k && p == prot && fail && hit
    | _ => false

/-- The word that XCC_DM_LAST records was read in this frame, for any output slot. -/
def State.dmLastRead (s : State) : Bool :=
  let c := s.ctl
  let w := dmWord (c.get F.XCC_DM_LAST_LANE, c.get F.XCC_DM_LAST_SLOT)
  let p := s.xc.active
  p.entries.any fun q => c.assembled q.1 && (p.reads q.2).any fun r => dmWord r.2 == w

/-- A failure after replay of the recorded word is among the failures of this frame. -/
def State.dmLastFailed (fs : List ParityFault) (s : State) : Bool :=
  let c := s.ctl
  let p := s.xc.active
  let w := dmWord (c.get F.XCC_DM_LAST_LANE, c.get F.XCC_DM_LAST_SLOT)
  fs.any fun f => match f with
    | .dataMem k prot true _ => c.assembled k && (p.reads (p.entry k)).any fun r => r.1 == prot && dmWord r.2 == w
    | _ => false

/-! ### The output byte (R182, R184, R185) -/

/-- A group's selection; an unconfigured group selects working (R182). -/
def Ctl.groupSel (c : Ctl) (g : Nat) : Bool := (c.group g).en && (c.group g).sel

/-- The byte of an output slot from a source under Table 6.5, rows 6 to 10; `true` when row 10 decides. -/
def Ctl.sourceByte (c : Ctl) (source : Tbl Payload) (hold : Bool) (held : Option Byte) (lost : Bool) (src : Nat × Nat) : Byte × Bool :=
  if slotsOf (c.laneRate src.1) ≤ src.2 ∨ 30 ≤ src.1 then (0xFF, false)
  else if c.coreFail src.1 then (if hold then held.getD 0xFF else 0xFF, false)
  else if lost then (0xFF, false)
  else (payByte (lanePay source src.1) src.2, true)

/-- The byte of an assembled output slot whose entry is `v` (Table 6.5). -/
def State.slotByte (s : State) (fs : List ParityFault) (k v : Nat) : Byte × Bool :=
  let p := s.xc.active
  let held := tfind s.xc.heldBytes k
  if p.badE.contains k then (0xFF, false)
  else match entryType v with
    | 0 => s.ctl.sourceByte s.dp.source (entryHold v) held (dmLost fs k false) (sourceOf v)
    | 1 =>
      let i := entrySel v
      if (tfind p.badS i).isSome then (0xFF, false)
      else
        let w := p.selector i
        let prot := s.ctl.groupSel (selGroup w) != selInvert w
        s.ctl.sourceByte s.dp.source (entryHold v) held (dmLost fs k prot) (if prot then selProt w else selWork w)
    | 2 => (BitVec.ofNat 8 v, false)
    | _ => (0xFF, false)

/-- The byte of a monitored source: one that does not exist at its lane's rate reads 0xFF (R100), and one whose read fails gives none. -/
def State.monitorByte (s : State) (fs : List ParityFault) (k : Nat) (prot : Bool) (src : Nat × Nat) : Option Byte :=
  if slotsOf (s.ctl.laneRate src.1) ≤ src.2 ∨ 30 ≤ src.1 then some 0xFF
  else if dmLost fs k prot then none else some (payByte (lanePay s.dp.source src.1) src.2)

/-- The reads of a frame for a SELECT entry are known to the core: neither the entry nor its selector fails after replay in it. -/
def readable (fs : List ParityFault) (k i : Nat) : Bool := !(fs.any fun f => match f with
  | .entry j fail => j == k && fail
  | .selector j fail _ => j == i && fail
  | _ => false)

/-- The bytes that reach the slot-AIS monitors: for each selector, those of the first read made for an assembled output slot (R172,
R183, R252). An entry or a selector marked bad by an earlier frame is still read, and its source bytes with it (R180). (DEDUCED: log entry 37.) -/
def State.monitorReads (s : State) (fs : List ParityFault) : Tbl (Option Byte × Option Byte) :=
  let p := s.xc.active
  let used := p.entries.filter fun q => s.ctl.assembled q.1 && entryType q.2 == 1 && readable fs q.1 (entrySel q.2)
  let first := used.foldl (fun t q =>
    match tfind t (entrySel q.2) with
    | some k => if s.ctl.outSegment q.1 < s.ctl.outSegment k then tput t (entrySel q.2) q.1 else t
    | none => tput t (entrySel q.2) q.1) ([] : Tbl Nat)
  first.map fun q =>
    (q.1, (s.monitorByte fs q.2 false (selWork (p.selector q.1)), s.monitorByte fs q.2 true (selProt (p.selector q.1))))

/-- Bytes by output slot as payloads of the 30 lanes. -/
def payloadsOf (l : List (Nat × Byte)) : Tbl Payload :=
  (List.range 30).foldl (fun t n =>
    putPay n ⟨0xFF, (l.filter fun q => q.1 / 2 ^ 18 == n && q.2 != 0xFF).map fun q => (q.1 % 2 ^ 18, q.2)⟩ t) []

/-- The core assembles output frame FN + 1 from input frame FN − 1 (R170 to R172, R184 to R194). -/
def State.assemble (faults : List ParityFault) (s : State) : State :=
  let inj := s.injected
  let s := if inj.isSome then s.mapCtl Ctl.injectDone else s
  let fs := faults ++ inj.toList
  let s := fs.foldl State.coreFault s
  let s := s.mapCtl (Ctl.dmPersist (s.dmLastFailed fs) s.dmLastRead)
  let live := s.xc.active.entries.filter fun q => s.ctl.assembled q.1
  let out : List (Nat × Byte × Bool) := live.map fun q => (q.1, s.slotByte fs q.1 q.2)
  let held := out.foldl (fun t q => if q.2.2 then tput t q.1 q.2.1 else t) s.xc.heldBytes
  let reads := s.monitorReads fs
  let p := s.xc.active
  let asm := payloadsOf (out.map fun (q : Nat × Byte × Bool) => (q.1, q.2.1))
  let dmReads := (live.map fun q => (p.reads q.2).length).sum
  { s with xc := { s.xc with heldBytes := held }
           dp := { s.dp with asm := asm, heldBefore := s.xc.heldBytes } }.mapCtl fun c =>
    { (Ctl.monitors reads c).occ 0x02 dmReads with assembling := true }

/-! ### Overruns (R21) -/

/-- An output slot is left unwritten: it lies in a segment from `seg` onward, or is listed and lies in the segment before it (R172). (DEDUCED: log entry 38.) -/
def slotCut (rate seg : Nat) (extra : List Nat) (slot : Nat) : Bool :=
  decide (seg ≤ slotSegment rate slot) || (decide (slotSegment rate slot + 1 = seg) && extra.contains slot)

/-- The output slots from a segment onward, and some of the segment before it, carry 0xFF. (DEDUCED: log entry 38.) -/
def payCut (rate seg : Nat) (extra : List Nat) (p : Payload) : Payload :=
  { p with cells := p.cells.filter fun q : Nat × Byte => !slotCut rate seg extra q.1 }

/-- The listed slots of a lane. -/
def laneExtra (extra : List Nat) (lane : Nat) : List Nat := (extra.filter fun k => k / 2 ^ 18 == lane).map (· % 2 ^ 18)

/-- The frame due for transmission was not complete: slots not yet written go as 0xFF and keep their held bytes (R185), and the overrun is
counted (R21). Sixteen in a row with MARGIN_CRITICAL are a RECOVERY trigger (Table 2.3). (DEDUCED: log entry 38.) -/
def State.overrun (seg : Nat) (extra : List Nat) (s : State) : State :=
  let cutLane (q : Nat × Payload) : Nat × Payload := (q.1, payCut (s.ctl.laneRate q.1) seg (laneExtra extra q.1) q.2)
  let keep (q : Nat × Byte) : Option (Nat × Byte) :=
    if slotCut (s.ctl.laneRate (q.1 / 2 ^ 18)) seg (laneExtra extra (q.1 / 2 ^ 18)) (q.1 % 2 ^ 18) then
      (tfind s.dp.heldBefore q.1).map fun b => (q.1, b)
    else some q
  { s with dp := { s.dp with asm := s.dp.asm.map cutLane }, xc := { s.xc with heldBytes := s.xc.heldBytes.filterMap keep } }.mapCtl fun c : Ctl =>
    let c := { c with ovrFn := some c.mtime, ovrRun := min 16 (c.ovrRun + 1) }
    let c := (c.count F.XCC_CNT_OVR_FRAMES 1).raise 0x020 3 []
    c.when (decide (c.ovrRun = 16) && c.on F.MGN_STAT_MARGIN_CRITICAL) (Ctl.trigger 0x020 2)

/-- The assembly ends: its time is reported (R531). (DEDUCED: log entry 38.) -/
def assemblyDone (ns10 : Nat) (c : Ctl) : Ctl :=
  if !c.assembling then c
  else
    let t := min 65535 ns10
    { c with assembling := false }.sets [(F.XCC_ASM_TIME_LAST, t), (F.XCC_ASM_TIME_MAX, max t (c.get F.XCC_ASM_TIME_MAX))]

/-! ### Staging and loopback reads (R130, R174, R188) -/

/-- The failures of staging reads of this frame, with the injected one. -/
def State.stagingInjected (s : State) : Option ParityFault :=
  let c := s.ctl
  if c.on F.XCC_INJ_ARM ∧ c.get F.XCC_INJ_TARGET = 3 ∧ c.assembled (c.get F.XCC_INJ_LOC) then
    some (.staging (c.get F.XCC_INJ_LOC) (c.on F.XCC_INJ_DOUBLE))
  else none

/-- A slot carries 0xFF. -/
def payOff (slot : Nat) (p : Payload) : Payload := payPut p slot 0xFF

/-- The 8 slots of the word that holds a slot carry 0xFF. -/
def payBlankWord (slot : Nat) (p : Payload) : Payload :=
  if p.fill = 0xFF then { p with cells := p.cells.filter fun q => q.1 / 8 != slot / 8 }
  else (List.range 8).foldl (fun p i => payPut p (slot / 8 * 8 + i) 0xFF) p

/-- A failed read of the staging memory or the loopback store: the replay passes, or the staging word, or the loopback store's byte, goes as
0xFF (Table 6.6, R130). -/
def State.stagingFault (s : State) (f : ParityFault) : State :=
  let lost (c : Ctl) : Ctl := (c.count F.XCC_CNT_STG_FAIL 1).raise 0x020 4 []
  match f with
  | .staging k fail =>
    if !s.ctl.assembled k then s
    else if fail then
      { s with dp := { s.dp with output := putPay (k / 2 ^ 18) (payBlankWord (k % 2 ^ 18) (lanePay s.dp.output (k / 2 ^ 18))) s.dp.output } }.mapCtl lost
    else s.mapCtl (Ctl.replayed F.XCC_CNT_STG_REP)
  | .loopback k fail =>
    if !s.ctl.assembled k then s
    else if fail then
      { s with dp := { s.dp with loopOut := putPay (k / 2 ^ 18) (payOff (k % 2 ^ 18) (lanePay s.dp.loopOut (k / 2 ^ 18))) s.dp.loopOut } }.mapCtl lost
    else s.mapCtl (Ctl.replayed F.XCC_CNT_STG_REP)
  | _ => s

/-- Every assembled staging word is read once in the frame (R174). -/
def State.stagingReads (faults : List ParityFault) (s : State) : State :=
  let inj := s.stagingInjected
  let s := if inj.isSome then s.mapCtl Ctl.injectDone else s
  (faults ++ inj.toList).foldl State.stagingFault s

/-! ### Input frames (R121, R122, R126, R128, R249) -/

/-- The aligner of a lane has released the frame that ends: the payload, and the lane's state after it. A lane whose delay exceeded
whole frames when that frame began holds that many received frames back. (DEDUCED: log entry 27.) -/
def Dp.release (c : Ctl) (n : Nat) (d : Dp) : Payload × Dp :=
  let l := c.lrx n
  if !l.inFrame then (payAis, { d with fifo := tdel d.fifo n })
  else
    let q := l.rel.held
    let f := tget d.fifo n []
    let f := f.drop (f.length - (q + 1))
    match decide (q < f.length), f with
    | true, p :: rest => (if l.rel.blank then payAis else p, { d with fifo := tput d.fifo n rest, lastRel := putPay n p d.lastRel })
    | _, _ => (if l.rel.slip = 1 ∧ !l.rel.blank then lanePay d.lastRel n else payAis, { d with fifo := tput d.fifo n f })

/-- What line loopback sends for a lane: decided as for a DIRECT entry with HOLD 0 that names the slot itself (R130). (DEDUCED: log entry 42.) -/
def loopbackPay (c : Ctl) (n : Nat) (p : Payload) : Payload := if c.sourceFail n then payAis else p

/-- The selection that a lane group makes for its W_LANE in the frame that begins, when both lanes run at one rate (R249). -/
def Ctl.substNow (c : Ctl) : Tbl Nat :=
  (c.groups.filter fun q => decide (lgBase ≤ q.1) && q.2.en && q.2.sel && c.laneRate q.2.w == c.laneRate q.2.p).foldl
    (fun t q => tput t q.2.w q.2.p) []

/-- The input frame that has ended is complete: external lanes as released, with the substitutions of lane groups (R249), and the
internal lanes as their engines wrote them. It becomes the frame that the core reads. -/
def State.deliver (s : State) : State :=
  let c := s.ctl
  let step (a : Tbl Payload × Dp) (n : Nat) : Tbl Payload × Dp :=
    let r := a.2.release c n
    (putPay n r.1 a.1, r.2)
  let r := (List.range 24).foldl step ([], s.dp)
  let ext := (List.range 24).foldl (fun t n => putPay n (lanePay r.1 (tget c.substNext n n)) t) s.dp.input
  let loop := (List.range 24).foldl (fun t n => putPay n (loopbackPay c n (lanePay r.1 n)) t) []
  { s with dp := { r.2 with source := ext, input := [], loopOut := s.dp.loopAsm, loopAsm := loop }
           ctl := { c with subst := c.substNext } }

/-- The frame that begins is released as each aligner now stands; a slip or a blanking takes effect in it (R122, R123, R126, R128). (DEDUCED: log entry 27.) -/
def Ctl.nextRelease (c : Ctl) : Ctl :=
  { c with rx := c.rx.map fun q => (q.1, { q.2 with rel := ⟨q.2.dly / (125 * us64), q.2.slip, q.2.blank⟩, slip := 0, blank := false }) }

/-- The lane groups' selections are sampled for the frame that begins; groups that see a changed substitution are evaluated again (R249,
R269). -/
def Ctl.sampleSubst (was : Tbl Nat) (c : Ctl) : Ctl :=
  let moved := maskOf 24 fun n => tget was n n != tget c.subst n n
  let c := { c with substNext := c.substNow }
  if moved = 0 then c else c.lanesChanged moved

/-- ASSEMBLY_DONE: the core completes the last output slot. -/
def execAssemblyDone (ns10 : Nat) (s : State) : Host.Outcome State Fault Refusal := onTimed (assemblyDone ns10) s

end Sys2Proof.Machine
end

