-- ==== Sys2Proof/Machine/InternalLanes.lean ====
section
/-! DEFINITION. Host, recorder and pattern lanes (R276 to R298): the configuration tables, the engines that read and write the slots
of lanes 24 to 29, and the record states of the recorder lanes. -/

namespace Sys2Proof.Machine

/-! ### Engine accesses to memory -/

/-- The LPDDR4X parity failures of a frame that fall on lines of a range: line, and whether the second replay fails. -/
def lineHits (fs : List ParityFault) (a n : Nat) : List (Nat × Bool) :=
  fs.filterMap fun f => match f with
    | .ddr i fail => if (ddrLines a n).contains i then some (i, fail) else none
    | _ => none

/-- An engine reads bytes for its lane: a byte of a poisoned read carries 0xFF, and the flag says that there was one (R283, R287,
R421, R432). A poisoned read takes a whole line of LPDDR4X, or 8 bytes of scratchpad. -/
def engBytes (m : Nat) (ddr : Bool) (a n : Nat) (fs : List ParityFault) (s : State) : (List Byte × Bool) × State :=
  if ddr then
    if !s.ctl.on F.MEM_STAT_READY then ((List.replicate n 0xFF, decide (0 < n)), s)
    else
      let z := s.ctl.ddrPart a n
      let hits := lineHits fs a z
      let old := (ddrLines a z).filter fun i => s.mem.poison.contains i && !hits.contains (i, true)
      let lost (i : Nat) : Bool := s.mem.poison.contains i || hits.contains (i, true)
      let read := (List.range z).map fun k => if lost ((a + k) / 64) then 0xFF else tget s.mem.ddr (a + k) 0
      ((read ++ List.replicate (n - z) 0xFF, (ddrLines a z).any lost || decide (z < n)), s.mapCtl fun c =>
        let c := (c.ddrAccesses m a n false).occ 0x0D (ddrLines a z).length
        old.foldl (fun c i => c.memPoison m (64 * i)) (hits.foldl (fun c h => c.ddrParity m (64 * h.1) h.2) c))
  else
    let hits := spadHits fs a n
    let lost (k : Nat) : Bool := hits.any fun h => h.2 && h.1 / 8 == (a + k) / 8
    (((List.range n).map fun k => if lost k then 0xFF else tget s.mem.spad (a + k) 0, (List.range n).any lost),
      s.mapCtl fun c => hits.foldl (fun c h => c.spmParity m (0x10000000 + h.1) h.2) (c.spadAccesses m a n))

/-- An engine reads bytes of a ring from an offset, with wrap. -/
def ringRead (m : Nat) (ddr : Bool) (base size o n : Nat) (fs : List ParityFault) (s : State) : (List Byte × Bool) × State :=
  let k := min n (size - o)
  let r := engBytes m ddr (base + o) k fs s
  let q := engBytes m ddr base (n - k) fs r.2
  ((r.1.1 ++ q.1.1, r.1.2 || q.1.2), q.2)

/-- An engine writes bytes of a ring from an offset, with wrap. -/
def ringWrite (ddr : Bool) (base size o : Nat) (l : List Byte) (fs : List ParityFault) (s : State) : State :=
  if ddr then
    let k := min l.length (size - o)
    let s := engineWrite 7 (base + o) (l.take k) fs s
    if l.length ≤ k then s else engineWrite 7 base (l.drop k) fs s
  else { s with mem := s.mem.dccPut base size o l }.mapCtl (Ctl.ringAccesses 7 base size o l.length)

/-- A run of payload bytes of a lane. -/
def payRun (p : Payload) (first n : Nat) : List Byte := (List.range n).map fun j => payByte p (first + j)

/-- A run of bytes written into input slots of an internal lane. -/
def Dp.putRun (lane first : Nat) (l : List Byte) (d : Dp) : Dp :=
  let p := (List.range l.length).foldl (fun p j => payPut p (first + j) (lget l j 0xFF)) (lanePay d.input lane)
  { d with input := putPay lane p d.input }

/-! ### The circuit entry (Table 10.2) and the record set entry (Table 10.3) -/

/-- A host-lane circuit. -/
structure Circuit where
  en : Bool
  tx : Bool
  ddr : Bool
  stamp : Bool
  first : Nat
  count : Nat
  idle : Byte
  size : Nat
  base : Nat
  deriving DecidableEq, Repr

/-- The circuit that three words describe. -/
def circuitOf (w : List Nat) : Circuit :=
  let w0 := lget w 0 0
  let w1 := lget w 1 0
  { en := bit w0 31, tx := bit w0 30, ddr := bit w0 29, stamp := bit w0 28, first := bits w0 17 0, count := bits w1 17 0
    idle := BitVec.ofNat 8 (bits w1 25 18), size := 2 ^ (bits w0 22 18 + 8), base := bits (lget w 2 0) 26 0 * 256 }

/-- The bytes that a circuit moves through its ring in a frame: COUNT, or the record length in stamped form (R347). -/
def Circuit.len (k : Circuit) : Nat := if k.stamp then recordLen (if k.tx then 8 else 16) k.count else k.count

/-- The fields of a circuit entry are valid (R279). -/
def Ctl.circuitOk (c : Ctl) (w : List Nat) : Bool :=
  let k := circuitOf w
  bits (lget w 0 0) 27 23 == 0 && bits (lget w 1 0) 31 26 == 0 && bits (lget w 2 0) 31 27 == 0 &&
    decide (1 ≤ k.count ∧ k.first + k.count ≤ 159000 ∧ bits (lget w 0 0) 22 18 ≤ (if k.ddr then 16 else 14) ∧
      2 * k.len < k.size ∧ k.base % k.size = 0 ∧ k.base + k.size ≤ (if k.ddr then c.ddrTop else 0x400000))

/-- The claims of a circuit on the HLE and DDR accounts (R284, R347). -/
def Circuit.claims (k : Circuit) : Nat × Nat := (k.count, if k.ddr then ((k.len + 128) * 8 + 999) / 1000 else 0)

/-- A recorder set. -/
structure RecSet where
  en : Bool
  delay : Bool
  first : Nat
  count : Nat
  depth : Nat
  dly : Nat
  base : Nat
  deriving DecidableEq, Repr

/-- The set that five words describe. -/
def setOf (w : List Nat) : RecSet :=
  let w0 := lget w 0 0
  { en := bit w0 31, delay := bit w0 30, first := bits w0 17 0, count := bits (lget w 1 0) 17 0, depth := bits (lget w 2 0) 17 0
    dly := bits (lget w 3 0) 17 0, base := bits (lget w 4 0) 26 0 * 64 }

/-- STRIDE: COUNT rounded up to a multiple of 64. -/
def RecSet.stride (r : RecSet) : Nat := (r.count + 63) / 64 * 64

/-- The bytes of a set's region. -/
def RecSet.region (r : RecSet) : Nat := r.depth * r.stride

/-- The fields of a set entry are valid (R285). -/
def Ctl.setOk (c : Ctl) (w : List Nat) : Bool :=
  let r := setOf w
  bits (lget w 0 0) 29 18 == 0 && bits (lget w 1 0) 31 18 == 0 && bits (lget w 2 0) 31 18 == 0 && bits (lget w 3 0) 31 18 == 0 &&
    bits (lget w 4 0) 31 27 == 0 && decide (1 ≤ r.count ∧ r.first + r.count ≤ 159000) &&
    (if r.delay then decide (1 ≤ r.dly ∧ r.dly ≤ 131072 ∧ r.dly + 1 ≤ r.depth) else decide (r.dly = 0 ∧ 2 ≤ r.depth)) &&
    decide (r.base + r.region ≤ c.ddrTop)

/-- The DDR claim of a set (R290). -/
def RecSet.claim (r : RecSet) : Nat := ((if r.delay then 2 else 1) * r.stride * 8 + 999) / 1000

/-! ### The configuration tables (R277, R278) -/

/-- RESULT of an operation on an internal-lane page. -/
def Ctl.cfgResult (page v : Nat) (c : Ctl) : Ctl :=
  if page < 0x3A then c.set (F.HL_CIR_STAT_RESULT (page - 0x38)) v
  else if page < 0x3C then c.set (F.RL_SET_STAT_RESULT (page - 0x3A)) v
  else c.set (F.PL_GRP_STAT_RESULT (page - 0x3C)) v

/-- The entry index of a page. -/
def Ctl.cfgIdx (c : Ctl) (page : Nat) : Nat :=
  if page < 0x3A then c.get (F.HL_CIR_IDX_IDX (page - 0x38))
  else if page < 0x3C then c.get (F.RL_SET_IDX_IDX (page - 0x3A)) else c.get (F.PL_GRP_IDX_IDX (page - 0x3C))

/-- The data registers of a page. -/
def cfgRegs (page : Nat) : List Nat :=
  if page < 0x3A then [R.HL_CIR_W0 (page - 0x38), R.HL_CIR_W1 (page - 0x38), R.HL_CIR_W2 (page - 0x38)]
  else if page < 0x3C then (List.range 5).map (R.RL_SET_W (page - 0x3A)) else [R.PL_GRP_W0 (page - 0x3C), R.PL_GRP_W1 (page - 0x3C)]

/-- A circuit entry of a host lane. -/
def Ctl.hlEntry (c : Ctl) (h i : Nat) : CfgEntry := tget c.hl (h * 1024 + i) { words := [0, 0, 0] }

/-- A set entry of a recorder lane. -/
def Ctl.rlEntry (c : Ctl) (r i : Nat) : CfgEntry := tget c.rl (r * 256 + i) { words := [0, 0, 0, 0, 0] }

/-- A group of a pattern lane. -/
def Ctl.plEntry (c : Ctl) (p g : Nat) : PlGroup := tget c.pl (p * 64 + g) {}

/-- The stored words of an entry. -/
def Ctl.cfgWords (c : Ctl) (page i : Nat) : List Nat :=
  if page < 0x3A then (c.hlEntry (page - 0x38) i).words
  else if page < 0x3C then (c.rlEntry (page - 0x3A) i).words else (c.plEntry (page - 0x3C) i).words

/-- The page is one of the six internal-lane pages and no store of it waits for the ledger (R277). -/
def Ctl.cfgOpen (c : Ctl) (page : Nat) : Bool := decide (0x38 ≤ page ∧ page < 0x3E) && (tfind c.cfgWait page).isNone

/-- OP = 1 loads the data words from entry IDX. -/
def cfgTableLoad (page : Nat) (c : Ctl) : Ctl :=
  if !c.cfgOpen page then c
  else
    let i := c.cfgIdx page
    let w := c.cfgWords page i
    let c := c.setRegs ((cfgRegs page).mapIdx fun j a => (a, BitVec.ofNat 32 (lget w j 0)))
    let c := if 0x3A ≤ page ∧ page < 0x3C then c.setReg (R.RL_SET_W5 (page - 0x3A)) (BitVec.ofNat 32 (c.rlEntry (page - 0x3A) i).enFn) else c
    c.cfgResult page 1

/-- Words have an enable bit: EN, or GEN_EN and CHK_EN. -/
def cfgEnables (page : Nat) (w : List Nat) : Bool := bit (lget w 0 0) 31 || (decide (0x3C ≤ page) && bit (lget w 0 0) 30)

/-- The fields of an entry are valid (R279, R285, R291). -/
def Ctl.cfgOk (c : Ctl) (page : Nat) (w : List Nat) : Bool :=
  if page < 0x3A then c.circuitOk w
  else if page < 0x3C then c.setOk w
  else
    let n := bits (lget w 1 0) 17 0
    decide (bits (lget w 0 0) 29 27 < 4 ∧ bits (lget w 1 0) 31 18 = 0 ∧ 1 ≤ n ∧ bits (lget w 0 0) 17 0 + n ≤ 159000)

/-- The entry would overlap another enabled entry (R279, R285, R291). -/
def Ctl.cfgOverlap (c : Ctl) (page i : Nat) (w : List Nat) : Bool :=
  if page < 0x3A then
    let k := circuitOf w
    c.hl.any fun q =>
      let o := circuitOf q.2.words
      q.1 / 1024 == page - 0x38 && q.1 % 1024 != i && o.en && o.tx && k.tx && rangesMeet k.first k.count o.first o.count
  else if page < 0x3C then
    let k := setOf w
    c.rl.any fun q =>
      let o := setOf q.2.words
      q.1 != (page - 0x3A) * 256 + i && o.en && (rangesMeet k.base k.region o.base o.region ||
        (q.1 / 256 == page - 0x3A && k.delay && o.delay && rangesMeet k.first k.count o.first o.count))
  else
    c.pl.any fun q =>
      let v := lget q.2.words 0 0
      q.1 / 64 == page - 0x3C && q.1 % 64 != i && bit v 31 && bit (lget w 0 0) 31 &&
        rangesMeet (bits (lget w 0 0) 17 0) (bits (lget w 1 0) 17 0) (bits v 17 0) (bits (lget q.2.words 1 0) 17 0)

/-- The claims of words on the HLE and DDR accounts, codes 3 and 1 of Table 8.1. -/
def cfgClaims (page : Nat) (w : List Nat) : Nat × Nat :=
  if !cfgEnables page w then (0, 0)
  else if page < 0x3A then (circuitOf w).claims
  else if page < 0x3C then (0, (setOf w).claim) else (0, 0)

/-- A store is accepted: it takes effect at the next frame boundary, and claims of a disabled entry are released there (R277, R278). (DEDUCED: log entry 51.) -/
def Ctl.cfgAccept (page i : Nat) (w : List Nat) (c : Ctl) : Ctl :=
  let old := if cfgEnables page w then (0, 0) else cfgClaims page (c.cfgWords page i)
  let upd (e : CfgEntry) : CfgEntry := { e with words := w, due := true, rel := (e.rel.1 + old.1, e.rel.2 + old.2) }
  let c := if page < 0x3A then { c with hl := tput c.hl ((page - 0x38) * 1024 + i) (upd (c.hlEntry (page - 0x38) i)) }
    else if page < 0x3C then { c with rl := tput c.rl ((page - 0x3A) * 256 + i) (upd (c.rlEntry (page - 0x3A) i)) }
    else { c with pl := tput c.pl ((page - 0x3C) * 64 + i) { c.plEntry (page - 0x3C) i with words := w, due := true } }
  c.cfgResult page 1

/-- The ledger judges the HLE claim of a store whose DDR claim stands (R223, R228). (DEDUCED: log entry 48.) -/
def Ctl.cfgJudge (page i : Nat) (w : List Nat) (c : Ctl) : Ctl :=
  let k := cfgClaims page w
  let r := c.claim 3 k.1
  if k.1 = 0 ∨ r.1 then (if k.1 = 0 then c else r.2).cfgAccept page i w
  else (if k.2 = 0 then r.2 else r.2.release 1 k.2).cfgResult page 4

/-- A store that waited for the first evaluation is judged (R228, R277). (DEDUCED: log entry 51.) -/
def Ctl.cfgWaited (page : Nat) (c : Ctl) : Ctl :=
  match tfind c.cfgWait page with
  | some (i, w) => { c with cfgWait := tdel c.cfgWait page }.cfgJudge page i w
  | none => c

/-- OP = 2 stores the data words into entry IDX: fields, then overlap, then claims are judged (R278). -/
def cfgTableStore (page : Nat) (c : Ctl) : Ctl :=
  if !c.cfgOpen page then c
  else
    let i := c.cfgIdx page
    let w := (cfgRegs page).map fun a => (c.reg a).toNat
    if !cfgEnables page w then c.cfgAccept page i w
    else if cfgEnables page (c.cfgWords page i) then c.cfgResult page 5
    else if !c.cfgOk page w then c.cfgResult page 2
    else if c.cfgOverlap page i w then c.cfgResult page 3
    else
      let k := cfgClaims page w
      let r := c.claim 1 k.2
      if k.2 ≠ 0 ∧ !r.1 then r.2.cfgResult page 4
      else
        let c := if k.2 = 0 then c else r.2
        if k.1 ≠ 0 ∧ c.claimWaits 3 then
          ({ c with cfgWait := tput c.cfgWait page (i, w) }.await (.store page k.1)).cfgResult page 7
        else c.cfgJudge page i w

/-- Any other OP (Table 10.1). -/
def cfgTableOpUnknown (page op : Nat) (c : Ctl) : Ctl := if c.cfgOpen page && op != 1 && op != 2 then c.cfgResult page 6 else c

/-- The claims of a disabled entry are released. -/
def Ctl.cfgRelease (rel : Nat × Nat) (c : Ctl) : Ctl :=
  let c := if rel.1 = 0 then c else c.release 3 rel.1
  if rel.2 = 0 then c else c.release 1 rel.2

/-- The scratchpad offset of a circuit's pointers (R280). (DEDUCED: log entry 47.) -/
def Ctl.hlPtr (c : Ctl) (h i : Nat) : Nat := c.get (F.HL_PTR_BASE_BASE h) * 8192 + 8 * i

/-- The HLE sets both pointers of a circuit to 0 (R280). -/
def hlPtrZero (h i : Nat) (s : State) : State :=
  { s with mem := s.mem.spadWrite (s.ctl.hlPtr h i) (List.replicate 8 0) }.mapCtl (Ctl.spadAccesses 7 (s.ctl.hlPtr h i) 8)

/-- An accepted store takes effect at the boundary that begins the next frame. A circuit that ends there still has the frame that ends
to store, and its pointers are not reset before (R277, R278, R280, R285, R292, R294). (DEDUCED, DESIGN CHOICE: log entries 4, 48, 51.) -/
def cfgEntryEffect (page i : Nat) (s : State) : State :=
  let c := s.ctl
  let f := (c.fnN + 1) % 2 ^ 48
  if page < 0x38 ∨ 0x3E ≤ page then s
  else if page < 0x3A then
    let h := page - 0x38
    let e := c.hlEntry h i
    if 1024 ≤ i ∨ !e.due then s
    else
      let on := bit (lget e.words 0 0) 31
      let e' := { e with due := false, rel := (0, 0), eff := if on then e.words else [], enFn := if on then f else e.enFn, wrSeen := 0 }
      let last := !e.eff.isEmpty && e.enFn != f && !(tfind c.hlLast (h * 1024 + i)).isSome
      let c := { c with hl := tput c.hl (h * 1024 + i) e', hlLast := if last then tput c.hlLast (h * 1024 + i) e.eff else c.hlLast }.cfgRelease e.rel
      let n := (c.hl.filter fun q => q.1 / 1024 == h && !q.2.eff.isEmpty).length
      let s := { s with ctl := c.set (F.HL_CIR_STAT_N_EN h) n }
      if on && (tfind c.hlLast (h * 1024 + i)).isNone then hlPtrZero h i s else s
  else if page < 0x3C then
    let r := page - 0x3A
    let e := c.rlEntry r i
    if 256 ≤ i ∨ !e.due then s
    else
      let on := bit (lget e.words 0 0) 31
      let e' := { e with due := false, rel := (0, 0), eff := if on then e.words else [], enFn := if on then f else e.enFn }
      let c := { c with rl := tput c.rl (r * 256 + i) e' }.cfgRelease e.rel
      { s with ctl := c.set (F.RL_SET_STAT_N_EN r) (c.rl.filter fun q => q.1 / 256 == r && !q.2.eff.isEmpty).length }
  else
    let p := page - 0x3C
    let e := c.plEntry p i
    if 64 ≤ i ∨ !e.due then s
    else
      let w0 := lget e.words 0 0
      let counting := bits w0 29 27 == 3
      let e1 := { e with due := false, eff := e.words, genState := if counting then 0 else 2 ^ 23 - 1 }
      let e2 := if bit w0 30 then { e1 with hist := 0, held := 0, run := 0, blkBits := 0, blkErrs := 0, now := {} }
        else { e1 with now := { e1.now with sync := false } }
      { s with ctl := { c with pl := tput c.pl (p * 64 + i) e2 } }

/-! ### Host lanes (R280 to R283, R347 to R350) -/

/-- A frame of a circuit is counted: dropped, filled with IDLE or poisoned (R281 to R283, R296). -/
def Ctl.hlCount (h kind i : Nat) (c : Ctl) : Ctl :=
  let f := if kind = 0 then F.HL_CNT_OVF_FRAMES h else if kind = 1 then F.HL_CNT_UNF_FRAMES h else F.HL_CNT_POISON_FRAMES h
  ((c.count f 1).sets [(F.HL_LAST_VALID h, 1), (F.HL_LAST_KIND h, kind), (F.HL_LAST_CIRCUIT h, i)]).raise (0x38 + h) kind []

/-- A pointer of a circuit: bits [23:0] of its word (R280). A word that cannot be read lies beyond every ring, and counts as a
poisoned read (R421). (DEDUCED: log entry 47.) -/
def hlPointer (h i word : Nat) (fs : List ParityFault) (s : State) : Nat × State :=
  let r := engBytes 7 false (s.ctl.hlPtr h i + 4 * word) 4 fs s
  if r.1.2 then (2 ^ 24, r.2.mapCtl (Ctl.hlCount h 2 i)) else (leNat r.1.1 % 2 ^ 24, r.2)

/-- The HLE writes its own pointer. (DEDUCED: log entry 47.) -/
def hlPutPointer (h i word v : Nat) (s : State) : State :=
  { s with mem := s.mem.spadWrite (s.ctl.hlPtr h i + 4 * word) (leBytes 4 v) }.mapCtl (Ctl.spadAccesses 7 (s.ctl.hlPtr h i + 4 * word) 4)

/-- The instant of slot FIRST of the present frame (R69, R348, R350). (DEDUCED: log entry 30.) -/
def Ctl.slotInstant (c : Ctl) (first : Nat) : Int :=
  c.instant - (c.tick * incNominal : Nat) + units64 (byteOffset128 0 (slotIndex 0 first) / 2 : Nat)

/-- A receive circuit stores the present output frame, once it has gone (R281, R348). A COUNT that the LEN field cannot hold leaves LEN free. (DEDUCED: log entries 30, 48.) -/
def hlReceive (h i : Nat) (k : Circuit) (fs : List ParityFault) (s : State) : State :=
  let rd := hlPointer h i 1 fs s
  let wr := hlPointer h i 0 fs rd.2
  let s := wr.2
  let data := payRun (lanePay s.dp.output (24 + h)) k.first k.count
  let isB := bit (s.ctl.get F.TBS_RX_DOM_DOM) h
  let len := if k.count < 65536 then (k.count, s.ctl) else s.ctl.takeFree 16
  let rec' := rxHeader isB (s.ctl.tb.dom isB).isSet len.1 (s.ctl.domAt isB (s.ctl.slotInstant k.first)) ++ data
  let l := if k.stamp then slice rec' 0 k.len else data
  let s := if k.stamp then { s with ctl := len.2 } else s
  if k.size ≤ rd.1 ∨ k.size ≤ wr.1 ∨ k.size - 1 - dccHeld k.size wr.1 rd.1 < k.len then
    s.mapCtl fun c => { c with hlDrop := tput c.hlDrop h c.mtime }.hlCount h 0 i
  else
    (hlPutPointer h i 0 ((wr.1 + k.len) % k.size) (ringWrite k.ddr k.base k.size wr.1 l fs s)).mapCtl (Ctl.occ (0x9E + h) 1)

/-- A transmit circuit fills its slots of the input frame that begins, with WR as read at the boundary before (R282, R283, R349,
R350). -/
def hlTransmit (h i : Nat) (k : Circuit) (wr : Nat) (fs : List ParityFault) (s : State) : State :=
  let rd := hlPointer h i 1 fs s
  let s := rd.2
  let fill (s : State) : State := { s with dp := s.dp.putRun (24 + h) k.first (List.replicate k.count k.idle) }
  if k.size ≤ rd.1 ∨ k.size ≤ wr ∨ dccHeld k.size wr rd.1 < k.len then (fill s).mapCtl (Ctl.hlCount h 1 i)
  else
    let r := ringRead 7 k.ddr k.base k.size rd.1 k.len fs s
    let s := if r.1.2 then r.2.mapCtl (Ctl.hlCount h 2 i) else r.2
    let send (l : List Byte) (s : State) : State :=
      ({ hlPutPointer h i 1 ((rd.1 + k.len) % k.size) s with dp := s.dp.putRun (24 + h) k.first l }).mapCtl (Ctl.occ (0x9E + h) 1)
    if !k.stamp then send r.1.1 s
    else match txHeader (r.1.1.take 8) k.count with
      | some (len, want) =>
        if len ≠ k.count then (fill (hlPutPointer h i 1 wr s)).mapCtl (Ctl.txrecBad h)
        else
          let s := match want with
            | some (id, domB) => s.mapCtl fun c => c.wantStamp h ⟨id, domB, i, c.slotInstant k.first⟩
            | none => s
          send (slice r.1.1 8 k.count) s
      | none => (fill (hlPutPointer h i 1 wr s)).mapCtl (Ctl.txrecBad h)

/-- The HLE serves a transmit circuit in the frame that begins, and reads its WR for the next frame (R282). (DEDUCED: log entry 48.) -/
def hlServe (fs : List ParityFault) (s : State) (q : Nat × CfgEntry) : State :=
  let h := q.1 / 1024
  let i := q.1 % 1024
  let k := circuitOf q.2.eff
  if !k.en then s
  else if k.tx then
    let s := hlTransmit h i k q.2.wrSeen fs s
    let wr := hlPointer h i 0 fs s
    wr.2.mapCtl fun c => { c with hl := tput c.hl q.1 { c.hlEntry h i with wrSeen := wr.1 } }
  else s

/-- The circuits that receive the present output frame: those in effect since its beginning, some of which end at its end. -/
def Ctl.hlTaking (c : Ctl) : List (Nat × List Nat) :=
  ((c.hl.filter fun q => q.2.enFn != (c.fnN + 1) % 2 ^ 48).map fun q => (q.1, q.2.eff)) ++ c.hlLast

/-- The HLE stores the output frame that ends for each receive circuit, before the boundary (R281). A circuit that takes the place of one
that ends there begins with its pointers at 0 (R280). (DEDUCED: log entries 30, 48.) -/
def State.hlStore (fs : List ParityFault) (s : State) : State :=
  if !s.ctl.on F.CMP_STAT_INIT_DONE then s
  else
    let last := s.ctl.hlLast
    let s := s.ctl.hlTaking.foldl (fun s q =>
      if (circuitOf q.2).en && !(circuitOf q.2).tx then hlReceive (q.1 / 1024) (q.1 % 1024) (circuitOf q.2) fs s else s) s
    last.foldl (fun s q => if (s.ctl.hlEntry (q.1 / 1024) (q.1 % 1024)).eff.isEmpty then s else hlPtrZero (q.1 / 1024) (q.1 % 1024) s)
      { s with ctl := { s.ctl with hlLast := [] } }

/-! ### Recorder lanes (R285 to R289) -/

/-- Trigger sources are taken until the boundary: FREEZE_NOW reads 1 until then. -/
def rlFreezeNow (r : Nat) (c : Ctl) : Ctl := if 2 ≤ r then c else (c.set (F.RL_CTL_FREEZE_NOW r) 1).rlTrigger r 0

/-- ARM reads 1 until taken. -/
def rlArm (r : Nat) (c : Ctl) : Ctl := if 2 ≤ r then c else c.set (F.RL_CTL_ARM r) 1

/-- An edge on TRIG_IN; edges within one frame count once (R289). -/
def trigInEdge (c : Ctl) : Ctl := [0, 1].foldl (fun c r => if c.on (F.RL_TRIG_PIN_EN r) then c.rlTrigger r 1 else c) c

/-- The boundary of the next frame takes ARM and the triggers of a recorder lane (R288). (DEDUCED, DESIGN CHOICE: log entries 4, 49.) -/
def rlTriggerTaken (r : Nat) (c : Ctl) : Ctl :=
  if 2 ≤ r then c
  else
    let f := (c.fnN + 1) % 2 ^ 32
    let src := tget c.rlTrig r 0
    let arm := c.on (F.RL_CTL_ARM r)
    let c := { c with rlTrig := tdel c.rlTrig r }.sets [(F.RL_CTL_ARM r, 0), (F.RL_CTL_FREEZE_NOW r, 0)]
    let c := if arm && c.get (F.RL_STAT_STATE r) == 2 then
        c.sets [(F.RL_STAT_STATE r, 0), (F.RL_STAT_CAUSE r, 0), (F.RL_ARM_FN_FN r, f)]
      else c
    if src = 0 then c
    else if c.get (F.RL_STAT_STATE r) = 0 then c.sets [(F.RL_STAT_STATE r, 1), (F.RL_TRIG_FN_FN r, f), (F.RL_STAT_CAUSE r, src)]
    else (c.count (F.RL_CNT_COUNT r) (popCount 4 src)).raise (0x3A + r) 1 []

/-- The frames that have begun after the trigger frame, up to a frame. -/
def Ctl.rlSince (c : Ctl) (r f : Nat) : Nat := (f + 2 ^ 32 - c.get (F.RL_TRIG_FN_FN r)) % 2 ^ 32

/-- The lane freezes at the boundary of frame F_T + POST + 1 (Table 10.4). (DEDUCED: log entry 49.) -/
def rlPostEnd (r : Nat) (c : Ctl) : Ctl :=
  let post := c.get (F.RL_POST_POST r)
  if 2 ≤ r ∨ c.get (F.RL_STAT_STATE r) ≠ 1 ∨ c.rlSince r ((c.fnN + 1) % 2 ^ 32) < post + 1 then c
  else (c.sets [(F.RL_STAT_STATE r, 2), (F.RL_FRZ_FN_FN r, (c.get (F.RL_TRIG_FN_FN r) + post) % 2 ^ 32)]).raise (0x3A + r) 0 []

/-- A RECORD set writes the record of the frame that has begun (R286, R288). -/
def Ctl.recording (c : Ctl) (r : Nat) : Bool :=
  c.get (F.RL_STAT_STATE r) == 0 ||
    (c.get (F.RL_STAT_STATE r) == 1 && decide (c.rlSince r c.fn32 ≤ c.get (F.RL_POST_POST r)))

/-- The bytes that a DELAY set releases into the input frame that begins, and whether its read was poisoned (R287). `inTime`: how many
bytes were complete in time. -/
def rlPlay (r : Nat) (q : RecSet) (enFn inTime : Nat) (fs : List ParityFault) (s : State) : Bool × State :=
  let h := s.ctl.fnN
  if h < q.dly + enFn then (false, { s with dp := s.dp.putRun (26 + r) q.first (List.replicate q.count 0xFF) })
  else
    let e := engBytes 8 true (q.base + (h - q.dly) % q.depth * q.stride) q.count fs s
    let l := e.1.1.take inTime ++ List.replicate (q.count - inTime) 0xFF
    (e.1.2, { e.2 with dp := e.2.dp.putRun (26 + r) q.first l })

/-- The record of the output frame that begins is written (R286). -/
def rlRecord (r : Nat) (q : RecSet) (fs : List ParityFault) (s : State) : State :=
  let l := payRun (lanePay s.dp.output (26 + r)) q.first q.count
  (engineWrite 8 (q.base + s.ctl.fnN % q.depth * q.stride) (slice l 0 q.stride) fs s).mapCtl (Ctl.occ (0xA0 + r) 1)

/-- The RLE serves a recorder lane in the frame that begins. `late` names sets (r × 256 + set) whose read is late, with the bytes that
came in time. (DEDUCED: log entry 48.) -/
def rlServe (late : List (Nat × Nat)) (fs : List ParityFault) (r : Nat) (s : State) : State :=
  let sets := s.ctl.rl.filter fun q => q.1 / 256 == r && !q.2.eff.isEmpty
  let step (a : (Bool × Bool) × State) (q : Nat × CfgEntry) : (Bool × Bool) × State :=
    let k := setOf q.2.eff
    if k.delay then
      let inTime := match late.find? fun x => x.1 == q.1 with
        | some x => min k.count x.2
        | none => k.count
      let p := rlPlay r k q.2.enFn inTime fs a.2
      (((a.1.1 || p.1), (a.1.2 || decide (inTime < k.count))), rlRecord r k fs p.2)
    else if a.2.ctl.recording r then (a.1, rlRecord r k fs a.2) else a
  let z := sets.foldl step ((false, false), s)
  z.2.mapCtl fun c =>
    let c := if z.1.1 then (c.count (F.RL_CNT_POISON_COUNT r) 1).raise (0x3A + r) 3 [] else c
    if z.1.2 then (c.count (F.RL_CNT_LATE_COUNT r) 1).raise (0x3A + r) 2 [] else c

/-! ### Pattern lanes (R291 to R295) -/

/-- The register length and the second tap of a PRBS (R292). -/
def prbsTaps (pat : Nat) : Nat × Nat := if pat = 0 then (15, 14) else (23, 18)

/-- One step of a PRBS register: the bit of its last stage, and the register with the sum of its taps shifted in. (DEDUCED: log entry 50.) -/
def prbsStep (pat st : Nat) : Bool × Nat :=
  let t := prbsTaps pat
  (bit st (t.1 - 1), (st * 2 + b2n (bit st (t.1 - 1) != bit st (t.2 - 1))) % 2 ^ t.1)

/-- Eight bits of a PRBS, most significant first, with the output inversion of O.150. (DEDUCED: log entry 50.) -/
def prbsByte (pat st : Nat) : Nat × Nat :=
  (List.range 8).foldl (fun a _ => let r := prbsStep pat a.2; (a.1 * 2 + b2n (!r.1), r.2)) (0, st)

/-- One byte of a generator's stream before INV, and its state after it. -/
def plByte (w0 st : Nat) : Nat × Nat :=
  match bits w0 29 27 with
  | 2 => (bits w0 25 18, st)
  | 3 => (st % 256, (st + 1) % 256)
  | p => prbsByte p (st % 2 ^ (prbsTaps p).1)

/-- `n` bytes of a generator. -/
def plBytes (w0 : Nat) : Nat → Nat → List Byte × Nat
  | 0, st => ([], st)
  | n + 1, st =>
    let r := plByte w0 st
    let q := plBytes w0 n r.2
    ((if bit w0 26 then ~~~(BitVec.ofNat 8 r.1) else BitVec.ofNat 8 r.1) :: q.1, q.2)

/-- The prediction of the next bit from the bits received before it, or none while they are too few; for a PRBS a history that the
pattern never holds predicts the complement of the bit that comes (R293). `x` is the bit that comes, `pos` its place in its byte. -/
def plPredict (w0 hist held pos : Nat) (x : Bool) : Option Bool :=
  let inv := bit w0 26
  match bits w0 29 27 with
  | 2 => some (bit (bits w0 25 18) (7 - pos) != inv)
  | 3 =>
    if held < 8 + pos then none
    else
      let prev := bits hist (pos + 7) pos
      let prev := if inv then 255 - prev else prev
      some (bit ((prev + 1) % 256) (7 - pos) != inv)
  | p =>
    let t := prbsTaps p
    if held < t.1 then none
    else
      -- bits on the line are complemented once by O.150, and once more with INV
      let empty := if inv then hist % 2 ^ t.1 == 0 else hist % 2 ^ t.1 == 2 ^ t.1 - 1
      if empty then some (!x)
      else
        let s := bit hist (t.1 - 1) != bit hist (t.2 - 1)
        some (if inv then s else !s)

/-- The events of a checker in a frame, in order: true where sync is gained, false where it is lost. -/
abbrev PlSeen := List Bool

/-- One received bit (R293). (DEDUCED: log entry 50.) -/
def plBit (pos : Nat) (x : Bool) (a : PlGroup × PlSeen) : PlGroup × PlSeen :=
  let g := a.1
  let w0 := lget g.eff 0 0
  let pred := plPredict w0 g.hist g.held pos x
  let g' := { g with hist := (g.hist * 2 + b2n x) % 2 ^ 24, held := min 64 (g.held + 1) }
  match pred with
  | none => ({ g' with run := 0 }, a.2)
  | some y =>
    if g.now.sync then
      let errs := g.blkErrs + b2n (x != y)
      let g' := { g' with now := { g.now with err := satAdd 32 g.now.err (b2n (x != y)) } }
      if g.blkBits + 1 < 1024 then ({ g' with blkBits := g.blkBits + 1, blkErrs := errs }, a.2)
      else if 256 ≤ errs then
        ({ g' with blkBits := 0, blkErrs := 0, run := 0, now := { g'.now with sync := false, loss := satAdd 16 g'.now.loss 1 } },
          a.2 ++ [false])
      else ({ g' with blkBits := 0, blkErrs := 0 }, a.2)
    else if x = y then
      if g.run + 1 < 64 then ({ g' with run := g.run + 1 }, a.2)
      else ({ g' with run := 0, blkBits := 0, blkErrs := 0, now := { g.now with sync := true } }, a.2 ++ [true])
    else ({ g' with run := 0 }, a.2)

/-- One received byte, most significant bit first. (DEDUCED: log entry 50.) -/
def plCheckByte (a : PlGroup × PlSeen) (b : Byte) : PlGroup × PlSeen :=
  (List.range 8).foldl (fun a i => plBit i (bit b.toNat (7 - i)) a) a

/-- A group generates and checks its bytes of the frame that begins (R292, R293, R295). -/
def plServe (s : State) (q : Nat × PlGroup) : State :=
  let p := q.1 / 64
  let i := q.1 % 64
  let g := q.2
  let w0 := lget g.eff 0 0
  let first := bits w0 17 0
  let n := bits (lget g.eff 1 0) 17 0
  let gen := bit w0 31
  let inj := gen && s.ctl.on (F.PL_INJ_ARM p) && s.ctl.get (F.PL_INJ_GROUP p) == i
  let out := plBytes w0 n g.genState
  let bytes := match out.1, inj with
    | b :: t, true => (b ^^^ 0x80) :: t
    | l, _ => l
  let dp := if gen then s.dp.putRun (28 + p) first bytes else s.dp
  let g := if gen then { g with genState := out.2 } else g
  let was := g.now.sync
  let r := if bit w0 30 then (payRun (lanePay s.dp.output (28 + p)) first n).foldl plCheckByte (g, []) else (g, [])
  let whole := bit w0 30 && was && r.2.all id
  let g := if whole then { r.1 with now := { r.1.now with frames := satAdd 32 r.1.now.frames 1 } } else r.1
  let ctl := if inj then s.ctl.set (F.PL_INJ_ARM p) 0 else s.ctl
  let ctl := r.2.foldl (fun c gain => c.raise (0x3C + p) (b2n gain) []) ctl
  { s with dp := dp, ctl := { ctl with pl := tput ctl.pl q.1 g } }

/-- GO of PL_SNAP reads 1 until the snapshot is taken, and CLR of a waiting request is kept (R294). -/
def plSnapshotRequest (p : Nat) (clr : Bool) (c : Ctl) : Ctl :=
  if 2 ≤ p then c else (c.set (F.PL_SNAP_GO p) 1).set (F.PL_SNAP_CLR p) (b2n (clr || c.on (F.PL_SNAP_CLR p)))

/-- The counters and sync state of all groups are copied in one step (R294). (DESIGN CHOICE: log entry 4.) -/
def plSnapshotTake (p : Nat) (c : Ctl) : Ctl :=
  if 2 ≤ p ∨ !c.on (F.PL_SNAP_GO p) then c
  else
    let clr := c.on (F.PL_SNAP_CLR p)
    let take (g : PlGroup) : PlGroup := { g with snap := g.now, now := if clr then { sync := g.now.sync } else g.now }
    let pl := c.pl.map fun q => if q.1 / 64 = p then (q.1, take q.2) else q
    { c with pl }.sets [(F.PL_SNAP_GO p, 0), (F.PL_SNAP_CLR p, 0)]

/-- ARM of PL_INJ with its GROUP; ARM is ignored while that group's generator is disabled (R295). (DEDUCED: log entry 50.) -/
def plErrorInject (p g : Nat) (c : Ctl) : Ctl :=
  if 2 ≤ p then c
  else
    let c := c.set (F.PL_INJ_GROUP p) g
    if bit (lget (c.plEntry p (g % 64)).eff 0 0) 31 then c.set (F.PL_INJ_ARM p) 1 else c

/-! ### The engines in the frame that begins (R276) -/

/-- The internal-lane engines write input frame FN, and the recorders and checkers read output frame FN. They run once INIT_DONE is 1. -/
def State.internalEngines (fs : List ParityFault) (late : List (Nat × Nat)) (s : State) : State :=
  if !s.ctl.on F.CMP_STAT_INIT_DONE then s
  else
    let s := s.ctl.hl.foldl (hlServe fs) s
    let s := rlServe late fs 1 (rlServe late fs 0 s)
    s.ctl.pl.foldl plServe s

/-! ### The commands -/

/-- OP = 1 written on a page. -/
def execCfgTableLoad (page : Nat) (s : State) : Host.Outcome State Fault Refusal := onCtl (cfgTableLoad page) s

/-- OP = 2 written on a page. -/
def execCfgTableStore (page : Nat) (s : State) : Host.Outcome State Fault Refusal := onCtl (cfgTableStore page) s

/-- Another OP written on a page. -/
def execCfgTableOpUnknown (page op : Nat) (s : State) : Host.Outcome State Fault Refusal := onCtl (cfgTableOpUnknown page op) s

/-- An accepted store takes effect. -/
def execCfgEntryEffect (page idx : Nat) (s : State) : Host.Outcome State Fault Refusal := onStateTimed (cfgEntryEffect page idx) s

/-- A 1 written to RL_CTL.FREEZE_NOW. -/
def execRlFreezeNow (r : Nat) (s : State) : Host.Outcome State Fault Refusal := onCtl (rlFreezeNow r) s

/-- A 1 written to RL_CTL.ARM. -/
def execRlArm (r : Nat) (s : State) : Host.Outcome State Fault Refusal := onCtl (rlArm r) s

/-- A rising edge on TRIG_IN. -/
def execTrigInEdge (s : State) : Host.Outcome State Fault Refusal := onCtl trigInEdge s

/-- The triggers and ARM of a lane are taken. -/
def execRlTriggerTaken (r : Nat) (s : State) : Host.Outcome State Fault Refusal := onTimed (rlTriggerTaken r) s

/-- A recorder lane freezes. -/
def execRlPostEnd (r : Nat) (s : State) : Host.Outcome State Fault Refusal := onTimed (rlPostEnd r) s

/-- A 1 written to PL_SNAP.GO. -/
def execPlSnapshotRequest (p : Nat) (clr : Bool) (s : State) : Host.Outcome State Fault Refusal := onCtl (plSnapshotRequest p clr) s

/-- A snapshot is taken. -/
def execPlSnapshotTake (p : Nat) (s : State) : Host.Outcome State Fault Refusal := onTimed (plSnapshotTake p) s

/-- A 1 written to PL_INJ.ARM. -/
def execPlErrorInject (p g : Nat) (s : State) : Host.Outcome State Fault Refusal := onCtl (plErrorInject p g) s

end Sys2Proof.Machine
end

