-- ==== Sys2Proof/Machine/Margin.lean ====
section
/-! DEFINITION. The speed monitors, the planning speed and the escalation of margin (R229 to R243). -/

namespace Sys2Proof.Machine

/-! ### Configuration as taken -/

/-- LIMIT, held within 100 to 10,000 (LGR_ASM_LIMIT). -/
def Ctl.asmLimit (c : Ctl) : Nat := min 10000 (max 100 (c.get F.LGR_ASM_LIMIT_LIMIT))

/-- TARGET, held within 656 to 1,240 (MGN_CTL). -/
def Ctl.psTarget (c : Ctl) : Nat := min 1240 (max 656 (c.get F.MGN_CTL_TARGET))

/-- VMAX in mV (MGN_AVS_CFG). -/
def Ctl.vMax (c : Ctl) : Nat := min 900 (max 800 (c.get F.MGN_AVS_CFG_VMAX / 5 * 5))

/-- VFIX in mV. -/
def Ctl.vFix (c : Ctl) : Nat := min 900 (max 720 (c.get F.MGN_AVS_CFG_VFIX))

/-- AVS requests are enabled. -/
def Ctl.avsOn (c : Ctl) : Bool := c.on F.MGN_AVS_CFG_EN

/-! ### The planning speed (R232 to R234) -/

/-- Table 8.3, from 720 mV in steps of 20 mV. -/
def kTable : List Nat := [840, 886, 932, 978, 1024, 1068, 1112, 1155, 1198, 1240]

/-- K(V) on the 5 mV grid, between the points of Table 8.3 by interpolation, rounding down; none outside the table (R233). At a V off the
grid it is K of the grid point below, so that 901 to 904 mV give K(900): the model's choice. (DEDUCED: log entry 45.) -/
def kOf (v : Nat) : Option Nat :=
  if v < 720 ∨ 904 < v then none
  else
    let i := (v - 720) / 20
    let q := (v - 720) % 20 / 5
    let a := lget kTable i 0
    some (a + (lget kTable (i + 1) a - a) * q / 4)

/-- Division rounded up. -/
def ceilDiv (a : Int) (b : Nat) : Int := -((-a) / (b : Int))

/-- The ageing loss from the history (oldest first) and SI_avg, with the entries used (R232). -/
def ageingLoss (history : List Nat) (avg : Int) : Nat × Int :=
  let m := min history.length 12
  if history.length < 3 then (0, 16)
  else (m, max 4 (ceilDiv (((lget history (history.length - m) 0 : Nat) - avg) * 12) m))

/-- SI_avg: the mean of the last 16 valid measurements, rounded down (R231). -/
def siAvg (l : List Int) : Int := if l.isEmpty then 0 else l.foldl (· + ·) 0 / (l.length : Int)

/-- B of R233, or 656 under R234. -/
def Ctl.planB (c : Ctl) : Nat :=
  if c.on F.MGN_PS_FLOOR then 656
  else (siAvg c.mgn.si - (ageingLoss c.mgn.history (siAvg c.mgn.si)).2 - 32).toNat

/-! ### Measurements (R229 to R231) -/

/-- A measurement starts, or waits for the one that runs. -/
def Ctl.measure (k : MeasKind) (c : Ctl) : Ctl :=
  if c.mgn.meas.isNone then { c with mgn := { c.mgn with meas := some k } }
  else if c.mgn.measWait.contains k then c else { c with mgn := { c.mgn with measWait := c.mgn.measWait ++ [k] } }

/-- A 1 written to MEAS_NOW; it is ignored while a measurement runs. -/
def measNow (c : Ctl) : Ctl :=
  if c.mgn.meas.isSome then c else { c with mgn := { c.mgn with meas := some .request } }.set F.MGN_CTL_MEAS_NOW 1

/-- A ring's reading: its speed index (0 when it completed no handshake), its temperature, whether it completed one. -/
abbrev Ring := Nat × Int × Bool

/-- The readings of the rings: each one's count of handshakes over the reference count × 1,024 (R229), 0 of both where none is given. Whether
a quotient with a fraction is rounded up or down is free. (DEDUCED: log entry 46.) -/
def Ctl.speedIndices (rings : List (Nat × Nat × Int)) (c : Ctl) : List Ring × Ctl :=
  let up := c.takeFree 48
  (((rings ++ List.replicate 48 (0, 1, 0)).take 48).mapIdx fun i (q : Nat × Nat × Int) =>
    (q.1 * 1024 / q.2.1 + b2n (q.1 * 1024 % q.2.1 != 0 && bit up.1 i), q.2.2, decide (0 < q.1)), up.2)

/-- The speed index of a ring. -/
def ringSi (r : Ring) : Nat := if r.2.2 then r.1 else 0

/-- Twice the median of the 48 readings (R230). -/
def median2 (l : List Ring) : Nat :=
  let s := sortInt (l.map fun r => (ringSi r : Int))
  (lget s 23 0 + lget s 24 0).toNat

/-- A ring's reading is valid (R230). -/
def ringOk (med2 : Nat) (r : Ring) : Bool :=
  r.2.2 && decide (-60 ≤ r.2.1 ∧ r.2.1 ≤ 135) && decide (2 * ringSi r ≤ med2 + 192 ∧ med2 ≤ 2 * ringSi r + 192)

/-- The bin of a temperature in the histogram (R468). -/
def tempBinOf (t : Int) : Nat := if t < -30 then 0 else if 110 ≤ t then 15 else ((t + 30) / 10).toNat + 1

/-- A minute is counted in the histogram. -/
def Ctl.histMinute (c : Ctl) (b : Nat) : Ctl :=
  { c with life := { c.life with hist := c.life.hist.mapIdx fun i x => if i = b then x + 1 else x } }

/-- A scheduled measurement counts its minute: in the bin of the highest valid ring temperature, or, when it is discarded, in that of
the last valid reading; which bin that is while there has been none is free (R468). (DEDUCED: log entry 46.) -/
def Ctl.countMinute (ok : Bool) (c : Ctl) : Ctl :=
  match ok, c.mgn.tempBin with
  | _, some b => c.histMinute b
  | _, none => let r := c.takeFree 4; r.2.histMinute r.1

/-- The value of a valid measurement (R231). Of several rings with the lowest reading, which one gives Tj is free. (DEDUCED: log entry 46.) -/
def Ctl.si125 (valid : List Ring) (c : Ctl) : Int × Ctl :=
  let low := (valid.map ringSi).foldl min 2048
  let at' := (valid.filter fun r => ringSi r == low).map fun r => clampI (-55) 125 r.2.1
  let same := at'.all fun t => t == lget at' 0 125
  let pick := if same then (0, c) else c.takeFree 6
  (low - ceilDiv (125 - lget at' (pick.1 % max 1 at'.length) 125) 8, pick.2)

/-- The monitor registers of a measurement, with MON_OUTLIER for each ring that becomes invalid (R230). What the fields show of values that
they cannot hold is not stated: TJ shows the low 8 bits of the temperature, so that 128 to 135 read as negative, and SI shows 2,047 for any
greater index. (DEDUCED: log entry 46.) -/
def Ctl.monitorsTaken (rings : List (Ring × Bool)) (c : Ctl) : Ctl :=
  let first := !c.mgn.measured
  (rings.mapIdx fun i r => (i, r)).foldl (fun c q =>
    let i := q.1
    let r := q.2.1
    let ok := q.2.2
    let was := c.on (F.MGN_MON_VALID i)
    (c.sets [(F.MGN_MON_VALID i, b2n ok), (F.MGN_MON_TJ i, unsgn 8 r.2.1), (F.MGN_MON_SI i, min 2047 (ringSi r))]).raiseIf
      (!ok && (was || first)) 0x025 5) c

/-- A valid measurement (R231, R234). -/
def Ctl.measValid (valid : List Ring) (c : Ctl) : Ctl :=
  let r := c.si125 valid
  let si := lastN 16 (r.2.mgn.si ++ [r.1])
  let hot := (valid.map fun q => q.2.1).foldl max (-60)
  ({ r.2 with mgn := { r.2.mgn with si, tempBin := some (tempBinOf hot) } }.evalTrigger).sets
    [(F.MGN_SI_VALID, 1), (F.MGN_SI_SI_LAST, min 2047 r.1.toNat), (F.MGN_SI_SI_AVG, min 2047 (siAvg si).toNat),
     (F.MGN_STAT_MON_FAIL, 0), (F.MGN_STAT_DISCARDS, 0), (F.MGN_PS_FLOOR, 0)]

/-- A discarded measurement (R230, R234, R236). (DEDUCED: log entry 46.) -/
def Ctl.measDiscarded (c : Ctl) : Ctl :=
  let d := c.get F.MGN_STAT_DISCARDS
  let c := c.when (!c.mgn.measured || d == 2) Ctl.evalTrigger
  ((c.sets [(F.MGN_STAT_MON_FAIL, 1), (F.MGN_STAT_DISCARDS, min 3 (d + 1))]).when (decide (2 ≤ d)) (Ctl.set F.MGN_PS_FLOOR 1)).raise 0x025 4 []

/-- The measurement that runs ends (R229 to R231, R468, R469). -/
def speedMeasurementEnd (rings : List (Nat × Nat × Int)) (s : State) : State :=
  match s.ctl.mgn.meas with
  | none => s
  | some kind =>
    let read := s.ctl.speedIndices rings
    let rings := read.1
    let med := median2 rings
    let judged := rings.map fun r => (r, ringOk med r)
    let valid := (judged.filter fun q => q.2).map Prod.fst
    let ok := decide (40 ≤ valid.length)
    let c := ((read.2.monitorsTaken judged).set F.MGN_SI_RINGS valid.length).occ 0xBD 1
    let c := if ok then c.measValid valid else c.measDiscarded
    let c := if kind = .scheduled then c.countMinute ok else c
    let c := if kind = .request then c.set F.MGN_CTL_MEAS_NOW 0 else c
    let c := { c with mgn := { c.mgn with measured := true, meas := c.mgn.measWait.head?, measWait := c.mgn.measWait.drop 1 } }
    let s := { s with ctl := c }
    if ok then siHistoryAppend s else s

/-! ### The evaluation (R236, Table 8.4) -/

/-- What waited is judged (R228). (DEDUCED: log entry 40.) -/
def Ctl.waited (c : Ctl) (w : Waiting) : Ctl := match w with
  | .claim acct amount last => c.softClaim acct amount last
  | .store page _ => c.cfgWaited page
  | .seal q => c.ledgerVerdict q

/-- The rail is read at the first evaluation after reset (R238). (DEDUCED: log entry 45.) -/
def Ctl.firstRail (rail : Nat) (failed : Bool) (c : Ctl) : Ctl :=
  if !c.avsOn then c
  else if failed then
    (c.sets [(F.MGN_AVS_STAT_FAIL, 1), (F.MGN_STAT_AVS_FAIL, 1), (F.MGN_AVS_STAT_SET_MV, c.vFix)]).raise 0x025 3 []
  else
    let c := c.set F.MGN_AVS_STAT_SET_MV rail
    if rail ≤ c.vMax then c
    else { c with mgn := { c.mgn with rampTo := c.vMax, fails := 0 } }.set F.MGN_AVS_STAT_RAMP 1

/-- V: the confirmed setpoint, or VFIX while AVS is disabled (R233). -/
def Ctl.vNow (c : Ctl) : Nat := if c.avsOn then c.get F.MGN_AVS_STAT_SET_MV else c.vFix

/-- The planning speed from B and K. -/
def planSpeed (b k : Nat) : Nat := min 4095 (b * k / 1024)

/-- A voltage qualifies under step 3 of Table 8.4. -/
def Ctl.voltageFits (c : Ctl) (b v : Nat) : Bool :=
  match kOf v with
  | none => false
  | some k =>
    let ps := planSpeed b k
    decide (c.psTarget ≤ ps ∧ asmTime c.mgn.refAct ps ≤ 10000) &&
      (match c.mgn.refStby with
      | some a => decide (asmTime a ps ≤ 10000)
      | none => true)

/-- V_req: the lowest voltage on the 5 mV grid from V up to VMAX that qualifies, else VMAX (Table 8.4, step 3). -/
def Ctl.vReq (c : Ctl) (b v : Nat) : Nat :=
  let grid := (List.range 37).map fun i => 720 + 5 * i
  ((grid.filter fun x => decide (v ≤ x ∧ x ≤ c.vMax) && c.voltageFits b x).head?).getD c.vMax

/-- The ramp that an evaluation starts (Table 8.4, step 3): up to V_req, or the step down to VMAX once more where it has failed (R237,
R238). A V_req above V found during a ramp becomes that ramp's end; one equal to V leaves the ramp to run to its old end: the model's
choice. (DEDUCED: log entry 45.) -/
def Ctl.rampStart (v req : Nat) (c : Ctl) : Ctl :=
  let ramping := c.on F.MGN_AVS_STAT_RAMP
  let go (to' : Nat) : Ctl := { c with mgn := { c.mgn with rampTo := to', fails := if ramping then c.mgn.fails else 0 } }.set F.MGN_AVS_STAT_RAMP 1
  if c.avsOn && decide (v < req) then go req
  else if c.avsOn && c.on F.MGN_AVS_STAT_FAIL && decide (0 < c.mgn.rampTo ∧ c.mgn.rampTo < v) then go c.mgn.rampTo
  else c

/-- Steps 1 to 6 of Table 8.4 at the present V. K outside Table 8.3 is free. MGN_AGE keeps its reset values until the first valid
measurement, which the spec does not state. (DEDUCED: log entries 40, 45.) -/
def Ctl.marginSteps (c : Ctl) : Ctl :=
  let v := c.vNow
  let b := c.planB
  let kk := match kOf v with
    | some k => (k, c)
    | none => c.takeFree 11
  let c := kk.2
  let ps := planSpeed b kk.1
  let age := ageingLoss c.mgn.history (siAvg c.mgn.si)
  let c := if c.on F.MGN_SI_VALID then
      c.sets [(F.MGN_AGE_DEFAULT, b2n (age.1 == 0)), (F.MGN_AGE_M, age.1), (F.MGN_AGE_L, min 255 age.2.toNat)]
    else c
  let act := asmTime c.mgn.refAct ps
  let c := c.sets [(F.MGN_PS_K, kk.1), (F.MGN_PS_PS, ps), (F.LGR_ASM_ACT_REF, refUnits c.mgn.refAct), (F.LGR_ASM_ACT_ASM, act)]
  let c := match c.mgn.refStby with
    | some a => c.sets [(F.LGR_ASM_STBY_REF, refUnits a), (F.LGR_ASM_STBY_ASM, asmTime a ps), (F.LGR_STAT_STBY_VALID, 1)]
    | none => c
  let req := c.vReq b v
  let c := (c.set F.MGN_AVS_STAT_REQ_MV req).rampStart v req
  let top := !c.avsOn || c.on F.MGN_AVS_STAT_FAIL || decide (c.vMax ≤ v)
  let limit := c.asmLimit
  let target := c.psTarget
  let risky := c.on F.MGN_STAT_AT_RISK
  let risk := if top && decide (ps < target) then true else if target + 8 ≤ ps then false else risky
  let ceil := if risk then min limit (max (limit * ps / target) act) else limit
  let fell := decide (ceil < c.get F.LGR_ASM_CEIL_CEIL)
  let c := (c.sets [(F.MGN_STAT_AT_RISK, b2n risk), (F.LGR_ASM_CEIL_CEIL, ceil), (F.LGR_ASM_CEIL_LOWERED, b2n (decide (ceil < limit)))]).raiseIf
    (risk && !risky) 0x025 0
  let c := c.raiseIf fell 0x024 2
  let wasCrit := c.on F.MGN_STAT_MARGIN_CRITICAL
  let crit := if top && decide (10000 < act) then true else if act ≤ 9900 then false else wasCrit
  ((c.set F.MGN_STAT_MARGIN_CRITICAL (b2n crit)).raiseIf (crit && !wasCrit) 0x025 1).judgeOver

/-- A frame on AVSBus failed (R497). -/
def Ctl.avsBus (crcErr noResp : Bool) (c : Ctl) : Ctl :=
  let c := if crcErr then (c.count F.PER_AVS_STAT_CRC_ERR 1).raise 0x058 5 [] else c
  if noResp && !crcErr then (c.count F.PER_AVS_STAT_NO_RESP 1).raise 0x058 5 [] else c

/-- The first of the evaluations that are due is made (R236); the first after a reset reads the rail and judges what waited, in order of
arrival (R228, R238). (DEDUCED: log entry 40.) -/
def evaluation (rail : Nat) (crcErr noResp : Bool) (c : Ctl) : Ctl :=
  if c.mgn.evalDue = 0 then c
  else
    let c := { c with mgn := { c.mgn with evalDue := c.mgn.evalDue - 1 } }
    if !c.on F.LGR_STAT_WAITING then c.marginSteps
    else
      let failed := crcErr || noResp
      let c := if c.avsOn then c.avsBus crcErr noResp else c
      let c := ((c.firstRail rail failed).set F.LGR_STAT_WAITING 0).marginSteps
      let w := c.mgn.waiting
      w.foldl Ctl.waited { c with mgn := { c.mgn with waiting := [] } }

/-- A write of MGN_CTL.TARGET. -/
def targetWrite (target : Nat) (c : Ctl) : Ctl := c.evalTrigger.set F.MGN_CTL_TARGET target

/-- A write of LGR_ASM_LIMIT. -/
def limitWrite (limit : Nat) (c : Ctl) : Ctl := c.evalTrigger.set F.LGR_ASM_LIMIT_LIMIT limit

/-! ### The ramp (R237) -/

/-- The value of the ramp's present step: 5 mV up, or VMAX in one step from above (R238). From a setpoint that is not on the 5 mV grid, which
a rail reading may give, the first step goes to the next point of the grid and is shorter, which the spec does not state. (DEDUCED: log entry 45.) -/
def Ctl.rampStep (c : Ctl) : Nat :=
  let v := c.get F.MGN_AVS_STAT_SET_MV
  if c.mgn.rampTo ≤ v then c.mgn.rampTo else min c.mgn.rampTo ((v / 5 + 1) * 5)

/-- An attempt at a step failed: after three repeats AVS_FAIL is set and the ramp stops. (DEDUCED: log entry 45.) -/
def Ctl.rampFailed (c : Ctl) : Ctl :=
  let n := c.mgn.fails + 1
  if n < 4 then { c with mgn := { c.mgn with fails := n } }
  else
    ({ c with mgn := { c.mgn with fails := 0 } }.sets [(F.MGN_AVS_STAT_RAMP, 0), (F.MGN_AVS_STAT_FAIL, 1), (F.MGN_STAT_AVS_FAIL, 1)]).raise 0x025 3 []

/-- A ramp is in progress; while EN is 0 there is no traffic (R238). (DEDUCED: log entry 45.) -/
def Ctl.ramping (c : Ctl) : Bool := c.avsOn && c.on F.MGN_AVS_STAT_RAMP

/-- A step is written, read back and confirmed or not. A ramp that reaches its end starts a measurement. -/
def avsStep (readback : Nat) (alert : Bool) (c : Ctl) : Ctl :=
  if !c.ramping then c
  else
    let v := c.rampStep
    if alert || !decide (readback ≤ v + 10 ∧ v ≤ readback + 10) then c.rampFailed
    else
      let c := ({ c with mgn := { c.mgn with fails := 0 } }.sets
        [(F.MGN_AVS_STAT_SET_MV, v), (F.MGN_AVS_STAT_FAIL, 0), (F.MGN_STAT_AVS_FAIL, 0)]).raise 0x025 2 []
      if v = c.mgn.rampTo then (c.set F.MGN_AVS_STAT_RAMP 0).measure .ramp else c

/-- An attempt at a step draws no response or one whose CRC fails. -/
def avsStepRetry (crcErr noResp : Bool) (c : Ctl) : Ctl :=
  if !c.ramping || !(crcErr || noResp) then c else (c.avsBus crcErr noResp).rampFailed

/-! ### The commands -/

/-- The 60 s schedule starts a measurement. (DEDUCED: log entry 46.) -/
def execMeasurementScheduled (s : State) : Host.Outcome State Fault Refusal := onTimed (Ctl.measure .scheduled) s

/-- A 1 written to MGN_CTL.MEAS_NOW. -/
def execMeasNow (s : State) : Host.Outcome State Fault Refusal := onTimed measNow s

/-- A measurement ends. -/
def execSpeedMeasurementEnd (rings : List (Nat × Nat × Int)) (s : State) : Host.Outcome State Fault Refusal :=
  onStateTimed (speedMeasurementEnd rings) s

/-- An evaluation completes. -/
def execEvaluation (rail : Nat) (crcErr noResp : Bool) (s : State) : Host.Outcome State Fault Refusal :=
  onCtl (evaluation rail crcErr noResp) s

/-- A write of MGN_CTL.TARGET. -/
def execTargetWrite (target : Nat) (s : State) : Host.Outcome State Fault Refusal := onCtl (targetWrite target) s

/-- A write of LGR_ASM_LIMIT. -/
def execLimitWrite (limit : Nat) (s : State) : Host.Outcome State Fault Refusal := onCtl (limitWrite limit) s

/-- A 5 mV step is made. -/
def execAvsStep (readback : Nat) (alert : Bool) (s : State) : Host.Outcome State Fault Refusal := onCtl (avsStep readback alert) s

/-- An attempt at a step fails. -/
def execAvsStepRetry (crcErr noResp : Bool) (s : State) : Host.Outcome State Fault Refusal := onCtl (avsStepRetry crcErr noResp) s

end Sys2Proof.Machine
end

