-- ==== Sys2Proof/Machine/Tmu.lean ====
section
/-! DEFINITION. Reference selection, holdover and the DPLL (R299 to R328). Frequency offsets are in 0.1 ppb. -/

namespace Sys2Proof.Machine

/-! ### The adopted timing table (R304, R305, R323, Table 11.5) -/

/-- The first word of a candidate's adopted entry. -/
def Ctl.ttA (c : Ctl) (k : Nat) : Nat := c.adopted (R.TMU_TT_A k)

/-- KIND of a candidate's entry. -/
def Ctl.candKind (c : Ctl) (k : Nat) : Nat := bits (c.ttA k) 23 20

/-- LANE of a candidate's entry. -/
def Ctl.candLane (c : Ctl) (k : Nat) : Nat := bits (c.ttA k) 19 15

/-- A candidate is configured: its entry names a source (R305). -/
def Ctl.candConfigured (c : Ctl) (k : Nat) : Bool :=
  c.record.isSome && (if k < 4 then decide (1 ≤ c.candKind k ∧ c.candKind k ≤ 5)
    else decide (k < 8 ∧ c.candKind k = 1 ∧ c.candLane k < 24))

/-- A candidate. -/
def Ctl.cand (c : Ctl) (k : Nat) : TmuCand := tget c.tmu.cands k {}

/-- A candidate's record and registers (TMU_CAND_STAT_k). -/
def Ctl.setCand (k : Nat) (t : TmuCand) (c : Ctl) : Ctl :=
  { c with tmu := { c.tmu with cands := tput c.tmu.cands k t } }.sets
    [(F.TMU_CAND_STAT_STATE k, t.state), (F.TMU_CAND_STAT_COUNT k, t.count), (F.TMU_CAND_STAT_WTR_LEFT k, t.left)]

/-- A candidate is present (R305). -/
def Ctl.candPresent (c : Ctl) (k : Nat) : Bool := c.candConfigured k && decide ((c.cand k).state ≠ 0)

/-- RANK of a candidate's entry. -/
def Ctl.candRank (c : Ctl) (k : Nat) : Nat := bits (c.ttA k) 27 24

/-- A candidate can be selected (R309). -/
def Ctl.selectable (c : Ctl) (k : Nat) : Bool :=
  c.candConfigured k && decide ((c.cand k).state = 3) && bit (c.ttA k) 31 && decide (1 ≤ c.candRank k ∧ c.candRank k ≤ 8)

/-- WTR of a candidate's entry, in s. -/
def Ctl.candWtr (c : Ctl) (k : Nat) : Nat := min 900 (bits (c.ttA k) 9 0)

/-- The eight candidates. -/
def allCands : List Nat := List.range 8

/-- The maps of TMU_CAND_MAP that follow the states. -/
def Ctl.mapCands (c : Ctl) : Ctl :=
  c.sets [(F.TMU_CAND_MAP_SELECTABLE, maskOf 8 c.selectable), (F.TMU_CAND_MAP_QUALIFIED, maskOf 8 fun k => decide ((c.cand k).state = 3))]

/-- The absence condition of a lane candidate (Table 11.2). -/
def Ctl.laneAbsent (c : Ctl) (k : Nat) : Bool :=
  let n := c.candLane k
  decide (1 ≤ (c.lrx n).top ∧ (c.lrx n).top ≤ 5) || !c.rxEnabled n || (c.lrx n).looped

/-! ### The DPLL (R314, R318, R319) -/

/-- STATE of the DPLL (Table 11.4). -/
def Ctl.dpll (c : Ctl) : Nat := c.get F.TMU_STAT_STATE

/-- SEL: 0 to 7 a candidate, 8 the mate phase, 15 none. -/
def Ctl.tmuSel (c : Ctl) : Nat := c.get F.TMU_STAT_SEL

/-- BOOT or COMMISSION, in which the phase may step (Table 11.4). -/
def Ctl.mayStep (c : Ctl) : Bool := c.mode == .boot || c.mode == .commission

/-- HO_AVG of the adopted table, held within 5 to 600. (DEDUCED: log entry 53.) -/
def Ctl.hoAvg (c : Ctl) : Nat := min 600 (max 5 (c.adoptedFld F.TMU_TT_GLOBAL_HO_AVG))

/-- The mean of integers, rounded down. -/
def meanInt (l : List Int) : Int := l.foldl (· + ·) 0 / (l.length : Int)

/-- HOLDOVER is entered at the mean of the most recent samples; with no sample held the frequency is free (R319). (DEDUCED: log entry 53.) -/
def Ctl.enterHoldover (c : Ctl) : Ctl :=
  let l := lastN c.hoAvg c.tmu.history
  let r := if l.isEmpty then c.takeFree 32 else (unsgn 32 (meanInt l), c)
  let c := (r.2.sets [(F.TMU_STAT_STATE, 4), (F.TMU_HO_FREQ_Y, r.1), (F.TMU_FREQ_Y, r.1), (F.TMU_PHASE_ERR, 0), (F.TMU_HO_N_VALID, 1),
    (F.TMU_STAT_HO_SHORT, b2n (decide (l.length < r.2.hoAvg)))]).count F.TMU_CNT_HOLDOVERS 1
  { c with tmu := { c.tmu with step := none } }.raise 0x010 1 []

/-- The selection is none (Table 11.4). -/
def Ctl.selectNone (c : Ctl) : Ctl :=
  if c.tmuSel = 15 then c
  else
    let c := { c with tmu := { c.tmu with disRun := 0, wideRuns := [], step := none } }.set F.TMU_STAT_SEL 15
    if c.dpll = 1 then
      if c.tmu.history.isEmpty then c.sets [(F.TMU_STAT_STATE, 0), (F.TMU_FREQ_Y, 0), (F.TMU_PHASE_ERR, 0)] else c.enterHoldover
    else if c.dpll = 2 ∨ c.dpll = 3 then c.enterHoldover else c

/-- A new selection is made: REF_SWITCH, an empty history, and the DPLL's move (R314, R318, R328). -/
def Ctl.newSelection (k : Nat) (c : Ctl) : Ctl :=
  let c := { c with tmu := { c.tmu with history := [], disRun := 0, wideRuns := [], step := none } }.sets
    [(F.TMU_STAT_SEL, k), (F.TMU_HO_N_N, 0)]
  let c := (c.count F.TMU_CNT_SWITCHES 1).raise 0x010 0 []
  if c.dpll = 0 ∨ c.dpll = 1 then c.set F.TMU_STAT_STATE 1
  else if c.dpll = 4 ∧ c.mayStep then { c with tmu := { c.tmu with step := some .plain } }
  else c.set F.TMU_STAT_STATE 3

/-- A sample of the history (R318). -/
def Ctl.sample (y : Int) (c : Ctl) : Ctl :=
  let h := lastN 600 (c.tmu.history ++ [y])
  { c with tmu := { c.tmu with history := h } }.set F.TMU_HO_N_N h.length

/-! ### Selection (R311 to R313) -/

/-- The best rank among the candidates that can be selected. -/
def Ctl.bestRank (c : Ctl) : Option Nat := ((allCands.filter c.selectable).map c.candRank).foldl (fun a r => some (match a with | some x => min x r | none => r)) none

/-- Twice the distance of a candidate's last y from M; none when either is missing. -/
def Ctl.distM (c : Ctl) (k : Nat) : Option Nat :=
  match (c.cand k).y, c.tmu.med2 with
  | some y, some m => some (2 * y - m).natAbs
  | _, _ => none

/-- Of some candidates in increasing number, the one nearest M, the lowest number among equal distances; with M undefined, the
lowest number (R311). A candidate without a value of the last second comes last. -/
def Ctl.nearest (c : Ctl) (l : List Nat) : Option Nat :=
  l.foldl (fun a k => match a with
    | none => some k
    | some j => match c.distM j, c.distM k with
      | some dj, some dk => if dk < dj then some k else some j
      | none, some _ => some k
      | _, _ => some j) none

/-- The candidates that could be taken at a rank. -/
def Ctl.ofRank (c : Ctl) (r : Nat) : List Nat := allCands.filter fun k => c.selectable k && c.candRank k == r

/-- The selection is evaluated by rank and by distance from M (R311). (DEDUCED: log entry 53.) -/
def Ctl.evalSelection (c : Ctl) : Ctl :=
  if c.tmuSel = 8 ∨ c.tmu.conflict.isSome then c
  else match c.bestRank with
    | none => c.selectNone
    | some r =>
      if c.selectable c.tmuSel ∧ c.candRank c.tmuSel = r then c
      else match c.nearest (c.ofRank r) with
        | some k => c.newSelection k
        | none => c.selectNone

/-- |y_c − y_d| of the last second. -/
def Ctl.apart (c : Ctl) (j k : Nat) : Nat :=
  match (c.cand j).y, (c.cand k).y with
  | some a, some b => (a - b).natAbs
  | _, _ => 0

/-- The candidates of rank R* that disagree with the selected candidate in the last second, and those more than 9.2 ppm away (R312). -/
def Ctl.disagreeing (c : Ctl) (limit : Nat) : List Nat :=
  let s := c.tmuSel
  if c.selectable s && c.bestRank == some (c.candRank s) then
    (c.ofRank (c.candRank s)).filter fun k => k != s && decide (limit < c.apart s k)
  else []

/-- Disagreement is counted, and acted on after 10 seconds (R312). -/
def Ctl.judgeDisagreement (c : Ctl) : Ctl :=
  let ds := c.disagreeing 46000
  let wide := c.disagreeing 92000
  let c := { c with tmu := { c.tmu with disRun := if ds.isEmpty then 0 else min 10 (c.tmu.disRun + 1)
                                        wideRuns := wide.map fun k => (k, min 10 (tget c.tmu.wideRuns k 0 + 1)) } }
  if c.tmu.disRun < 10 then c
  else
    let s := c.tmuSel
    let n := (allCands.filter c.candPresent).length
    if 3 ≤ n then
      match c.nearest (allCands.filter fun k => k == s || ds.contains k) with
      | some k => if k = s then c else c.newSelection k
      | none => c
    else match n == 2, c.tmu.wideRuns.find? fun q => q.2 == 10 with
      | true, some (d, _) =>
        let c := c.selectNone
        ({ c with tmu := { c.tmu with conflict := some (s, d) } }.set F.TMU_STAT_REF_CONFLICT 1).raise 0x010 3 []
      | _, _ => c

/-- REF_CONFLICT clears when the two agree, a third candidate is present, or either can no longer be selected (R313). -/
def Ctl.judgeConflict (c : Ctl) : Ctl :=
  match c.tmu.conflict with
  | none => c
  | some (j, k) =>
    let agree := (c.cand j).y.isSome && (c.cand k).y.isSome && decide (c.apart j k ≤ 46000)
    if agree || decide (3 ≤ (allCands.filter c.candPresent).length) || !c.selectable j || !c.selectable k then
      { c with tmu := { c.tmu with conflict := none } }.set F.TMU_STAT_REF_CONFLICT 0
    else c

/-! ### The measurement second (R306 to R309) -/

/-- A second is good, bad or neutral for a candidate (R308). -/
inductive SecondKind where
  | good | bad | neutral
  deriving DecidableEq, Repr

/-- The judgement of a second from y, TIE and twice M. -/
def judgeSecond (y : Int) (tie : Nat) (m2 : Int) : SecondKind :=
  let d := (2 * y - m2).natAbs
  if d ≤ 92000 ∧ tie < 1000 ∧ y.natAbs ≤ 200000 then .good
  else if 184000 < d ∨ 1000 ≤ tie ∨ 200000 < y.natAbs then .bad else .neutral

/-- y and TIE of a second from the phases of a candidate, in ns against the oscillator, at evenly spaced instants from the start of the
second to its end: the mean offset, and the peak-to-peak of what is left without its trend, rounded down (R306). (DEDUCED: log entry 52.) -/
def phaseValues (l : List Int) : Option (Int × Nat) :=
  let n := l.length - 1
  if n = 0 then none
  else
    let a := lget l 0 0
    let d := lget l n 0 - a
    let rest := l.mapIdx fun i x => n * (x - a) - i * d
    some (d * 80000 / n, ((rest.foldl max 0 - rest.foldl min 0) / n).toNat)

/-- The deviation of an edge, in ns, from the straight line fitted by least squares to the 10 before it (R306). (DEDUCED: log entry 52.) -/
def edgeDeviation (edges : List Int) (e : Int) : Nat :=
  (30 * e - (edges.mapIdx fun i (x : Int) => (2 * (i : Int) - 6) * x).foldl (· + ·) 0).natAbs / 30

/-- y and TIE of a second of a 1PPS candidate, whose phases run from the edge before it to its own; until 10 edges have been seen the
spec states no TIE, which is free (R306). (DEDUCED: log entry 52.) -/
def Ctl.ppsValues (k : Nat) (l : List Int) (c : Ctl) : Option (Int × Nat) × Ctl :=
  let t := c.cand k
  let e := lget l (l.length - 1) 0
  let r := if t.edges.length < 10 then c.takeFree 20 else (edgeDeviation t.edges e, c)
  (if l.length < 2 then none else some ((e - lget l 0 0) * 10, r.1),
    { r.2 with tmu := { r.2.tmu with cands := tput r.2.tmu.cands k { t with edges := lastN 10 (t.edges ++ [e]) } } })

/-- y and TIE of each candidate from the phases of a second, none where an absence condition held at some moment of it; a 1PPS candidate
that was absent has no edges to fit (R305, R306). -/
def Ctl.formValues (obs : List (Option (List Int))) (c : Ctl) : List (Option (Int × Nat)) × Ctl :=
  allCands.foldl (fun a k =>
    let pps := decide (k < 4) && a.2.candKind k == 5
    match lget obs k none with
    | some l =>
      if pps then let r := a.2.ppsValues k l; (a.1 ++ [r.1], r.2) else (a.1 ++ [phaseValues l], a.2)
    | none =>
      let t := a.2.cand k
      (a.1 ++ [none], if t.edges.isEmpty then a.2 else { a.2 with tmu := { a.2.tmu with cands := tput a.2.tmu.cands k { t with edges := [] } } }))
    ([], c)

/-! ### The phase error and the output's frequency (R315, R316) -/

/-- A number modulo a period, in the half-open interval from minus half the period to half of it. (DEDUCED: log entry 53.) -/
def centred (x : Int) (p : Nat) : Int := (x + p / 2) % (p : Int) - p / 2

/-- The periods of the selected reference in 125 µs, of which the comparison period is one (R315). -/
def Ctl.refPeriods (c : Ctl) : Nat :=
  let k := c.tmuSel
  if 4 ≤ k then 1
  else if c.candKind k = 2 then 193 else if c.candKind k = 3 then 256 else if c.candKind k = 4 then 1250 else 1

/-- PHASE_OFS of a candidate's entry, in ns, within its limits (Table 11.5). -/
def Ctl.phaseOfs (c : Ctl) (k : Nat) : Int := clampI (-62499) 62499 (sgn 32 (c.adopted (R.TMU_TT_B k)))

/-- The phase error in ns, rounded down, from the output's position against an edge of the selected reference (R315); against the mate
phase the comparison period is the multiframe. (DEDUCED: log entry 53.) -/
def Ctl.phaseErr (phase : Int) (c : Ctl) : Int :=
  if c.tmuSel = 8 then centred phase 4000000
  else centred ((phase - c.phaseOfs c.tmuSel) * c.refPeriods) 125000 / c.refPeriods

/-- The loop bandwidth in 0.1 Hz: 10 Hz while acquiring and behind the mate phase, else the adopted table's BW (R314, R316, R320). (DEDUCED: log entry 53.) -/
def Ctl.loopBandwidth (c : Ctl) : Nat :=
  if c.dpll = 1 ∨ c.tmuSel = 8 then 100
  else match c.adoptedFld F.TMU_TT_GLOBAL_BW with
    | 0 => 1
    | 2 => 100
    | _ => 10

/-- The output's frequency offset: in PULLING exactly 0.5 ppm from that of the reference, in the sense that shortens the phase error, and
in ACQUIRING and LOCKED never further from it, since it gains or loses no more than 0.5 µs in 1 s on the reference (R316); where the reference
gave no value, as observed. (DEDUCED: log entry 53.) -/
def Ctl.outputFreq (ref : Option Int) (err freq : Int) (c : Ctl) : Int :=
  match ref with
  | none => freq
  | some y => if c.dpll = 3 then (if err < 0 then y + 5000 else y - 5000) else if c.dpll = 1 ∨ c.dpll = 2 then clampI (y - 5000) (y + 5000) freq else freq

/-- Twice the median of integers (R307). (DEDUCED: log entry 52.) -/
def med2Of (l : List Int) : Option Int :=
  let s := sortInt l
  let n := s.length
  if n = 0 then none else some (lget s ((n - 1) / 2) 0 + lget s (n / 2) 0)

/-- A candidate is absent: at once (Table 11.3). -/
def Ctl.candGone (k : Nat) (c : Ctl) : Ctl :=
  let t := c.cand k
  if t.state = 0 then c
  else ((c.setCand k { t with state := 0, count := 0, left := 0 }).raiseIf (decide (2 ≤ t.state)) 0x010 5).mapCands

/-- A candidate becomes QUALIFIED. -/
def Ctl.candQualified (k : Nat) (c : Ctl) : Ctl :=
  ((c.setCand k { c.cand k with state := 3, count := 0, left := 0 }).raise 0x010 4 []).mapCands

/-- The transition of Table 11.3 that a judged second makes. -/
def Ctl.candSecond (k : Nat) (j : SecondKind) (c : Ctl) : Ctl :=
  let t := c.cand k
  if t.state = 1 then
    if j ≠ .good then c.setCand k { t with count := 0 }
    else if t.count + 1 < 10 then c.setCand k { t with count := t.count + 1 }
    else if c.candWtr k = 0 then c.candQualified k
    else c.setCand k { t with state := 2, count := 0, left := c.candWtr k }
  else if t.state = 2 then
    if j = .good then c.setCand k { t with left := t.left - 1 }
    else (c.setCand k { t with state := 1, count := 0, left := 0 }).raise 0x010 5 []
  else if t.state = 3 then
    if j ≠ .bad then c.setCand k { t with count := 0 }
    else if t.count + 1 < 10 then c.setCand k { t with count := t.count + 1 }
    else (c.setCand k { t with state := 1, count := 0 }).raise 0x010 5 []
  else c

/-- The values that a candidate yields in a second: none unless it was present throughout (R305, R306). -/
def Ctl.candValues (c : Ctl) (vals : List (Option (Int × Nat))) (k : Nat) : Option (Int × Nat) :=
  if c.candPresent k && !(decide (4 ≤ k) && c.laneAbsent k) then lget vals k none else none

/-- What a second's values leave in a candidate's registers. -/
def Ctl.candRegs (k : Nat) (v : Option (Int × Nat)) (m2 : Int) (c : Ctl) : Ctl :=
  match v with
  | none => (c.setCand k { c.cand k with y := none }).sets
      [(F.TMU_CAND_TIE_VALID k, 0), (F.TMU_CAND_STAT_FAIL_MED k, 0), (F.TMU_CAND_STAT_FAIL_TIE k, 0), (F.TMU_CAND_STAT_FAIL_XO k, 0)]
  | some (y, tie) => (c.setCand k { c.cand k with y := some y }).sets
      [(F.TMU_CAND_FREQ_Y k, unsgn 32 y), (F.TMU_CAND_TIE_VALID k, 1), (F.TMU_CAND_TIE_TIE k, min (2 ^ 20 - 1) tie),
       (F.TMU_CAND_STAT_FAIL_MED k, b2n (decide (92000 < (2 * y - m2).natAbs))), (F.TMU_CAND_STAT_FAIL_TIE k, b2n (decide (1000 ≤ tie))),
       (F.TMU_CAND_STAT_FAIL_XO k, b2n (decide (200000 < y.natAbs)))]

/-- A candidate at the end of a second: presence regained, or its judged second, or absence by a frequency beyond ±1,000 ppm (R305,
R309). (DEDUCED: log entry 52.) -/
def Ctl.candEnd (vals : List (Option (Int × Nat))) (k : Nat) (v : Option (Int × Nat)) (m2 : Int) (c : Ctl) : Ctl :=
  let t := c.cand k
  let refin := decide (k < 4 ∧ c.candKind k ≤ 4)
  let wildNow := match lget vals k none with
    | some (y, _) => refin && decide (10000000 < y.natAbs)
    | none => false
  let c := c.setCand k { t with wild := wildNow }
  if !c.candConfigured k then c
  else if t.state = 0 then
    if (lget vals k none).isSome && !wildNow && !t.wild && !(decide (4 ≤ k) && c.laneAbsent k) then
      c.setCand k { c.cand k with state := 1, count := 0, left := 0 }
    else c
  else match v with
    | some (y, tie) => if wildNow then c.candGone k else c.candSecond k (judgeSecond y tie m2)
    | none => c

/-- The sample that a second adds to the history (R318): the mate phase, or the selected candidate in a good second in which it did
not disagree. -/
def Ctl.takeSample (mate : Option Int) (vals : List (Option (Int × Nat))) (m2 : Int) (c : Ctl) : Ctl :=
  if c.dpll ≠ 2 ∧ c.dpll ≠ 3 then c
  else if c.tmuSel = 8 then (match mate with | some y => c.sample y | none => c)
  else match c.candValues vals c.tmuSel with
    | some (y, tie) => if judgeSecond y tie m2 = .good ∧ (c.disagreeing 46000).isEmpty then c.sample y else c
    | none => c

/-- A WTR timer has run out and its candidate is still in WAIT (R309). -/
def Ctl.wtrDue (c : Ctl) : Bool := allCands.any fun k => (c.cand k).state == 2 && (c.cand k).left == 0

/-- The selection at the end of a measurement second, once R309 has been applied: while a WTR timer has run out whose candidate is not
yet QUALIFIED, the evaluation waits for it (R311 to R313). (DEDUCED: log entry 52.) -/
def Ctl.secondSelection (c : Ctl) : Ctl :=
  if c.wtrDue then c
  else
    let c := c.judgeConflict
    (if c.tmuSel = 8 then c else c.judgeDisagreement).evalSelection

/-- A measurement second ends (R306 to R313, R315, R316, R318). M that lies between two values of the register rounds freely. (DEDUCED: log entry 52.) -/
def measurementSecondEnd (obs : List (Option (List Int))) (mate : Option Int) (freq phase : Int) (c : Ctl) : Ctl :=
  let formed := c.formValues obs
  let vals := formed.1
  let c := formed.2
  let got := allCands.map fun k => (k, c.candValues vals k)
  let ys := got.filterMap fun q => q.2.map Prod.fst
  let m2 := med2Of ys
  let m := m2.getD 0
  let c := { c with tmu := { c.tmu with med2 := m2 } }.set F.TMU_CAND_MAP_MEDIAN_SET (maskOf 8 fun k => (c.candValues vals k).isSome)
  let c : Ctl := match m2 with
    | some z => if z % 2 = 0 then c.set F.TMU_MEDIAN_Y (unsgn 32 (z / 2))
      else let r := c.takeFree 1; r.2.set F.TMU_MEDIAN_Y (unsgn 32 (z / 2 + r.1))
    | none => c
  let ref := if c.tmuSel = 8 then mate else (lget vals c.tmuSel none).map Prod.fst
  let err := c.phaseErr phase
  let c := if c.dpll = 1 ∨ c.dpll = 2 ∨ c.dpll = 3 then
      c.sets [(F.TMU_FREQ_Y, unsgn 32 (c.outputFreq ref err freq)), (F.TMU_PHASE_ERR, unsgn 32 err)]
    else c
  let c := got.foldl (fun c q => c.candRegs q.1 q.2 m) c
  let c := c.takeSample mate vals m
  (got.foldl (fun c q => c.candEnd vals q.1 q.2 m) c).mapCands.secondSelection

/-- A WTR timer has run out: QUALIFIED; the selection is evaluated after the last that ran out with it (R309, R311). -/
def candidateWtrExpiry (k : Nat) (c : Ctl) : Ctl :=
  if 8 ≤ k ∨ (c.cand k).state ≠ 2 ∨ (c.cand k).left ≠ 0 then c else (c.candQualified k).secondSelection

/-- Absence is declared (R305). The selection is evaluated when the candidate was selected (R311). -/
def candidateAbsent (k : Nat) (c : Ctl) : Ctl :=
  if 8 ≤ k || !c.candConfigured k || (decide (4 ≤ k) && !c.laneAbsent k) then c
  else
    let waited := c.wtrDue
    let c := c.candGone k
    if c.tmuSel = k then c.evalSelection else if waited then c.secondSelection else c

/-- The pull to the reference's frequency is complete (Table 11.4). -/
def acquireDone (c : Ctl) : Ctl :=
  if c.dpll ≠ 1 then c
  else if c.mayStep then { c with tmu := { c.tmu with step := some .plain } } else c.set F.TMU_STAT_STATE 3

/-- LOCKED is entered. -/
def Ctl.locked (c : Ctl) : Ctl := (c.set F.TMU_STAT_STATE 2).raise 0x010 2 []

/-- The phase error has fallen to 100 ns (Table 11.4), as TMU_PHASE shows. -/
def pullDone (c : Ctl) : Ctl :=
  if c.dpll ≠ 3 ∨ c.tmu.step.isSome then c
  else (c.set F.TMU_PHASE_ERR (unsgn 32 (clampI (-100) 100 (sgn 32 (c.get F.TMU_PHASE_ERR))))).locked

/-! ### Pair-mode following (R320 to R322) -/

/-- The mate phase becomes or stops being the selection. `differs`: FN or the multiframe phase differs by more than 1 µs. (DEDUCED: log entry 53.) -/
def Ctl.followMate (should differs : Bool) (c : Ctl) : Ctl :=
  let following := c.tmuSel == 8
  if should && !following then
    let c := { c with tmu := { c.tmu with history := [], disRun := 0, wideRuns := [], step := if differs then some .mate else none } }.sets
      [(F.TMU_STAT_SEL, 8), (F.TMU_STAT_MATE_FOLLOW, 1), (F.TMU_HO_N_N, 0), (F.TMU_STAT_STATE, 3)]
    (c.count F.TMU_CNT_SWITCHES 1).raise 0x010 0 []
  else if !should && following then
    let c := { c with tmu := { c.tmu with step := none } }.sets [(F.TMU_STAT_MATE_FOLLOW, 0), (F.TMU_STAT_SEL, 15)]
    let c := c.evalSelection
    if c.tmuSel = 15 then c.enterHoldover else c
  else c

/-! ### Adoption of a table (R324) -/

/-- A new table has been adopted: a candidate whose kind, lane and input mode are unchanged keeps its state; every other restarts, and
one that was in WAIT or QUALIFIED leaves it (Table 11.7). -/
def Ctl.tmuAdopt (old : Ctl) (c : Ctl) : Ctl :=
  let same (k : Nat) : Bool := old.candConfigured k == c.candConfigured k && old.candKind k == c.candKind k &&
    old.candLane k == c.candLane k && bit (old.adopted R.TMU_REFIN_CFG) k == bit (c.adopted R.TMU_REFIN_CFG) k
  ((allCands.filter fun k => !same k).foldl (fun c k =>
    (c.setCand k {}).raiseIf (decide (2 ≤ (c.cand k).state)) 0x010 5) c).mapCands

/-! ### Squelch (R326) -/

/-- The outputs are squelched or released at a frame boundary. -/
def Ctl.squelchStep (c : Ctl) : Ctl :=
  let want := (c.on F.TMU_OUT_CTL_SQ_FREERUN && c.dpll == 0) || (c.on F.TMU_OUT_CTL_SQ_HOLDOVER && c.dpll == 4)
  { c with tmu := { c.tmu with squelched := want, squelchedWas := c.tmu.squelched }
           tb := { c.tb with squelched := want && (c.tb.squelched || !c.ppsOut) } }

/-! ### The commands -/

/-- A measurement second ends. -/
def execMeasurementSecondEnd (cands : List (Option (List Int))) (mate : Option Int) (freq phase : Int) (s : State) :
    Host.Outcome State Fault Refusal := onTimed (measurementSecondEnd cands mate freq phase) s

/-- A candidate's WTR timer expires. -/
def execCandidateWtrExpiry (k : Nat) (s : State) : Host.Outcome State Fault Refusal := onTimed (candidateWtrExpiry k) s

/-- A candidate is declared absent. -/
def execCandidateAbsent (k : Nat) (s : State) : Host.Outcome State Fault Refusal := onTimed (candidateAbsent k) s

/-- Acquisition is complete. -/
def execAcquireDone (s : State) : Host.Outcome State Fault Refusal := onTimed acquireDone s

/-- Pulling is complete. -/
def execPullDone (s : State) : Host.Outcome State Fault Refusal := onTimed pullDone s

end Sys2Proof.Machine
end

