-- ==== Sys2Proof/Machine/Pair.lean ====
section
/-! DEFINITION. The pair logic (R218, R219, R360 to R384): received pennants, the pair states, the service roles, evidence and
partings, and the hand-over. Moments are ticks of the machine timer. -/

namespace Sys2Proof.Machine

/-! ### Terms -/

/-- The unit is the PRIMARY: its UNIT_ROLE strap reads 0. -/
def Ctl.isPrimary (c : Ctl) : Bool := !c.on F.TOP_STRAPS_UNIT_ROLE

/-- PSTATE. -/
def Ctl.pstate (c : Ctl) : Nat := c.get F.UPR_STAT_PSTATE

/-- The moment of the next frame boundary. -/
def Ctl.boundaryAt (c : Ctl) : Nat := c.mtime + (c.frameTicks - c.tick)

/-- Frame number `x` is that of the frame in progress or of the one that the next boundary begins, modulo 2³². -/
def Ctl.nearFn (c : Ctl) (x : Nat) : Bool := c.fn32 == x % 2 ^ 32 || (c.fn32 + 1) % 2 ^ 32 == x % 2 ^ 32

/-- The next boundary begins frame `x`, modulo 2³². -/
def Ctl.nextFn (c : Ctl) (x : Nat) : Bool := (c.fn32 + 1) % 2 ^ 32 == x % 2 ^ 32

/-- ROLES of the mate's last valid pennant. -/
def Ctl.mateRoles (c : Ctl) : Nat := match c.pair.mate with | some p => p.roles | none => 0

/-- The mate reports its ACTIVE flag 1. -/
def Ctl.mateActive (c : Ctl) : Bool := bit c.mateRoles 3

/-- SVC_ROLE that the mate reports. -/
def Ctl.mateSvc (c : Ctl) : Nat := bits c.mateRoles 5 4

/-! ### The mate phase (R320 to R322, R382) -/

/-- Twice θ in 1/128 ns, over the pennants held: the mean (UPR_PHASE is in 1/64 ns). (DEDUCED: log entry 56.) -/
def Ctl.theta (c : Ctl) : Int :=
  let l := c.pair.thetas
  if l.isEmpty then 0 else l.foldl (· + ·) 0 / (2 * l.length : Nat)

/-- The mate phase is valid (R382). -/
def Ctl.phaseValid (c : Ctl) : Bool :=
  let l := c.pair.thetas
  c.pstate == 2 && c.mateSvc == 1 && (match c.pair.mate with | some p => !bit p.tmu 3 | none => false) && c.pair.run == 8 &&
    decide (l.foldl max (lget l 0 0) - l.foldl min (lget l 0 0) ≤ 6400)

/-- FN or the multiframe phase differs from the mate's by more than 1 µs (R321). -/
def Ctl.phaseDiffers (c : Ctl) : Bool :=
  (match c.pair.mate with | some p => p.fn != c.pair.fnOwn | none => false) || decide (64000 < c.theta.natAbs)

/-- What follows every change of the pair: PHASE_VALID, and whether the TMU follows the mate phase (R320, R322). -/
def Ctl.phaseStepMate (c : Ctl) : Ctl :=
  let v := c.phaseValid
  (c.sets [(F.UPR_STAT_PHASE_VALID, b2n v), (F.UPR_PHASE_THETA, unsgn 32 c.theta)]).followMate
    (c.pairEn && c.svc == .standby && v) c.phaseDiffers

/-- A time in ns as ticks of 204.8 MHz, rounded down. (DEDUCED: log entry 53.) -/
def nsTicks (z : Int) : Int := z * 2048 / 10000

/-- Whole frames between this unit's boundaries and the mate's, to the nearest boundary. (DEDUCED: log entry 53.) -/
def Ctl.mateFrames (c : Ctl) : Int := (c.theta + 4000000) / 8000000

/-- FN of the mate's frame whose beginning lies nearest the boundary that comes next (R321). (DEDUCED: log entry 53.) -/
def Ctl.mateFn (c : Ctl) : Nat :=
  unsgn 48 ((c.fnN : Int) + 1 + (match c.pair.mate with | some p => (p.fn : Int) - c.pair.fnOwn | none => 0) - c.mateFrames)

/-- A phase step acts at the system multiframe boundary that comes next: the frame that begins there is longer or shorter by the phase
error, or, in a step to the mate, takes the mate's FN and ends with the mate's frame; such a step waits while a swap is pending (R317,
R321). (DEDUCED, DESIGN CHOICE: log entries 4, 53.) -/
def phaseStep (phase : Int) (c : Ctl) : Ctl :=
  if !c.mfEdge then c
  else match c.tmu.step with
    | none => c
    | some k =>
      if k = .mate ∧ c.on F.CMP_STAT_SWAP_PENDING then c
      else
        let move := match k with
          | .plain => nsTicks (c.phaseErr phase)
          | .mate => nsTicks (c.theta - c.mateFrames * 8000000) / 64
        let fn := c.mateFn
        let c := ({ c with tmu := { c.tmu with step := none }, stretchNext := move }.set F.TMU_PHASE_ERR 0).raise 0x010 6 []
        match k with
        | .plain => c.locked
        | .mate => { c with fn := BitVec.ofNat 48 (fn + 2 ^ 48 - 1) }

/-! ### Revert (R380) -/

/-- The conditions of the revert timer hold. (DEDUCED: log entry 57.) -/
def Ctl.revertOk (c : Ctl) : Bool :=
  c.pairEn && c.isPrimary && c.pstate == 2 && c.svc == .standby && c.mode == .standby && bit c.mateRoles 7 && c.mateActive &&
    c.reg R.CMP_FP_MATE == c.reg R.CMP_FP_ACTIVE && c.on F.TMU_STAT_MATE_FOLLOW && c.get F.TMU_STAT_STATE == 2 &&
    !c.on F.MGN_STAT_AT_RISK && !c.on F.MGN_STAT_MARGIN_CRITICAL

/-- WTR_MIN of the adopted record, in ticks. -/
def Ctl.revertTicks (c : Ctl) : Nat := min 60 (max 1 (c.adoptedFld F.UPR_CFG_WTR_MIN)) * 60 * secondTicks

/-- The revert timer starts when its conditions hold, and any break stops it. (DEDUCED: log entry 57.) -/
def Ctl.revertStep (c : Ctl) : Ctl :=
  if !c.revertOk then
    if c.pair.wtrEnd.isNone ∧ c.pair.hoRetry.isNone then c else { c with pair := { c.pair with wtrEnd := none, hoRetry := none } }
  else if c.pair.wtrEnd.isSome ∨ c.pair.hoRetry.isSome ∨ c.pair.ho ≠ .none then c
  else { c with pair := { c.pair with wtrEnd := some (c.mtime + c.revertTicks) } }

/-- The pair has changed: phase following and the revert timer are judged again. -/
def Ctl.pairMoved (c : Ctl) : Ctl := c.phaseStepMate.revertStep

/-! ### Pair states (R368, R371, R373) -/

/-- PSTATE is entered, with MATE_VALID of both pages (R219, R368). -/
def Ctl.setPstate (p : Nat) (c : Ctl) : Ctl :=
  c.sets [(F.UPR_STAT_PSTATE, p), (F.UPR_STAT_MATE_VALID, b2n (p == 2)), (F.CMP_PAIR_MATE_VALID, b2n (p == 2))]

/-- D is set from a moment and from B0, the first multiframe boundary at or after it (R373). (DEDUCED: log entry 56.) -/
def Ctl.setDecision (from' b0 : Nat) (c : Ctl) : Ctl :=
  let d := (b0 + 160) % 2 ^ 48
  { c with pair := { c.pair with decFrom := from', decAt := some d } }.set F.UPR_DEC_FN_FN (d % 2 ^ 32)

/-- The mate becomes suspect (Table 13.3). -/
def Ctl.suspect (c : Ctl) : Ctl :=
  let c := { c with pair := { c.pair with good := 0 } }.setPstate 3
  let c := (c.set F.UPR_SUSP_FN_FN c.fn32).raise 0x018 1 []
  c.setDecision c.mtime (if c.fnN % 32 = 0 ∧ c.tick = 0 then c.fnN else (c.fnN / 32 + 1) * 32)

/-- PAIRED is entered: D lapses, HALYARD_FAIL clears, and the echo records are discarded (R368, R374, R377). -/
def Ctl.paired (formed : Bool) (c : Ctl) : Ctl :=
  let oh : List (Nat × LaneOh) := c.oh.map fun (q : Nat × LaneOh) => (q.1, { q.2 with echoLast := none })
  let p : Pair := { c.pair with decAt := none, judged := false }
  let c : Ctl := { c with pair := p, oh := oh }
  ((c.setPstate 2).set F.UPR_STAT_HALYARD_FAIL 0).raiseIf formed 0x018 0

/-- PARTED is entered with a verdict (R366, R368). -/
def Ctl.parted (verdict : Nat) (c : Ctl) : Ctl :=
  let c := { c with pair := { c.pair with fresh := true, good := 0, decAt := none } }.setPstate 4
  ((c.set F.UPR_STAT_VERDICT verdict).count F.UPR_CNT_ROLE_LOW 1).raise 0x018 2 []

/-- The unit enters service at the next boundary (R36, R370, R371). -/
def Ctl.enterService (c : Ctl) : Ctl :=
  if !c.pairEn then c
  else
    let c := { c with pair := { c.pair with serviceAt := some c.boundaryAt } }
    if c.pstate = 2 then c else c.setDecision c.boundaryAt (c.fnN + 1)

/-! ### Role actions (R34, R369) -/

/-- The unit takes ACTIVE: SVC_ROLE, the flag and the mode change. -/
def Ctl.takeActive (c : Ctl) : Ctl :=
  if !c.eligible || c.svc == .active then c
  else
    let c := c.setMode (if c.mode = .standby then .active else c.mode) .active
    ((c.count F.UPR_CNT_ROLE_HIGH 1).raise 0x018 4 []).pairMoved

/-- The unit leaves ACTIVE, or ISOLATED, for another role. -/
def Ctl.dropActive (r : SvcRole) (c : Ctl) : Ctl :=
  let held := c.svc == .active
  let c := c.setMode (if c.mode = .active then .standby else c.mode) r
  (c.raiseIf held 0x018 5).pairMoved

/-- A role action is put off to a boundary. (DEDUCED: log entry 56.) -/
def Ctl.roleAt (a : RoleAct) (f : Nat) (c : Ctl) : Ctl := { c with pair := { c.pair with act := some (a, f % 2 ^ 48) } }

/-! ### The receiver of the link (R362, R363) -/

/-- The symbols of a byte, bits [7:6] first. -/
def byteSymbols (b : Byte) : List Nat := [b.toNat / 64, b.toNat / 16 % 4, b.toNat / 4 % 4, b.toNat % 4]

/-- The symbols of a message that arrives without a code violation. -/
def symbolsOf (b : List Byte) : List (Option Nat) := (b.flatMap byteSymbols).map some

/-- The bytes that symbols spell. -/
def symbolBytes : List Nat → List Byte
  | a :: b :: c :: d :: l => BitVec.ofNat 8 (a * 64 + b * 16 + c * 4 + d) :: symbolBytes l
  | _ => []

/-- The CRC of a message checks. -/
def crcChecks (b : List Byte) : Bool := crc32 (b.take 60) == beAt b 60 4

/-- The receiver takes a symbol: 256 of them make a message. A code violation, and a message whose CRC fails, start a hunt, which moves on
symbol by symbol, through those of the failed message too, to a MARK that begins a message whose CRC checks. (DEDUCED: log entry 55.) -/
def HyRx.take (q : HyRx) : Option Nat → HyRx × List (List Byte)
  | none => ({ hunt := true }, [])
  | some x =>
    let l := q.syms ++ [x % 4]
    if l.length < 256 then ({ q with syms := l }, [])
    else
      let b := symbolBytes l
      if q.hunt && beAt b 0 1 != 0x9E then ({ q with syms := l.drop 1 }, [])
      else if crcChecks b then ({}, [b])
      else ({ hunt := true, syms := l.drop 1 }, if q.hunt then [] else [b])

/-- The receiver takes symbols in turn; the messages that it found. -/
def HyRx.feed (q : HyRx) : List (Option Nat) → HyRx × List (List Byte)
  | [] => (q, [])
  | x :: l =>
    let r := q.take x
    let t := r.1.feed l
    (t.1, r.2 ++ t.2)

/-! ### Received pennants (R362 to R368) -/

/-- The fields of a pennant. -/
def parsePennant (b : List Byte) : Pennant :=
  { kind := beAt b 1 1, devid := beAt b 4 4, roles := beAt b 11 1, count := beAt b 12 4, ack := beAt b 16 4, fn := beAt b 20 6
    rxPhase := sgn 32 (beAt b 26 4), h := beAt b 30 4, fpActive := beAt b 34 4, fpStby := beAt b 38 4, cmp := beAt b 42 1
    swapT := beAt b 43 4, tmu := beAt b 47 1, prot := beAt b 48 4 }

/-- MARK, FORMAT, CRC and the zero fields check (R366, Table 13.2). -/
def pennantFields (b : List Byte) : Bool :=
  b.length == 64 && beAt b 0 1 == 0x9E && beAt b 1 1 / 16 == 1 && crcChecks b && beAt b 2 2 == 0 &&
    beAt b 42 1 % 8 == 0 && beAt b 48 4 / 2 ^ 29 == 0 && (slice b 52 8).all (· == 0)

/-- KIND.BYE. -/
def Pennant.isBye (p : Pennant) : Bool := bit p.kind 3

/-- COUNT follows the previous valid pennant's (R366). -/
def Ctl.countFollows (c : Ctl) (p : Pennant) : Bool :=
  c.pair.fresh || (match c.pair.mate with
    | some q =>
      let d := sdiff 32 p.count q.count
      decide (1 ≤ d ∧ d ≤ 8) || (p.isBye && d == 0)
    | none => true)

/-- PAIR_ID is the unit's own and not 0 (R366). -/
def Ctl.pairIdOurs (c : Ctl) (b : List Byte) : Bool := beAt b 8 3 == c.pairId && c.pairId != 0

/-- PAIR_ID is the unit's own, and DEVID is the recorded one (R366, R367). -/
def Ctl.pennantOurs (c : Ctl) (b : List Byte) (p : Pennant) : Bool :=
  c.pairIdOurs b && (!c.on F.UPR_STAT_DEVID_REC || p.devid == (c.reg R.UPR_MATE_DEVID).toNat)

/-- MIRROR_STALE is declared and cleared on 4 consecutive pennants; while the mate is SUSPECT it holds (R219). -/
def Ctl.mirrorStep (p : Pennant) (c : Ctl) : Ctl :=
  let same := p.fpActive == (c.reg R.CMP_FP_ACTIVE).toNat
  let c := (c.set F.CMP_FP_MATE_FP p.fpActive).set F.CMP_PAIR_MATE_AGREE (b2n (bit p.cmp 3))
  let d := if same then 0 else min 4 (c.pair.mirDiff + 1)
  let e := if same then min 4 (c.pair.mirSame + 1) else 0
  let stale := c.on F.CMP_PAIR_MIRROR_STALE
  let c := { c with pair := { c.pair with mirDiff := d, mirSame := e } }
  if c.pstate = 3 then c
  else if d = 4 ∧ !stale then (c.set F.CMP_PAIR_MIRROR_STALE 1).raise 0x021 5 []
  else if e = 4 ∧ stale then c.set F.CMP_PAIR_MIRROR_STALE 0 else c

/-- The hand-over as a valid pennant moves it: a SECONDARY acknowledges HO, and a PRIMARY sees the flag drop (R381). -/
def Ctl.handoverHear (p : Pennant) (c : Ctl) : Ctl :=
  let c := if c.pair.ho = .proposed ∧ !bit p.roles 3 ∧ 0 ≤ sdiff 32 (p.fn % 2 ^ 32) c.pair.hoH ∧ sdiff 32 c.fn32 (c.pair.hoH + 28) < 0
    then { c with pair := { c.pair with hoSeen := true } } else c
  let again := c.pair.ho == .acked && c.pair.hoH == p.h
  if bit p.kind 2 && !c.isPrimary && c.pstate == 2 && c.eligible && c.svc == .active && !again && c.pair.ho != .committed &&
      decide (8 < sdiff 32 p.h c.fn32) then
    { c with pair := { c.pair with ho := .acked, hoH := p.h, hoMissed := false } }.sets [(F.UPR_STAT_HO_PEND, 1), (F.UPR_HO_FN, p.h)]
  else c

/-- COUNT is the one that follows the last valid pennant's. -/
def Pair.follows (q : Pair) (p : Pennant) : Bool := match q.mate with
  | some o => p.count == (o.count + 1) % 2 ^ 32
  | none => false

/-- What the pair logic holds after a valid pennant; a BYE, which no boundary paces, gives no θ. (DEDUCED: log entry 56.) -/
def Pair.hear (p : Pennant) (phase : Int) (near : Nat) (lag : Bool) (q : Pair) : Pair :=
  let run := if q.follows p then min 8 (q.run + 1) else 1
  let q : Pair := { q with
    fresh := false, mate := some p, missed := 0, good := if lag then 0 else min 4 (q.good + 1), fnOwn := near % 2 ^ 48, phase := phase }
  if p.isBye then { q with run := 0 } else { q with thetas := lastN 8 (q.thetas ++ [phase - p.rxPhase]), run := run }

/-- The registers that mirror the last valid pennant. -/
def Ctl.mateRegs (p : Pennant) (c : Ctl) : Ctl :=
  (c.sets [(F.UPR_MATE_COUNT_VALUE, p.count), (F.UPR_MATE_ACK_VALUE, p.ack), (F.UPR_MATE_STATE_ROLES, p.roles),
    (F.UPR_MATE_STATE_TMU, p.tmu), (F.UPR_MATE_STATE_CMP, p.cmp), (F.UPR_MATE_STATE_KIND, p.kind),
    (F.UPR_MATE_PROT_PROT, p.prot)]).occ 0xBE 1

/-- ROLE_CLASH is found in the received UNIT_ROLE (R369). -/
def Ctl.clashStep (p : Pennant) (c : Ctl) : Ctl :=
  if bit p.roles 7 == c.on F.TOP_STRAPS_UNIT_ROLE then
    (c.set F.UPR_STAT_ROLE_CLASH 1).raise 0x018 6 []
  else c

/-- The pair state as a valid pennant moves it (R366, R368, R371). (DEDUCED: log entry 55.) -/
def Ctl.pairHear (p : Pennant) (lag : Bool) (c : Ctl) : Ctl :=
  if p.isBye then
    let c : Ctl := c.parted 4
    let q : Pair := { c.pair with bye := some (p.h, c.mtime) }
    { c with pair := q }
  else if c.pstate = 2 then (if lag then c.suspect else c)
  else if c.pair.good < 4 then c
  else c.paired (c.pstate != 3)

/-- A valid pennant (R366 to R368, R372, R376, R382). -/
def Ctl.pennantValid (p : Pennant) (phase : Int) (c : Ctl) : Ctl :=
  let c : Ctl := c.clashStep p
  let lag := decide (4 < sdiff 32 (c.reg R.UPR_COUNT).toNat p.ack)
  let near := (c.fnN * 25600 + c.tick + 51200) / 102400 * 4
  let q : Pair := c.pair.hear p phase near lag
  let m : Option Nat := some c.mtime
  let c : Ctl := { c with lastPennant := m, pair := q }
  let c : Ctl := ((c.mateRegs p).mirrorStep p).handoverHear p
  (c.pairHear p lag).pairMoved

/-- The first pennant since reset that passes every test but the DEVID's gives the mate's DEVID, where the record names none (R367). (DEDUCED: log entry 55.) -/
def Ctl.learn (b : List Byte) (p : Pennant) (c : Ctl) : Ctl :=
  if c.pairIdOurs b ∧ c.pair.learned.isNone then
    let q : Pair := { c.pair with learned := some p.devid }
    ({ c with pair := q } : Ctl).mateRecorded
  else c

/-- A message of the Halyard link is judged (R366). -/
def Ctl.pennantJudge (b : List Byte) (phase : Int) (c : Ctl) : Ctl :=
  let p := parsePennant b
  if pennantFields b && c.countFollows p then
    let c := c.learn b p
    if c.pennantOurs b p then c.pennantValid p phase else (c.count F.UPR_CNT_PENN_LOW 1).raise 0x018 8 []
  else c.count F.UPR_CNT_PENN_HIGH 1

/-- The receiver answers each symbol with one transition on HY_RA (R362). Whether a code violation is answered is free. (DEDUCED: log entry 55.) -/
def Ctl.hyAnswer (symbols violations : Nat) (c : Ctl) : Ctl :=
  let r := if violations = 0 then (0, c) else c.takeFree violations
  let moves := symbols + popCount violations r.1
  let q : Pair := { r.2.pair with hyRa := xor r.2.pair.hyRa (moves % 2 == 1) }
  { r.2 with pair := q }

/-- Symbols arrive on the Halyard link and are answered: code violations are counted, and the messages that the receiver finds are judged
(R362, R363, R366). -/
def pennantReceive (syms : List (Option Nat)) (phase : Int) (tick : Nat) (c : Ctl) : Ctl :=
  if !c.pairRuns then c
  else
    let r := c.pair.rx.feed syms
    let codev := syms.countP Option.isNone
    let p : Pair := { c.pair with rx := r.1 }
    let c : Ctl := ((({ c with pair := p } : Ctl).advTo tick).hyAnswer (syms.length - codev) codev).when (codev != 0)
      fun c => (c.count F.UPR_CNT_LINK_HIGH codev).occ 0xBF codev
    r.2.foldl (fun c b => c.pennantJudge b phase) c

/-- The next expected pennant is missed once 10 µs and its 500 µs have passed (R368); a pending agreed swap and a hand-over take note
(R218, R381). The mate phase stays valid until the fourth (Table 13.7). -/
def pennantMissed (tick : Nat) (c : Ctl) : Ctl :=
  let c := c.advTo tick
  match c.lastPennant with
  | none => c
  | some t =>
    if !c.pairRuns || decide (10 * (c.mtime - t) < 2048 * (10 + 500 * (c.pair.missed + 1))) then c
    else
      let sw : Option SwapReq := c.swap.map fun (r : SwapReq) => { r with missed := true }
      let q : Pair := { c.pair with missed := c.pair.missed + 1, good := 0, hoMissed := true }
      let c : Ctl := { c with pair := q, swap := sw }
      (if c.pair.missed = 4 ∧ c.pstate = 2 then c.suspect else c).pairMoved

/-- The agreement check at FN = T − 8 (R218). (DESIGN CHOICE: log entry 4.) -/
def agreementCheck (c : Ctl) : Ctl :=
  match c.swap with
  | none => c
  | some r =>
    if !r.agree || !c.nearFn (r.target + 2 ^ 48 - 8) then c
    else match c.pair.mate with
      | some p =>
        if bit p.cmp 3 && p.swapT == r.target % 2 ^ 32 && p.cmp / 64 == 2 && bits p.cmp 5 4 == 1 &&
            p.fpStby == (c.reg R.CMP_FP_STBY).toNat && !r.missed then c
        else c.swapRefused 9
      | none => c.swapRefused 9

/-! ### The role rules (R370) -/

/-- Table 13.4 at FN[4:0] = 28: the first row that applies gives the action at the next multiframe boundary. (DEDUCED, DESIGN CHOICE: log entries 4, 56.) -/
def roleEvaluation (c : Ctl) : Ctl :=
  let b := (c.fnN / 32 + 1) * 32
  let own := c.activeFlag
  let mate := c.mateActive
  let served := match c.pair.serviceAt with
    | some t => decide (32 * 25600 ≤ c.mtime - t)
    | none => false
  if !c.pairRuns || c.pstate != 2 || c.fnN % 32 != 28 || c.svc == .none then c
  else if own && mate then (if c.isPrimary then c else c.roleAt .release b)
  else if c.svc == .isolated then (if c.isPrimary then c else c.roleAt .toStandby b)
  else if !own && !mate && decide (2 ≤ c.mateSvc) then (if c.isPrimary && c.eligible && served then c.roleAt .take b else c)
  else if !own && !mate && (c.mateSvc == 0 || c.mateRoles % 8 == 5 || !bit c.mateRoles 6) then
    (if c.eligible && (!c.isPrimary || served) then c.roleAt .take b else c)
  else c

/-- A role action that is due at the boundary that comes next is carried out (R369). (DESIGN CHOICE: log entry 4.) -/
def roleChange (c : Ctl) : Ctl :=
  match c.pair.act with
  | none => c
  | some (a, f) =>
    if !c.mfEdge || !c.nextFn f then c
    else
      let c := { c with pair := { c.pair with act := none } }
      match a with
      | .take => c.takeActive
      | .release => if c.svc = .active then c.dropActive .standby else c
      | .toStandby => if c.svc = .isolated then c.dropActive .standby else c

/-! ### Evidence and partings (R372 to R376) -/

/-- The lanes that are ALIVE and SILENT over a window that began at a moment (R372). -/
def Ctl.evidence (c : Ctl) (since : Nat) : Nat × Nat :=
  let obs (n : Nat) : List EchoObs := c.pair.obs.filter fun o => o.lane == n && decide (since ≤ o.time)
  let alive (n : Nat) : Bool := c.on (F.LOH_CTL_EVID_EN n) && (obs n).any fun o => o.proof == 1
  let silent (n : Nat) : Bool := c.on (F.LOH_CTL_EVID_EN n) && !alive n && (match (obs n).getLast? with
    | some o => o.proof == 2
    | none => false)
  (maskOf 24 alive, maskOf 24 silent)

/-- The verdict over a window: 1 ALIVE, 2 SILENT, 3 NONE, and the registers that record it. -/
def Ctl.verdict (since : Nat) (c : Ctl) : Nat × Ctl :=
  let e := c.evidence since
  (if e.1 ≠ 0 then 1 else if e.2 ≠ 0 then 2 else 3, c.sets [(F.UPR_EVID_ALIVE_LANES, e.1), (F.UPR_EVID_SILENT_LANES, e.2)])

/-- The decision at D (R374, Table 13.5). (DEDUCED: log entry 56.) -/
def partingDecision (c : Ctl) : Ctl :=
  match c.pair.decAt with
  | none => c
  | some d =>
    if !c.pairRuns || (c.fnN + 1) % 2 ^ 48 != d then c
    else
      let v := c.verdict c.pair.decFrom
      let q : Pair := { v.2.pair with decAt := none, judged := true }
      let c : Ctl := { v.2 with pair := q }
      let c : Ctl := if c.pstate = 3 then c.parted v.1 else c
      let c : Ctl := if v.1 = 1 ∧ !c.on F.UPR_STAT_HALYARD_FAIL then (c.set F.UPR_STAT_HALYARD_FAIL 1).raise 0x018 3 [] else c
      let left := match c.pair.mate with
        | some p => !bit p.roles 3 || bit p.kind 0
        | none => false
      let take := c.eligible && c.svc != .active
      let c : Ctl :=
        if c.svc = .none then c
        else if v.1 = 2 then (if take then c.roleAt .take (d + 32) else c)
        else if v.1 = 1 then (if c.isPrimary && take && left then c.roleAt .take (d + 32) else c)
        else if c.isPrimary then (if take then c.roleAt .take (d + 32) else c)
        else c.dropActive .isolated
      c.pairMoved

/-- The verdict of the preceding 20 ms at a multiframe boundary after D (R375). (DEDUCED: log entry 56.) -/
def partedVerdict (c : Ctl) : Ctl :=
  if !c.pairRuns || !c.mfEdge || c.pstate == 2 || c.pstate == 3 || !c.pair.judged || c.pair.decAt.isSome then c
  else
    let v := c.verdict (c.boundaryAt - 20 * 204800)
    if v.1 = 2 ∧ v.2.eligible ∧ v.2.svc ≠ .active ∧ v.2.pair.act.isNone then v.2.roleAt .take (v.2.fnN + 33) else v.2

/-- The take after a BYE: at the first multiframe boundary at or after H and at least 100 µs after the BYE (R376). (DEDUCED: log entry 55.) -/
def byeTakeActive (c : Ctl) : Ctl :=
  match c.pair.bye with
  | none => c
  | some (h, t) =>
    if !c.pairRuns || !c.mfEdge || decide (sdiff 32 ((c.fn32 + 1) % 2 ^ 32) h < 0) || decide (c.boundaryAt - t < 20480) then c
    else { c with pair := { c.pair with bye := none } }.takeActive

/-- The record of a lane's previous observation is discarded after 32 ms (R377). -/
def echoRecordExpire (n tick : Nat) (c : Ctl) : Ctl :=
  let c := c.advTo tick
  let o := c.loh n
  if 24 ≤ n ∨ o.echoLast.isNone ∨ c.mtime - o.echoAt < 32 * 204800 then c else c.setOh n { o with echoLast := none }

/-! ### The hand-over (R380, R381) -/

/-- The PRIMARY proposes a hand-over: H is the fourth multiframe boundary that comes. (DEDUCED: log entry 57.) -/
def Ctl.propose (c : Ctl) : Ctl :=
  let h := (c.fnN / 32 + 4) * 32 % 2 ^ 32
  { c with pair := { c.pair with ho := .proposed, hoH := h, hoSeen := false, wtrEnd := none, hoRetry := none } }.sets
    [(F.UPR_STAT_HO_PEND, 1), (F.UPR_HO_FN, h)]

/-- The revert timer runs out. (DEDUCED: log entry 57.) -/
def revertWtrExpiry (tick : Nat) (c : Ctl) : Ctl :=
  let c := (c.advTo tick).revertStep
  match c.pair.wtrEnd with
  | some t => if t ≤ c.mtime then c.propose else c
  | none => c

/-- 1 s has passed since a failed hand-over, and the conditions still hold. (DEDUCED: log entry 57.) -/
def handoverRetry (tick : Nat) (c : Ctl) : Ctl :=
  let c := (c.advTo tick).revertStep
  match c.pair.hoRetry with
  | some t => if t ≤ c.mtime then c.propose else c
  | none => c

/-- The hand-over of this unit ends. -/
def Ctl.handoverEnds (c : Ctl) : Ctl :=
  { c with pair := { c.pair with ho := .none, hoSeen := false } }.sets [(F.UPR_STAT_HO_PEND, 0), (F.UPR_STAT_REL_COMMIT, 0)]

/-- The SECONDARY commits at H − 8, or ends the hand-over. (DESIGN CHOICE: log entry 4.) -/
def handoverCommit (c : Ctl) : Ctl :=
  if c.pair.ho ≠ .acked || !c.nearFn (c.pair.hoH + 2 ^ 32 - 8) then c
  else
    let ok := match c.pair.mate with
      | some p => bit p.kind 2 && p.h == c.pair.hoH && !c.pair.hoMissed
      | none => false
    if ok then { c with pair := { c.pair with ho := .committed } }.set F.UPR_STAT_REL_COMMIT 1 else c.handoverEnds

/-- A committed SECONDARY releases ACTIVE at H. (DESIGN CHOICE: log entry 4.) -/
def handoverRelease (c : Ctl) : Ctl :=
  if c.pair.ho ≠ .committed || !c.nextFn c.pair.hoH then c
  else
    let c := c.handoverEnds
    if c.svc = .active then c.dropActive .standby else c

/-- The PRIMARY takes ACTIVE at H + 32, or the hand-over has failed. (DESIGN CHOICE: log entry 4.) -/
def handoverTake (c : Ctl) : Ctl :=
  if c.pair.ho ≠ .proposed || !c.nextFn (c.pair.hoH + 32) then c
  else if c.pair.hoSeen && c.eligible && c.svc != .active then (c.handoverEnds.takeActive).raise 0x018 9 []
  else
    let c := c.handoverEnds
    { c with pair := { c.pair with hoRetry := some (c.boundaryAt + secondTicks) } }.raise 0x018 10 []

/-! ### The commands -/

/-- A Halyard message is received. -/
def execPennantReceive (syms : List (Option Nat)) (phase : Int) (tick : Nat) (s : State) : Host.Outcome State Fault Refusal :=
  onTimed (pennantReceive syms phase tick) s

/-- A pennant is missed. -/
def execPennantMissed (tick : Nat) (s : State) : Host.Outcome State Fault Refusal := onTimed (pennantMissed tick) s

/-- A phase step acts. -/
def execPhaseStep (phase : Int) (s : State) : Host.Outcome State Fault Refusal := onTimed (phaseStep phase) s

/-- The agreement check. -/
def execAgreementCheck (s : State) : Host.Outcome State Fault Refusal := onTimed agreementCheck s

/-- The role rules are evaluated. -/
def execRoleEvaluation (s : State) : Host.Outcome State Fault Refusal := onTimed roleEvaluation s

/-- A role action acts. -/
def execRoleChange (s : State) : Host.Outcome State Fault Refusal := onTimed roleChange s

/-- Boundary D. -/
def execPartingDecision (s : State) : Host.Outcome State Fault Refusal := onTimed partingDecision s

/-- A multiframe boundary after D. -/
def execPartedVerdict (s : State) : Host.Outcome State Fault Refusal := onTimed partedVerdict s

/-- The take after a BYE. -/
def execByeTakeActive (s : State) : Host.Outcome State Fault Refusal := onTimed byeTakeActive s

/-- A lane's previous observation is discarded. -/
def execEchoRecordExpire (n tick : Nat) (s : State) : Host.Outcome State Fault Refusal := onTimed (echoRecordExpire n tick) s

/-- The revert timer expires. -/
def execRevertWtrExpiry (tick : Nat) (s : State) : Host.Outcome State Fault Refusal := onTimed (revertWtrExpiry tick) s

/-- The SECONDARY's commit. -/
def execHandoverCommit (s : State) : Host.Outcome State Fault Refusal := onTimed handoverCommit s

/-- The SECONDARY's release. -/
def execHandoverRelease (s : State) : Host.Outcome State Fault Refusal := onTimed handoverRelease s

/-- The PRIMARY's take. -/
def execHandoverTake (s : State) : Host.Outcome State Fault Refusal := onTimed handoverTake s

/-- A failed hand-over is proposed again. -/
def execHandoverRetry (tick : Nat) (s : State) : Host.Outcome State Fault Refusal := onTimed (handoverRetry tick) s

end Sys2Proof.Machine
end

