-- ==== Sys2Proof/Machine/Modes.lean ====
section
/-! DEFINITION. Modes (R31 to R44), the reset sources (R45 to R48), the watchdog (R49 to R51), XO_LOST (R303) and the boundary-scan
reset (R525). The boot that follows a release is in Machine/Boot.lean. -/

namespace Sys2Proof.Machine

/-- The effect of a command that acts whatever the device does: balls and power. -/
def onAlways (f : State → State) (s : State) : Host.Outcome State Fault Refusal := runIf true f s

/-! ### Mode requests (R35 to R39) -/

/-- TOP_MODE.BUSY. -/
def Ctl.modeBusy (c : Ctl) : Bool := c.modePend.isSome

/-- A fault is recorded (R65). -/
def Ctl.faultRecorded (c : Ctl) : Bool := c.on (F.HDR_FAULT_RECORDED 0)

/-- The REFUSE code with which a request is refused, 0 when it is accepted (R38, Table 2.2). -/
def Ctl.modeJudge (c : Ctl) (req : Nat) : Nat :=
  if c.modeBusy then 3
  else match req, c.mode with
    | 1, .boot => if c.on F.TOP_STRAPS_COMMISSION_EN then 0 else 2
    | 2, .boot => if !c.on F.TOP_COMM_STAT_VALID then 4 else if c.faultRecorded then 8 else 0
    | 2, .commission => if c.faultRecorded then 8 else 0
    | 2, .maintenance => 0
    | 4, .active => if c.get F.TOP_MAINT_LANES_LANES = 0 then 7 else 0
    | 4, .standby => if c.get F.TOP_MAINT_LANES_LANES = 0 then 7 else 0
    | _, _ => 1

/-- A request is refused, or accepted with REFUSE 0 and its effect. (DEDUCED: log entry 22.) -/
def Ctl.modeRequest (req : Nat) (accept : Ctl → Ctl) (c : Ctl) : Ctl :=
  let code := c.modeJudge req
  let c := c.set F.TOP_MODE_STAT_LAST_REQ req
  if code = 0 then accept (c.set F.TOP_MODE_STAT_REFUSE 0) else c.modeRefused code

/-- COMMISSION is entered from BOOT at once (Table 2.2). (DEDUCED: log entry 22.) -/
def modeReqCommission (c : Ctl) : Ctl := c.modeRequest 1 (fun c => c.setMode .commission .none)

/-- MAINTENANCE waits for its multiframe boundary. -/
def modeReqMaintenance (c : Ctl) : Ctl := c.modeRequest 4 (fun c => { c with modePend := some .maintenance })

/-- Any other code (R35). -/
def modeReqUnknown (req : Nat) (c : Ctl) : Ctl := if req = 1 ∨ req = 2 ∨ req = 4 then c else c.modeRequest req id

/-! ### The commissioning record (R60 to R63, Table 2.9) -/

/-- The CW registers of the record: byte offset in the copy, and the register. -/
def recordRegs : List (Nat × Nat) :=
  [(64, R.TMU_TT_GLOBAL), (68, R.TMU_REFIN_CFG)] ++ ((List.range 8).flatMap fun k => [(72 + 8 * k, R.TMU_TT_A k), (76 + 8 * k, R.TMU_TT_B k)]) ++
  [(136, R.UPR_CFG), (140, R.UPR_MATE_CFG), (144, R.CIP_LEASE)] ++ ((List.range 47).map fun i => (148 + 4 * i, R.CIP_SLOT_POL i)) ++
  [(340, R.TBS_JUMP 0), (344, R.TBS_JUMP 1), (348, R.TOP_COMM_ROLLBACK)]

/-- The life-record offset of a copy (Table 16.5). -/
def recordCopy (i : Nat) : Nat := 0x1000 + 0x2000 * i

/-- A key entry before encryption. -/
def keyEntry (slot : Nat) (k : KeyVal) : List Byte :=
  [BitVec.ofNat 8 slot, if k.bytes.length = 32 then 1 else 0, if slot < 24 ∧ k.side then 1 else 0, 0] ++ slice k.bytes 0 32

/-- The keys that a seal stores: of every PERSISTENT slot, the staged key, otherwise the key in force (R397). -/
def Ctl.persistentKeys (c : Ctl) : List (Nat × KeyVal) :=
  (List.range 47).filterMap fun i =>
    if c.get (F.CIP_SLOT_POL_MODE i) = 2 then
      match (c.slot i).staged, (c.slot i).key with
      | some k, _ => some (i, k)
      | none, some k => some (i, k)
      | none, none => none
    else none

/-- The first 356 bytes of a copy, with its TAG. -/
def Ctl.recordHead (c : Ctl) (gen n : Nat) (iv tag : List Byte) : List Byte :=
  beBytes 4 0x53544352 ++ beBytes 2 1 ++ beBytes 2 gen ++ beBytes 4 (356 + 36 * n) ++ iv ++ tag ++ List.replicate 24 0 ++
  ((recordRegs.filter fun q => q.1 < 336).flatMap fun q => beBytes 4 (c.reg q.2).toNat) ++ beBytes 4 0 ++
  ((recordRegs.filter fun q => 336 < q.1).flatMap fun q => beBytes 4 (c.reg q.2).toNat) ++ beBytes 4 n

/-- The record is formed and tagged under the root key, with an IV of slot 47 (R62, R63). (DEDUCED: log entry 23.) -/
def State.formRecord (s : State) : State :=
  let (v, s) := s.useCtr 47
  let c := s.ctl
  let gen := match c.record with
    | some r => if r.gen = 65535 then 1 else r.gen + 1
    | none => 1
  let keys := c.persistentKeys
  let iv := ivBytes 47 (c.slot 47).epoch v
  let aad := c.recordHead gen keys.length iv (List.replicate 16 0)
  let e := gcmSeal Config.rootKey iv aad (keys.flatMap fun q => keyEntry q.1 q.2)
  let b := slice (c.recordHead gen keys.length iv e.2 ++ e.1) 0 8192
  { s with ctl := { s.ctl with sealRec := some b } }

/-- What a copy of the record holds. -/
structure CopyRead where
  /-- MAGIC, FORMAT and LENGTH hold legal values -/
  header : Bool
  /-- the tag verifies under the root key -/
  tagOk : Bool
  /-- the zero fields are zero -/
  zeros : Bool
  gen : Nat
  vals : Tbl Word
  /-- key entries: slot, key bytes and SIDE -/
  keys : List (Nat × List Byte × Bool)

/-- The zero fields of a key entry are zero (Table 2.9). -/
def keyEntryZeros (l : List Byte) : Bool :=
  decide (beAt l 2 1 < 2) && beAt l 3 1 == 0 && (beAt l 1 1 == 1 || (slice l 20 16).all (· == 0))

/-- Those of every key entry of a plaintext. -/
def keyZeros (n : Nat) (l : List Byte) : Bool := (List.range n).all fun j => keyEntryZeros (slice l (36 * j) 36)

/-- The key entries of a plaintext; the fuel is their number. -/
def keyEntries : Nat → List Byte → List (Nat × List Byte × Bool)
  | 0, _ => []
  | n + 1, l => (beAt l 0 1, slice l 4 (if beAt l 1 1 = 1 then 32 else 16), beAt l 2 1 % 2 == 1) :: keyEntries n (l.drop 36)

/-- A copy is read and verified. -/
def readCopy (b : List Byte) : CopyRead :=
  let len := beAt b 8 4
  let n := beAt b 352 4
  let header := beAt b 0 4 == 0x53544352 && beAt b 4 2 == 1 && decide (n ≤ 47) && len == 356 + 36 * n
  let aad := slice b 0 24 ++ List.replicate 16 0 ++ slice b 40 316
  let p := gcmOpen Config.rootKey (slice b 12 12) aad (slice b 356 (36 * n)) (slice b 24 16)
  { header, tagOk := header && p.2
    zeros := (slice b 40 24).all (· == 0) && beAt b 336 4 == 0 && ((b.drop len).all (· == 0)) && (!header || keyZeros n p.1)
    gen := beAt b 6 2
    vals := recordRegs.foldl (fun t q => tput t q.2 (BitVec.ofNat 32 (beAt b q.1 4))) []
    keys := if header then keyEntries n p.1 else [] }

/-- A copy is valid (R63). -/
def CopyRead.valid (r : CopyRead) : Bool := r.header && r.tagOk && r.zeros

/-- The adopted record's values are loaded into the CW fields and the blocks that act on them (R61, R63, R324, R367). -/
def Ctl.adopt (copy : Nat) (r : CopyRead) (c : Ctl) : Ctl :=
  let old := c
  let c := (c.setRegs r.vals).sets [(F.TOP_COMM_STAT_VALID, 1), (F.TOP_COMM_STAT_GEN, r.gen)]
  let c : Ctl := { c with record := some { gen := r.gen, copy, vals := r.vals } }
  let c := Ctl.tmuAdopt old c
  c.when c.pairEn Ctl.mateRecorded

/-- SERVICE: from COMMISSION an accepted request starts the seal (R36, R62). (DEDUCED: log entry 23.) -/
def modeReqService (s : State) : State :=
  if s.ctl.modeJudge 2 = 0 ∧ s.ctl.mode = .commission then
    (s.mapCtl fun c => { c.modeRequest 2 id with modePend := some .active }.sets [(F.TOP_COMM_STAT_SEAL_BUSY, 1), (F.TOP_COMM_STAT_SEAL_FAIL, 0)]).formRecord
  else s.mapCtl (Ctl.modeRequest 2 fun c => { c with modePend := some .active })

/-- The copy that a seal overwrites: the one that is not adopted, copy 0 when none is (R63). (DEDUCED: log entry 23.) -/
def Ctl.sealCopy (c : Ctl) : Nat := match c.record with
  | some r => 1 - r.copy
  | none => 0

/-- The first word of a record that reads back differently from what was written. (DESIGN CHOICE: log entry 71.) -/
def firstMiss (left record : List Byte) : Option Nat := (List.range 2048).find? fun w => slice left (4 * w) 4 != slice record (4 * w) 4

/-- A word of the record mismatches after its retry: MRAM_FAIL with its offset (R467). -/
def Ctl.recordMiss (i : Nat) (w : Option Nat) (c : Ctl) : Ctl :=
  match w with
  | some w => (c.sets [(F.LIF_STAT_WFAIL, 1), (F.LIF_STAT_OFS, recordCopy i + 4 * w)]).raise 0x053 2 []
  | none => c

/-- The seal has failed (R62). (DEDUCED: log entry 23.) -/
def Ctl.sealFailed (c : Ctl) : Ctl :=
  let c : Ctl := { c with sealRec := none, modePend := none }
  ((c.sets [(F.TOP_COMM_STAT_SEAL_FAIL, 1), (F.TOP_COMM_STAT_SEAL_BUSY, 0)]).modeRefused 5).raise 0x000 4 []

/-- The seal completes: the record is written, read back and adopted; or its write has failed, and leaves some bytes (R62). (DEDUCED: log entry 23.) -/
def commissionSealDone (left : Option (List Byte)) (s : State) : State :=
  match s.ctl.sealRec with
  | none => s
  | some b =>
    let i := s.ctl.sealCopy
    match left with
    | some l => { s with mem := s.mem.mramWrite (recordCopy i) (l.take 8192) }.mapCtl fun c => (c.recordMiss i (firstMiss l b)).sealFailed
    | none =>
      let s : State := { s with mem := s.mem.mramWrite (recordCopy i) b }
      s.mapCtl fun c => (Ctl.adopt i (readCopy b) { c with sealRec := none }).set F.TOP_COMM_STAT_SEAL_BUSY 0

/-- An accepted transition takes effect at the multiframe boundary (R36, R37, R40). (DEDUCED: log entry 22.) -/
def modeTransition (c : Ctl) : Ctl :=
  if !c.mfEdge || c.on F.TOP_COMM_STAT_SEAL_BUSY then c
  else match c.modePend with
    | none => c
    | some m =>
      let c : Ctl := { c with modePend := none }
      let c := if m = .maintenance then c.setMode .maintenance c.svc
        else if c.mode = .maintenance then c.setMode (if c.svc = .active then .active else .standby) c.svc
        else if c.pairEn then (c.setMode .standby .standby).enterService
        else c.setMode .active .active
      c.pairMoved

/-! ### System resets (R45, R46) -/

/-- The control state that a system reset leaves: every register at its reset value but TOP_STRAPS and TOP_RST_CAUSE.PERST, and what
balls, the test port and the life record's device-side copies hold. (DEDUCED, DESIGN CHOICE, PRESUMED: log entries 8, 20, 21, 24, 71.) -/
def Ctl.resetTo (src : ResetSource) (c : Ctl) : Ctl :=
  { regs := [(R.TOP_STRAPS, c.reg R.TOP_STRAPS)], held := some src, heldXoLost := c.xoLost || (c.held.isSome && c.heldXoLost)
    perstSeen := c.perstSeen && src != .por, perstLow := c.perstLow, tapInstr := if src = .por then 1 else c.tapInstr
    tapCells := if src = .por then [] else c.tapCells, gpioIn := c.gpioIn, free := c.free
    subsys := c.subsys, pair := { out := c.pair.out, hyRa := c.pair.hyRa }
    life := if src = .por then {} else { c.life with fault := none, hourEnd := c.life.hourEnd - c.mtime } }

/-- The memories after a reset (Table 2.4). (DESIGN CHOICE: log entries 3, 20.) -/
def Mem.resetTo (src : ResetSource) (xoLost : Bool) (m : Mem) : Mem :=
  if src = .por then { mram := m.mram, mramWorn := m.mramWorn }
  else if xoLost then { m with ddr := [], poison := [] }
  else m

/-- A system reset takes effect: a BYE first, but for POR (R376); the count of RECOVERY entries goes to the life record. (DEDUCED: log entry 21.) -/
def State.systemReset (src : ResetSource) (s : State) : State :=
  let s := if s.ctl.live && src != .por then
      let c := s.ctl.byeSend s.ctl.fnN
      State.lifWrites [(lifRecoveries, c.life.recoveries)] [] { s with ctl := c }
    else s
  let c := s.ctl.resetTo src
  { pending := s.pending, ctl := c, mem := s.mem.resetTo src c.heldXoLost, xc := {}, dp := {} }

/-- A system reset from a source: while a reset is held, a power-on reset takes over, and nothing takes over a power-on reset. (DEDUCED: log entry 21.) -/
def State.resetFrom (src : ResetSource) (s : State) : State := if s.ctl.held = some .por then s else s.systemReset src

/-- The JTAG instructions that hold the boundary-scan reset: EXTEST, EXTEST_PULSE, EXTEST_TRAIN, CLAMP and HIGHZ (R525). (DESIGN CHOICE: log entry 80.) -/
def tapHolds (code : Nat) : Bool := [0x00, 0x03, 0x04, 0x05, 0x06].contains code

/-- The debugger reaches the cores: DEBUG is the current instruction while SEC_LOCK is low, out of reset (R525). -/
def Ctl.debugOpen (c : Ctl) : Bool := c.live && c.tapInstr == 0x10 && !c.secLock

/-- A debug access to a core: a core in reset cannot be halted, and only a halted one gives its registers away. (DESIGN CHOICE: log entry 80.) -/
def Ctl.debugOp (c : Ctl) (o : DebugOp) : Ctl :=
  let halted (n : Nat) (f : Ctl → Ctl) : Ctl := if n < 4 ∧ bit c.coreDbg n then f c else c
  match o with
  | .halt n => if n < 4 ∧ c.coreRuns n then { c with coreDbg := putBit c.coreDbg n true } else c
  | .resume n => halted n fun c => { c with coreDbg := putBit c.coreDbg n false }
  | .gpr n r v => halted n fun c => c.setHart n ((c.hart n).putX (r % 32) v)
  | .csr n a v => halted n fun c =>
    let d := (c.setHart n { c.hart n with user := false }).csrWrite n a v.toNat
    d.setHart n { d.hart n with user := (c.hart n).user }
  | .pc n v => halted n fun c => c.setHart n { c.hart n with pc := v.toNat }

/-- The boundary register stands between TDI and TDO under EXTEST, EXTEST_PULSE, EXTEST_TRAIN and SAMPLE/PRELOAD (R525). -/
def tapScans (code : Nat) : Bool := [0x00, 0x02, 0x03, 0x04].contains code

/-- What came through the port while the instruction that is current had been so: a new boundary register under those that select it, and
debug accesses under DEBUG. (DESIGN CHOICE: log entry 80.) -/
def Ctl.tapCame (t : TapIn) (c : Ctl) : Ctl :=
  let c : Ctl := match t.cells with
    | some l => if tapScans c.tapInstr then { c with tapCells := l } else c
    | none => c
  if c.debugOpen then t.accesses.foldl Ctl.debugOp c else c

/-- A JTAG instruction becomes current, after what came through the port under the one before. (DESIGN CHOICE: log entry 80.) -/
def tapInstructionUpdate (code : Nat) (t : TapIn) (s : State) : State :=
  let code := code % 32
  let s := s.mapCtl fun c => { c.tapCame t with tapInstr := code }
  if tapHolds code && s.ctl.held != some .tap then s.resetFrom .tap else s

/-- TRST_N goes low: the test port returns to IDCODE. PRESUMED (IEEE 1149.1). (PRESUMED: log entry 8.) -/
def trstAssert (s : State) : State := s.mapCtl fun c => { c with tapInstr := 1 }

/-- A write of TOP_RESET (R45). -/
def softwareReset (value : Word) (s : State) : State :=
  if wGet value 31 16 = 0xD1E5 ∧ bit value.toNat 0 then s.resetFrom .software else s

/-! ### PERST_N (R47, R485) -/

/-- The registers of the MSI-X table at their reset values. -/
def msixReset : List (Nat × Word) :=
  (List.range 64).flatMap fun v => [(R.HST_MSIX_ADDR_LO v, 0), (R.HST_MSIX_ADDR_HI v, 0), (R.HST_MSIX_DATA v, 0), (R.HST_MSIX_CTL v, 1)]

/-- The endpoint is reset: link, configuration space, BARs, MSI-X table and HST_APERTURE. -/
def Ctl.endpointReset (c : Ctl) : Ctl :=
  ({ c with bar0 := 0, bar2 := 0, aerStatus := 0 }.zero [R.HST_STAT, R.HST_APERTURE, R.HST_MSIX_PBA_LO, R.HST_MSIX_PBA_HI]).setRegs msixReset

/-- PERST_N falls. (DEDUCED: log entry 21.) -/
def perstAssert (s : State) : State :=
  let c : Ctl := { s.ctl with perstLow := true, perstSeen := true }
  { s with ctl := if c.live then c.endpointReset.raise 0x000 5 [] else c }

/-- PERST_N rises. (DEDUCED: log entry 21.) -/
def perstDeassert (s : State) : State := s.mapCtl fun c => { c with perstLow := false }

/-! ### Cores (R45, R417) -/

/-- A write of TOP_CORE_RUN. A core that is held in reset keeps no state of its own but its local memory. (DESIGN CHOICE: log entries 12, 19.) -/
def coreRunWrite (value : Word) (c : Ctl) : Ctl :=
  let was := c.get F.TOP_CORE_RUN_RUN
  let c := c.set F.TOP_CORE_RUN_RUN (wGet value 3 0)
  let run := c.get F.TOP_CORE_RUN_RUN
  let c := (List.range 4).foldl (fun c n => if bit was n == bit run n then c else c.setHart n { cycleAt := c.mtime }) c
  { c with coreWfi := c.coreWfi &&& run, coreDbg := c.coreDbg &&& run, romHalt := c.romHalt && bit run 0 }

/-! ### XO_LOST (R303) -/

/-- The oscillator stops: system timing stops, the memory's contents are lost, and a BYE goes through the clockless path. (DESIGN CHOICE: log entry 63.) -/
def xoLostStep (s : State) : State :=
  let c := s.ctl
  if !c.timing || c.xoLost then s
  else
    let c := c.byeSend c.fnN
    let c : Ctl := ({ c with xoLost := true }.set F.TMU_STAT_XO_LOST 1).set F.MEM_STAT_READY 0
    { s with ctl := c.raise 0x010 7 [], mem := { s.mem with ddr := [], poison := [] } }

/-! ### The watchdog (R49 to R51) -/

/-- The countdown restarts in full from the TIMEOUT in force. -/
def Ctl.wdRestart (c : Ctl) : Ctl := { c with wdEnd := c.mtime + c.wdTimeout * msTicks }

/-- A kick: TIMEOUT comes into force, and the countdown restarts. -/
def Ctl.wdKick (c : Ctl) : Ctl := { c with kick := none, wdTimeout := max 10 (c.get F.TOP_WDOG_CTL_TIMEOUT) }.wdRestart

/-- The first value of a kick. -/
def wdogKickBegin (m : Nat) (c : Ctl) : Ctl := { c with kick := some m }

/-- The second value: it completes a kick of the master whose sequence is in progress, and ends any other's. -/
def wdogKickComplete (m : Nat) (c : Ctl) : Ctl := if c.kick = some m then c.wdKick else { c with kick := none }

/-- Any other value, from any master. -/
def wdogKickOther (_m : Nat) (c : Ctl) : Ctl := { c with kick := none }

/-- A write of TOP_WDOG_KICK. -/
def wdogKickWrite (m : Nat) (value : Word) (c : Ctl) : Ctl :=
  if wGet value 15 0 = 0xA5A5 then wdogKickBegin m c else if wGet value 15 0 = 0x5A5A then wdogKickComplete m c else wdogKickOther m c

/-- A write of TOP_WDOG_CTL. -/
def wdogCtlWrite (value : Word) (c : Ctl) : Ctl :=
  let was := c.on F.TOP_WDOG_CTL_EN
  let c := c.set F.TOP_WDOG_CTL_TIMEOUT (wGet value 15 0)
  if c.leftBoot then c
  else
    let on := bit value.toNat 31
    let c := c.set F.TOP_WDOG_CTL_EN (b2n on)
    if on && !was then c.wdRestart else c

/-- The boot ROM waits for the host, and kicks the watchdog (R49, R57). (DESIGN CHOICE: log entry 19.) -/
def Ctl.romWaits (c : Ctl) : Bool := c.get F.TOP_BOOT_STAT_PHASE == 3

/-- The countdown ends: RECOVERY from the service modes, and otherwise a watchdog reset. (DESIGN CHOICE: log entry 19.) -/
def watchdogExpiry (tick : Nat) (s : State) : State :=
  let s := s.mapCtl (Ctl.advTo tick)
  let c := s.ctl
  if !c.on F.TOP_WDOG_CTL_EN || c.romWaits || decide (c.mtime < c.wdEnd) then s
  else if c.mode.inService then { s with ctl := (c.trigger 0x000 1).wdRestart }
  else s.resetFrom .wdog

/-! ### The meanings -/

/-- POR is asserted. -/
def execPowerOnReset (s : State) : Host.Outcome State Fault Refusal := onAlways (State.systemReset .por) s

/-- A RESET_N pulse is resolved as a reset. -/
def execResetNAssert (s : State) : Host.Outcome State Fault Refusal := onAlways (State.resetFrom .pin) s

/-- A write of TOP_RESET. -/
def execSoftwareReset (value : Word) (s : State) : Host.Outcome State Fault Refusal := onState (softwareReset value) s

/-- A JTAG instruction becomes current. -/
def execTapInstructionUpdate (code : Nat) (t : TapIn) (s : State) : Host.Outcome State Fault Refusal :=
  onAlways (tapInstructionUpdate code t) s

/-- TRST_N goes low. -/
def execTrstAssert (s : State) : Host.Outcome State Fault Refusal := onAlways trstAssert s

/-- PERST_N falls. -/
def execPerstAssert (s : State) : Host.Outcome State Fault Refusal := onAlways perstAssert s

/-- PERST_N rises. -/
def execPerstDeassert (s : State) : Host.Outcome State Fault Refusal := onAlways perstDeassert s

/-- A write of TOP_CORE_RUN. -/
def execCoreRunWrite (value : Word) (s : State) : Host.Outcome State Fault Refusal := onCtl (coreRunWrite value) s

/-- The oscillator stops. -/
def execXoLost (s : State) : Host.Outcome State Fault Refusal := onState xoLostStep s

/-- A write of 0xA5A5 to TOP_WDOG_KICK. -/
def execWdogKickBegin (m : Nat) (s : State) : Host.Outcome State Fault Refusal := 
  onState (byMaster m R.TOP_WDOG_KICK true (State.mapCtl (wdogKickBegin m))) s

/-- A write of 0x5A5A. -/
def execWdogKickComplete (m : Nat) (s : State) : Host.Outcome State Fault Refusal := 
  onState (byMaster m R.TOP_WDOG_KICK true (State.mapCtl (wdogKickComplete m))) s

/-- A write of another value. -/
def execWdogKickOther (m : Nat) (s : State) : Host.Outcome State Fault Refusal := 
  onState (byMaster m R.TOP_WDOG_KICK true (State.mapCtl (wdogKickOther m))) s

/-- A write of TOP_WDOG_CTL. -/
def execWdogCtlWrite (value : Word) (s : State) : Host.Outcome State Fault Refusal := onCtl (wdogCtlWrite value) s

/-- The watchdog expires. -/
def execWatchdogExpiry (tick : Nat) (s : State) : Host.Outcome State Fault Refusal := onStateTimed (watchdogExpiry tick) s

/-- COMMISSION is requested. -/
def execModeReqCommission (s : State) : Host.Outcome State Fault Refusal := onCtl modeReqCommission s

/-- SERVICE is requested. -/
def execModeReqService (s : State) : Host.Outcome State Fault Refusal := onState modeReqService s

/-- MAINTENANCE is requested. -/
def execModeReqMaintenance (s : State) : Host.Outcome State Fault Refusal := onCtl modeReqMaintenance s

/-- Another code is written to REQ. -/
def execModeReqUnknown (req : Nat) (s : State) : Host.Outcome State Fault Refusal := onCtl (modeReqUnknown req) s

/-- The commissioning seal ends. -/
def execCommissionSealDone (left : Option (List Byte)) (s : State) : Host.Outcome State Fault Refusal := onState (commissionSealDone left) s

/-- An accepted transition takes effect. -/
def execModeTransition (s : State) : Host.Outcome State Fault Refusal := onTimed modeTransition s

end Sys2Proof.Machine
end

