-- ==== Sys2Proof/Machine/Boot.lean ====
section
/-! DEFINITION. Reset release and the boot ROM's sequence (R48, R52 to R58, Table 2.6). The sequence is one step: what its times leave
room for between its own steps is not modelled, but for the wait for a host image. -/

namespace Sys2Proof.Machine

/-! ### What the boot ROM reports -/

/-- Bits of TOP_BOOT_STAT.FAIL. -/
def failQspiA : Nat := 0
def failQspiB : Nat := 1
def failHost : Nat := 2
def failRollback : Nat := 3
def failSelftest : Nat := 4
def failXoAbsent : Nat := 5
def failStrapRsvd : Nat := 6
def failRecordBad : Nat := 7

/-- A FAIL bit is set. -/
def Ctl.bootFail (i : Nat) (c : Ctl) : Ctl := c.setBit F.TOP_BOOT_STAT_FAIL i true

/-- PHASE. -/
def Ctl.phase (p : Nat) (c : Ctl) : Ctl := c.set F.TOP_BOOT_STAT_PHASE p

/-! ### The life record at boot (R48, R400, R467 to R469) -/

/-- The entries of the speed-index history. -/
def Mem.speedEntries (m : Mem) : List (Nat × Nat) :=
  ((List.range 512).map fun i => (m.mramWord (lifSpeed + 8 * i), beNat (m.mramBytes (lifSpeed + 8 * i + 4) 2))).takeWhile fun q => q.1 != 0

/-- The device's copies of the life record after a loss of power. -/
def Mem.lifeRead (m : Mem) : Life :=
  { hours := (List.range 64).foldl (fun a i => max a (m.mramWord (lifHours + 4 * i))) 0
    cycles := m.mramWord lifCycles
    causes := (List.range 5).map fun i => m.mramWord (lifCauses + 4 * i)
    recoveries := m.mramWord lifRecoveries
    hist := (List.range 16).map fun i => m.mramWord (lifHist + 4 * i)
    wear := (List.range 512).foldl (fun t b => tputD t b (m.mramWord (lifWear + 4 * b)) 0) [] }

/-- The speed-index history is read for the ageing estimate (R232, R469). -/
def Ctl.loadSpeed (m : Mem) (c : Ctl) : Ctl :=
  let l := m.speedEntries
  let due := match l.getLast? with
    | some q => (q.1 / 720 + 1) * 720
    | none => 720
  { c with mgn := { c.mgn with history := l.map Prod.snd, historyDue := due } }

/-- The reset cause is appended to the life record; the power cycles rise after POR only (R48). -/
def State.appendCause (src : ResetSource) (s : State) : State :=
  let l := s.ctl.life
  let n := lget l.causes src.bit 0 + 1
  let cycles := l.cycles + b2n (src == .por)
  State.lifWrites [(lifCauses + 4 * src.bit, n), (lifCycles, cycles)] []
    { s with ctl := { s.ctl with life := { l with causes := l.causes.set src.bit n, cycles } }.lifRegs }

/-- Epochs and reservations of the key slots; every counter resumes at its stored R, and one that can rise no further is EXHAUSTED (R400, R401). (DEDUCED: log entry 60.) -/
def Ctl.loadNonces (m : Mem) (c : Ctl) : Ctl :=
  (List.range 48).foldl (fun c i =>
    let w := m.mramWord (nonceArea i)
    let r := m.getResv i
    if w = 0 ∧ r = 0 then c
    else
      let out := decide (2 ^ 64 ≤ r)
      (c.setSlot i { c.slot i with epoch := w % 2 ^ 24, side := bit w 31, ctr := r, resv := r, exhausted := out }).raiseIf out 0x040 3) c

/-! ### The commissioning record at boot (R63, R65, R397) -/

/-- The copy that the boot adopts: the valid one with the higher generation, copy 0 when they count as equal (R63). -/
def chooseCopy (a b : CopyRead) : Option (Nat × CopyRead) :=
  if a.valid && b.valid then (if 0 < sdiff 16 b.gen a.gen ∧ sdiff 16 b.gen a.gen ≠ -32768 then some (1, b) else some (0, a))
  else if a.valid then some (0, a)
  else if b.valid then some (1, b)
  else none

/-- The adopted record's keys are placed in their slots; the epochs do not change (R397). A seal slot's hash key is asked for (R408). (DEDUCED: log entry 36.) -/
def Ctl.placeKeys (keys : List (Nat × List Byte × Bool)) (c : Ctl) : Ctl :=
  keys.foldl (fun c q =>
    let k := c.slot q.1
    let c := c.setSlot q.1 { k with key := some ⟨q.2.1, k.epoch, q.2.2⟩ }
    if q.1 < 24 then c.slrWant ⟨q.1, 3, k.epoch⟩ else c) c

/-- ROLE_BIND of the adopted record against the UNIT_ROLE strap (R366). (DEDUCED: log entry 22.) -/
def Ctl.roleBindCheck (c : Ctl) : Ctl :=
  if c.pairEn && c.record.isSome && c.adoptedFld F.UPR_CFG_ROLE_BIND != c.get F.TOP_STRAPS_UNIT_ROLE then
    (c.set F.UPR_STAT_ROLE_BIND_FAIL 1).raise 0x018 7 []
  else c

/-- Both copies are read and verified: one is adopted, or none; RECORD_BAD and the recorded fault follow R65. A cipher engine that
failed its test verifies nothing. (DEDUCED: log entry 18.) -/
def State.bootRecord (katOk : Bool) (s : State) : State :=
  let read (i : Nat) : CopyRead :=
    let r := readCopy (s.mem.mramBytes (recordCopy i) 8192)
    { r with tagOk := r.tagOk && katOk }
  let a := read 0
  let b := read 1
  let bad := (a.header && !a.tagOk) || (b.header && !b.tagOk)
  s.mapCtl fun c =>
    let c := if bad then c.bootFail failRecordBad else c
    match chooseCopy a b with
    | some (i, r) => ((c.adopt i r).placeKeys r.keys).roleBindCheck
    | none => if bad then c.recordFault 0 4 else c

/-! ### Images (R55 to R58) -/

/-- The header of an image holds legal values (R55, R58). -/
def headerLegal (h : List Byte) : Bool :=
  let len := beAt h 8 4
  let entry := beAt h 12 4
  beAt h 0 4 == 0x53545849 && beAt h 4 2 == 1 && len % 4 == 0 && decide (4 ≤ len ∧ len ≤ 1048512) && decide (entry < len) && entry % 4 == 0 &&
    beAt h 18 2 / 2 == 0 && (slice h 48 16).all (· == 0)

/-- The first header check that fails, as TOP_BOOT_WHY codes it; 0 for none (R58). -/
def Ctl.headerReason (c : Ctl) (h : List Byte) : Nat :=
  if !headerLegal h then 1
  else if beAt h 6 2 < c.adoptedFld F.TOP_COMM_ROLLBACK_MIN then 2
  else if beAt h 18 2 % 2 = 1 ∧ c.secLock then 3
  else 0

/-- The image's tag verifies under the root key (R58). (DEDUCED: log entry 18.) -/
def imageTagOk (h body : List Byte) : Bool :=
  gmac Config.rootKey (slice h 20 12) (slice h 0 32 ++ List.replicate 16 0 ++ slice h 48 16 ++ body) == slice h 32 16

/-- The FAIL bit and the TOP_BOOT_WHY field of a source: 1 and 2 the flash slots, 3 the host. -/
def Ctl.imageRefused (src reason : Nat) (c : Ctl) : Ctl :=
  let c := (c.bootFail (src - 1)).set ⟨R.TOP_BOOT_WHY, 4 * src - 1, 4 * src - 4⟩ reason
  if reason = 2 then c.bootFail failRollback else c

/-- An image is accepted: the ROM jumps to it (Table 2.6, step 7). Once BOOT has been left, REMAP is a BL field that ignores the ROM's
write (R59). (DESIGN CHOICE: log entry 19.) -/
def Ctl.imageAccepted (src : Nat) (h : List Byte) (c : Ctl) : Ctl :=
  (c.when (!c.leftBoot) (Ctl.set F.TOP_REMAP_REMAP 1)).sets [(F.TOP_BOOT_STAT_SOURCE, src), (F.TOP_BOOT_STAT_IMAGE_VERSION, beAt h 16 2), (F.TOP_BOOT_STAT_PHASE, 5)]

/-- A flash slot is tried: its header is judged first, and only then is its body loaded into working SRAM. -/
def State.tryFlash (src : Nat) (flash : List Byte) (s : State) : Bool × State :=
  let h := slice flash 0 64
  let reason := s.ctl.headerReason h
  if reason ≠ 0 then (false, s.mapCtl (Ctl.imageRefused src reason))
  else
    let body := slice flash 64 (beAt h 8 4)
    let s : State := { s with mem := { s.mem with sram := tputBytes s.mem.sram 0 body } }
    if s.ctl.on F.CIP_STAT_LOCKED || !imageTagOk h body then (false, s.mapCtl (Ctl.imageRefused src 4))
    else (true, s.mapCtl (Ctl.imageAccepted src h))

/-- Every source has failed (Table 2.6, step 8): a fault record is written, and C0 halts. (DESIGN CHOICE: log entry 19.) -/
def State.bootFailed (s : State) : State :=
  let p := s.ctl.takeFree (8 * 224)
  let c : Ctl := { p.2 with romHalt := true }.phase 15
  State.mramCheck s.mem.faultWords [] { s with mem := s.mem.faultWrite (c.faultBody 0 0 (beBytes 224 p.1)), ctl := c.raise 0x053 0 [] }

/-- The ROM brings up the endpoint and waits for the host (R57, R485). (DEDUCED: log entry 17.) -/
def Ctl.hostBoot (c : Ctl) : Ctl := (c.set F.HST_CTL_LINK_EN 1).phase 3

/-- The ROM reads and verifies images from the sources that the straps give (R53, R56). (DEDUCED: log entry 17.) -/
def State.bootImages (b : BootIn) (s : State) : State :=
  let src := s.ctl.get F.TOP_STRAPS_BOOT_SRC
  let s := s.mapCtl fun c => (if src = 3 then c.bootFail failStrapRsvd else c).phase 3
  if src = 1 then s.mapCtl Ctl.hostBoot
  else
    let r := s.tryFlash 1 b.flashA
    if r.1 then r.2
    else
      let r := r.2.tryFlash 2 b.flashB
      if r.1 then r.2 else if src = 0 then r.2.bootFailed else r.2.mapCtl Ctl.hostBoot

/-! ### Reset release (R46, R48, R52, R54) -/

/-- The straps are sampled by every source but the watchdog and software (Table 2.4). -/
def ResetSource.samplesStraps : ResetSource → Bool
  | .por | .pin | .tap => true
  | .wdog | .software => false

/-- The reset is released: straps, cause, and the hardware's own initialisation of the pages and of the pair logic (Table 2.6, steps 1
and 3; R208, R360, R368). -/
def Ctl.released (src : ResetSource) (b : BootIn) (c : Ctl) : Ctl :=
  let c := if src.samplesStraps then c.setReg R.TOP_STRAPS (BitVec.ofNat 32 (b.straps % 64)) else c
  let c := c.setReg R.TOP_RST_CAUSE (BitVec.ofNat 32 (2 ^ src.bit + 32 * b2n c.heldXoLost))
  let c : Ctl := { c with held := none, heldXoLost := false, timing := b.xo }
  let fp := PageSet.fingerprint {}
  let c := c.sets [(F.CMP_STAT_INIT_DONE, 1), (F.CMP_FP_ACTIVE_FP, fp), (F.CMP_FP_STBY_FP, fp)]
  let c := if b.xo then (List.range 24).foldl (fun c n => c.pmMark n) c else c
  if c.pairEn && b.xo then c.setPstate 1 else c

/-- The ROM's tests (Table 2.6, step 4). (DEDUCED: log entry 18.) -/
def Ctl.selfTests (src : ResetSource) (b : BootIn) (c : Ctl) : Ctl :=
  let ok := b.romOk && (src != .por || b.sramOk) && b.katOk
  let c := if ok then c else c.bootFail failSelftest
  if b.katOk then c else (c.sets [(F.CIP_STAT_KAT_FAIL, 1), (F.CIP_STAT_LOCKED, 1)]).raise 0x040 2 []

/-- Step 4 of Table 2.6. (DEDUCED: log entry 17.) -/
def State.bootStep4 (src : ResetSource) (b : BootIn) (s : State) : State :=
  let m := s.mem
  let s := s.mapCtl fun c =>
    let c : Ctl := if src = .por then { c with life := m.lifeRead } else c
    ((c.loadSpeed m).loadNonces m).selfTests src b
  ((s.bootRecord b.katOk).appendCause src).mapCtl (Ctl.phase 2)

/-- RESET_RELEASE. (DEDUCED: log entries 17, 22.) -/
def resetRelease (b : BootIn) (s : State) : State :=
  match s.ctl.held with
  | none => s
  | some src =>
    if tapHolds s.ctl.tapInstr then s
    else
      let s := s.mapCtl (Ctl.released src b)
      if !b.xo then s.mapCtl fun c => { c with romHalt := true }.bootFail failXoAbsent
      else (s.bootStep4 src b).bootImages b

/-! ### Host boot (R57, R58) -/

/-- The ROM waits for a host image, whatever mode the unit has been sent to meanwhile. (DESIGN CHOICE: log entry 19.) -/
def Ctl.romPolls (c : Ctl) : Bool := c.timed && c.romWaits

/-- The ROM judges the host's image: the header at 0x020F_FFC0, the body from 0x0200_0000. The verification is one step, so PHASE never
shows its 4, and reads 3 again after a refusal. (DESIGN CHOICE: log entry 19.) -/
def State.judgeHostImage (s : State) : State :=
  let h := tbytes s.mem.sram 0xFFFC0 64
  let r := s.ctl.headerReason h
  let body := if r = 0 then tbytes s.mem.sram 0 (beAt h 8 4) else []
  let reason := if r ≠ 0 then r else if s.ctl.on F.CIP_STAT_LOCKED || !imageTagOk h body then 4 else 0
  s.mapCtl fun c =>
    if reason = 0 then (c.imageAccepted 3 h).set F.TOP_HOSTBOOT_HB_DONE 1
    else (c.imageRefused 3 reason).sets [(F.TOP_HOSTBOOT_HB_FAIL, 1), (F.TOP_HOSTBOOT_HB_READY, 0)]

/-- HB_READY is set. (DEDUCED: log entry 18.) -/
def hostBootReady (s : State) : State :=
  let s := s.mapCtl fun c => c.sets [(F.TOP_HOSTBOOT_HB_READY, 1), (F.TOP_HOSTBOOT_HB_FAIL, 0)]
  if s.ctl.romPolls then s.judgeHostImage else s

/-! ### The meanings -/

/-- A system reset is released. -/
def execResetRelease (b : BootIn) (s : State) : Host.Outcome State Fault Refusal := onAlways (resetRelease b) s

/-- The host sets HB_READY. -/
def execHostBootReady (s : State) : Host.Outcome State Fault Refusal := onState hostBootReady s

end Sys2Proof.Machine
end

