-- ==== Sys2Proof/Machine/Boundary.lean ====
section
/-! DEFINITION. The system frame boundary (R20): time, input and output frames, the core's assembly, what every transmit lane sends in
the frame that begins (R74 to R98, R119, R130, R157 to R159, R250), and what else is paced by the boundary. -/

namespace Sys2Proof.Machine

/-! ### Time -/

/-- Time reaches the boundary, and FN rises. The frame that begins is as long as a phase step made it (R20, R317, R356). -/
def Ctl.boundaryTime (c : Ctl) : Ctl :=
  let n := c.frameTicks - c.tick
  let tb := c.tb.run n
  { c with tb := { tb with sb := tb.sel }, mtime := (c.mtime + n) % 2 ^ 64, stretch := c.stretchNext, stretchNext := 0, fn := c.fn + 1
           tick := 0, pmc := c.levelTicks n }.noteDomains

/-! ### The frame that a lane sends -/

/-- STAT.RDI of the frame that begins (R119). -/
def Ctl.rdiOut (c : Ctl) (n : Nat) : Bool := (c.rxEnabled n && c.sourceFail n) || c.on (F.LTX_CTL_RDI_FORCE n)

/-- REI of the frame that begins (R77). -/
def Ctl.reiOut (c : Ctl) (n : Nat) : Nat := let l := c.lrx n; if l.los || l.lol || l.lof then 0 else min 8 l.reiSum

/-- STAT of the frame that begins (Table 3.5). -/
def Ctl.statOut (c : Ctl) (n : Nat) : Nat := b2n (c.rdiOut n) * 64 + (c.lrx n).rate * 16 + b2n (c.ltx n).sealed.isSome * 8

/-- A lane AIS frame (R80). -/
def aisFrame (mfi : Nat) : RxFrame :=
  { faw := fawWord, mfi, bip := 0xFF, stat := 0xFF, rei := 0xFF, dccn := List.replicate 128 0xFF, aps := List.replicate 64 0xFF
    mob := List.replicate 8 0xFF, dccw := List.replicate 792 0xFF, pay := payAis }

/-- The payload that a lane sends: its output slots, those of W_LANE while it is the P_LANE of a bridged lane group, or its line loopback
(R130, R174, R250). -/
def State.payOut (s : State) (n : Nat) : Payload :=
  if (s.ctl.ltx n).source = 2 then lanePay s.dp.loopOut n
  else match s.ctl.groups.find? fun q => decide (lgBase ≤ q.1) && q.2.bridge && q.2.p == n with
    | some q => lanePay s.dp.output q.2.w
    | none => lanePay s.dp.output n

/-- The APS bytes of the frame that begins. On a sealed lane those of MFI 30 and 31 are fixed at the boundary of MFI 30 (R159). (DEDUCED: log entry 35.) -/
def Ctl.apsOut (n : Nat) (c : Ctl) : List Byte × Ctl :=
  let mfi := c.fnN % 32
  if (c.ltx n).sealed.isSome ∧ mfi = 30 then
    let r := c.apsPositions n 16
    let t := r.2.ltx n
    (r.1.take 64, r.2.setTx n { t with apsMf := t.apsMf ++ r.1, apsNext := r.1.drop 64 })
  else if (c.ltx n).sealed.isSome ∧ mfi = 31 then ((c.ltx n).apsNext, c)
  else
    let r := c.apsPositions n 8
    let t := r.2.ltx n
    (r.1, r.2.setTx n { t with apsMf := t.apsMf ++ r.1 })

/-- No message is sent in the frame that begins: its positions count as filler, as do those fixed with it (R98, R159). Messages fixed for
MFI 31 that a lane then does not send keep the SEQ values that they took, and their groups are not pending any more. (DEDUCED: log entry 35.) -/
def Ctl.apsSkip (n : Nat) (c : Ctl) : Ctl :=
  let t := c.ltx n
  let zeros : List Byte := List.replicate 64 0
  if t.sealed.isSome ∧ c.fnN % 32 = 30 then c.setTx n { t with apsMf := t.apsMf ++ zeros ++ zeros, apsNext := zeros }
  else if t.sealed.isSome ∧ c.fnN % 32 = 31 then c
  else c.setTx n { t with apsMf := t.apsMf ++ zeros }

/-- The overhead that page output and line loopback send: DCC-N, APS, MOB slice and DCC-W. With the LOH page disabled they are zero, and
nothing is taken. (DEDUCED: log entry 33.) -/
def Ctl.overheadOut (fs : List ParityFault) (n : Nat) (m : Mem) (c : Ctl) : (List Byte × List Byte × List Byte × List Byte) × Ctl :=
  if c.on (F.HDR_CTL_ENABLE (0x140 + n)) then
    let d := c.dccnOut fs n m
    let a := d.2.apsOut n
    let w := a.2.dccwOut fs n (c.lrx n).rate m
    ((d.1, slice a.1 0 64, slice (w.2.ltx n).mob (8 * (c.fnN % 32)) 8, w.1), w.2)
  else ((List.replicate 128 0, List.replicate 64 0, List.replicate 8 0, List.replicate 792 0), c.apsSkip n)

/-- A frame has been sent on a lane (LTX_STAT, R79). (DEDUCED: log entry 30.) -/
def State.sentFrame (n : Nat) (f : RxFrame) (ais : Bool) (parity : Nat) (s : State) : State :=
  { s with dp := { s.dp with sent := tput s.dp.sent n f, ais := tput s.dp.ais n ais } }.mapCtl fun c =>
    c.setTx n { c.ltx n with rdi := bit f.stat 6, rei := f.rei % 16, lastXor := some parity }

/-- A lane sends the frame that begins (Table 4.5). The errored bits counted up to the boundary are taken whatever it sends (R77). (DEDUCED: log entry 29.) -/
def laneSend (fs : List ParityFault) (s : State) (n : Nat) : State :=
  let s := if s.ctl.fnN % 32 = 0 then mobLatch n s else s
  let c := s.ctl
  let mfi := c.fnN % 32
  let rate := (c.lrx n).rate
  let t := c.ltx n
  let rei := c.reiOut n
  let taken (c : Ctl) : Ctl := c.setRx n { c.lrx n with reiSum := 0 }
  let s : State := { s with dp := { s.dp with sentBefore := match tfind s.dp.sent n with
    | some f => tput s.dp.sentBefore n f
    | none => tdel s.dp.sentBefore n } }
  if t.source = 3 then
    { s with dp := { s.dp with sent := tdel s.dp.sent n } }.mapCtl fun c => let c := taken (c.apsSkip n); c.setTx n { c.ltx n with lastXor := none }
  else if t.source = 1 then
    (s.mapCtl fun c => taken (c.apsSkip n)).sentFrame n (aisFrame mfi) true (aisXor rate mfi)
  else
    let o := c.overheadOut fs n s.mem
    let f : RxFrame := { faw := fawWord, mfi, bip := t.lastXor.getD 0, stat := c.statOut n, rei, dccn := o.1.1, aps := o.1.2.1
                         mob := o.1.2.2.1, dccw := o.1.2.2.2, pay := s.payOut n }
    let s := ({ s with ctl := taken o.2 } : State).sentFrame n f false (lineXor rate f)
    if mfi = 30 then tagLane s n else s

/-- Byte `i` of the frame that a lane sends, as it leaves: scrambled (R78); none in electrical idle. (DESIGN CHOICE: log entry 16.) -/
def State.lineOut (s : State) (n i : Nat) : Option Byte := (tfind s.dp.sent n).map fun f => lineByte (s.ctl.lrx n).rate f i

/-! ### The boundary -/

/-- What the boundary does to the frames: the aligners, the halves of data memory and staging, the assembly of the next output frame, and
the lane groups' selections (R20, R21, R122, R170 to R172, R249). (DEDUCED: log entry 38.) -/
def State.exchange (wanders : List (Nat × Int)) (faults : List ParityFault) (ovr : Option (Nat × List Nat)) (s : State) : State :=
  let was := s.ctl.subst
  let late := s.ctl.assembling
  let s := s.deliver.mapCtl fun c => (c.alignerBoundary wanders).nextRelease.boundaryTime
  let s := match late, ovr with
    | true, some o => s.overrun o.1 o.2
    | _, _ => s.mapCtl fun c => { c with ovrRun := 0 }
  let s := { s with dp := { s.dp with output := s.dp.asm } }
  ((s.stagingReads faults).assemble faults).mapCtl (Ctl.sampleSubst was)

/-- The ACTIVE flag clears at the system multiframe boundary that follows a RECOVERY entry; `due`: it was entered before this boundary
(R43). (DEDUCED: log entry 24.) -/
def Ctl.recovFlag (due : Bool) (c : Ctl) : Ctl :=
  if due ∧ c.recovFlagClear ∧ c.fnN % 32 = 0 then
    let c := { c with recovFlagClear := false }
    if c.svc = .active then c.dropActive .standby else c
  else c

/-- What the boundary does in the control units before the lanes' frames begin: a persistent failure of the record's on-die copy, the
ACTIVE flag, and the pennant, whose COUNT the MOBs of this boundary carry (Table 2.3, R43, R364, Table 13.7). (DEDUCED: log entry 24.) -/
def Ctl.boundaryHead (due : Bool) (faults : List ParityFault) (hyAcks : Nat) (c : Ctl) : Ctl :=
  let c := (c.when (faults.contains .record) (Ctl.trigger 0x000 3)).recovFlag due
  c.when (c.fnN % 4 == 0) (Ctl.pennantSend hyAcks)

/-- What the boundary paces in the control units: line PM, timing outputs, the revert timer, and the boot ROM's watchdog kick (R57, R326,
R380, R448). (DESIGN CHOICE: log entry 19.) -/
def Ctl.paced (c : Ctl) : Ctl :=
  let c := ({ c with pm := { c.pm with frames := c.pm.frames + 1 } }.occ 0x00 1).squelchStep
  (c.when c.romWaits Ctl.wdKick).revertStep

/-- The system frame boundary. (DESIGN CHOICE: log entry 4.) -/
def frameBoundary (wanders : List (Nat × Int)) (faults : List ParityFault) (ovr : Option (Nat × List Nat)) (late : List (Nat × Nat))
    (hyAcks : Nat) (s : State) : State :=
  let due := s.ctl.recovFlagClear
  let s := (((s.wearOut faults).hlStore faults).exchange wanders faults ovr).mapCtl (Ctl.boundaryHead due faults hyAcks)
  let s := (List.range 24).foldl (laneSend faults) s
  (s.internalEngines faults late).mapCtl Ctl.paced

/-- FRAME_BOUNDARY. -/
def execFrameBoundary (wanders : List (Nat × Int)) (faults : List ParityFault) (overrun : Option (Nat × List Nat))
    (late : List (Nat × Nat)) (hyAcks : Nat) (s : State) : Host.Outcome State Fault Refusal :=
  onStateTimed (frameBoundary wanders faults overrun late hyAcks) s

end Sys2Proof.Machine
end

