-- ==== Sys2Proof/Machine/EventEngine.lean ====
section
/-! DEFINITION. The event engine and the performance counters' own commands (R12, R454 to R466, R490): the notify ring, the log
ring, louvres, switch records, MSI-X. -/

namespace Sys2Proof.Machine

/-! ### Performance counters (R456, R457) -/

/-- A counter. -/
def Ctl.pmcOf (c : Ctl) (k : Nat) : PmcCounter := tget c.pmc k {}

/-- Change a counter. -/
def Ctl.setPmc (k : Nat) (p : PmcCounter) (c : Ctl) : Ctl := { c with pmc := tput c.pmc k p }

/-- A counter carries out of bit 47: it wraps, and OVF is set and raised (R456). (DEDUCED: log entry 70.) -/
def pmcOverflow (k : Nat) (c : Ctl) : Ctl :=
  let p := c.pmcOf k
  if p.val < 2 ^ 48 then c else (c.setPmc k { p with val := p.val % 2 ^ 48, ovf := true }).raiseIf (!p.ovf) 0x050 0

/-- A write of PMC_LO sets all 48 bits with the held HI; a count in the same handshake is discarded, and WCOLL is set when it
would have carried out of bit 47; an overflow that came before the write is recorded first (R456). (DEDUCED: log entry 70.) -/
def pmcWrite (k : Nat) (lo : Word) (hit : Bool) (c : Ctl) : Ctl :=
  if 96 ≤ k then c
  else
    let c := pmcOverflow k c
    let p := c.pmcOf k
    c.setPmc k { p with val := p.hiHeld * 2 ^ 32 + lo.toNat, wcoll := p.wcoll || (hit && p.val == 2 ^ 48 - 1) }

/-- A write of PMC_SEL. -/
def pmcSelWrite (k : Nat) (w : Word) (c : Ctl) : Ctl :=
  c.setPmc k { c.pmcOf k with en := bit w.toNat 31, level := bit w.toNat 8, event := wGet w 7 0, hitAt := none }

/-! ### MSI-X (R466, R490) -/

/-- A vector is armed. -/
def Ctl.armed (c : Ctl) (v : Nat) : Bool :=
  if v < 32 then c.onBit F.EVT_MSIX_REARM_LO_ARMED v else c.onBit F.EVT_MSIX_REARM_HI_ARMED (v - 32)

/-- Arm or disarm a vector. -/
def Ctl.arm (v : Nat) (on : Bool) (c : Ctl) : Ctl :=
  if v < 32 then c.setBit F.EVT_MSIX_REARM_LO_ARMED v on else c.setBit F.EVT_MSIX_REARM_HI_ARMED (v - 32) on

/-- The PBA bit of a vector. -/
def Ctl.pba (c : Ctl) (v : Nat) : Bool :=
  if v < 32 then c.onBit F.HST_MSIX_PBA_LO_PENDING v else c.onBit F.HST_MSIX_PBA_HI_PENDING (v - 32)

/-- Set or clear the PBA bit of a vector. -/
def Ctl.setPba (v : Nat) (on : Bool) (c : Ctl) : Ctl :=
  if v < 32 then c.setBit F.HST_MSIX_PBA_LO_PENDING v on else c.setBit F.HST_MSIX_PBA_HI_PENDING (v - 32) on

/-- Every condition under which a vector's message may be sent: MSI-X Enable, Function Mask 0, the vector unmasked, Bus Master
Enable and D0 (R490), and the link, which the loss of the oscillator stops (R303, R486). -/
def Ctl.msixOpen (c : Ctl) (v : Nat) : Bool :=
  c.on F.HST_STAT_MSIX_EN && !c.on F.HST_STAT_FN_MASK && !bit (c.reg (R.HST_MSIX_CTL v)).toNat 0 && c.on F.HST_STAT_BME &&
    c.get F.HST_STAT_DSTATE == 0 && !c.xoLost

/-- A message is sent. -/
def Ctl.msixSend (v : Nat) (c : Ctl) : Ctl := { c with ev := { c.ev with sent := v :: c.ev.sent } }.occ 0xC0 1

/-- A record routed to the host acts on its vector (R490). -/
def Ctl.msixRecord (v : Nat) (c : Ctl) : Ctl :=
  if !c.armed v || !c.on F.HST_STAT_MSIX_EN then c
  else if c.msixOpen v then (c.msixSend v).arm v false
  else (c.setPba v true).arm v false

/-- A message with its PBA bit set is sent once its conditions hold (R490). -/
def msixPendingSend (v : Nat) (c : Ctl) : Ctl :=
  if v < 64 ∧ c.pba v ∧ c.msixOpen v then (c.msixSend v).setPba v false else c

/-- Vectors are re-armed (R466). -/
def msixRearm (lo hi : Word) (c : Ctl) : Ctl :=
  (c.setReg R.EVT_MSIX_REARM_LO (c.reg R.EVT_MSIX_REARM_LO ||| lo)).setReg R.EVT_MSIX_REARM_HI (c.reg R.EVT_MSIX_REARM_HI ||| hi)

/-- A record in the notify ring notifies the cores and the host as its page's route says (R466). -/
def Ctl.notify (r : EvRec) (c : Ctl) : Ctl :=
  let w := (tget c.ev.route r.page 0).toNat
  if r.cls < bits w 9 8 then c
  else
    let c := (setBits 4 (bits w 19 16)).foldl (fun c n => (c.set (F.EVT_CORE_PEND_PEND n) 1).coreCalled n) c
    if bit w 31 then c.msixRecord (bits w 29 24) else c

/-! ### Records (R462) -/

/-- The 64 bytes of a record (Table 16.4). -/
def EvRec.encode (r : EvRec) : List Byte :=
  beBytes 4 r.seq ++ [BitVec.ofNat 8 (r.typ * 16 + r.cls), BitVec.ofNat 8 r.evBit] ++ beBytes 2 r.page ++ beBytes 6 r.fn ++
  [BitVec.ofNat 8 r.flags, 0] ++ beBytes 12 r.time ++ beBytes 4 r.stat ++ slice r.detail 0 24 ++ beBytes 4 r.seq ++ beBytes 4 r.nseq

/-- A record has entered the log ring, or the log is disabled. -/
def Ctl.logged (c : Ctl) (r : EvRec) : Bool := !c.on F.EVT_LOG_CFG_EN || !c.ev.unlogged.any (fun q => q.seq == r.seq)

/-! ### The notify ring (R463) -/

/-- Records of the notify ring. -/
def Ctl.ringSize (c : Ctl) : Nat := 2 ^ (c.get F.EVT_RING_CFG_SIZE + 7)

/-- Occupancy of the notify ring. -/
def Ctl.ringOcc (c : Ctl) : Nat :=
  (c.get F.EVT_RING_WR_PTR + c.ringSize - c.get F.EVT_RING_RD_PTR % c.ringSize) % c.ringSize

/-- The positions held in the notify ring, from RD on. -/
def Ctl.ringHeld (c : Ctl) : List Nat := (List.range c.ringOcc).map (fun i => (c.get F.EVT_RING_RD_PTR + i) % c.ringSize)

/-- The lowest class below CRIT among the held records. -/
def Ctl.ringLowest (c : Ctl) : Option Nat :=
  [0, 1, 2].find? (fun k => c.ringHeld.any (fun p => match tfind c.ev.held p with | some r => r.cls == k | none => false))

/-- The position of the oldest held record of a class: the one whose NSEQ comes first, wherever it was stored in place (R463). (DEDUCED: log entry 69.) -/
def Ctl.ringOldest (c : Ctl) (cls : Nat) : Option Nat :=
  let of := c.ringHeld.filterMap fun p => match tfind c.ev.held p with
    | some r => if r.cls == cls then some (p, r.nseq) else none
    | none => none
  match of with
  | [] => none
  | q :: t => some (t.foldl (fun a b => if sdiff 32 b.2 a.2 < 0 then b else a) q).1

/-- Where a record goes: a position and whether it overwrites, or nothing when it is dropped. -/
def Ctl.ringPlace (c : Ctl) (r : EvRec) : Option (Nat × Bool) :=
  if r.cls < 3 then
    if c.ringOcc + 65 < c.ringSize then some (c.get F.EVT_RING_WR_PTR, false)
    else (c.ringOldest 0).map (fun p => (p, true))
  else if c.ringOcc + 1 < c.ringSize then some (c.get F.EVT_RING_WR_PTR, false)
  else (c.ringLowest.bind c.ringOldest).map (fun p => (p, true))

/-- A record is stored at a position of the notify ring. -/
def ringStore (r : EvRec) (p : Nat) (ovr : Bool) (s : State) : State :=
  let c := s.ctl
  let r := { r with nseq := c.ev.nseq }
  let c := { c with ev := { c.ev with held := tput c.ev.held p r, nseq := nextSeq c.ev.nseq
                                      unlogged := if c.on F.EVT_LOG_CFG_EN then c.ev.unlogged ++ [r] else c.ev.unlogged } }
  let c := if ovr then (c.count F.EVT_CNT_OVW_COUNT 1).raise 0x051 1 []
    else c.set F.EVT_RING_WR_PTR ((c.get F.EVT_RING_WR_PTR + 1) % c.ringSize)
  ({ s with ctl := c.notify r } : State).eveWrite (c.get F.EVT_RING_CFG_BASE + 64 * p) r.encode

/-- The oldest waiting record is placed (R463): it waits while the record that its position holds has not entered the log, and is
log-only once EN is 0. (DEDUCED: log entry 69.) -/
def notifyRingWrite (s : State) : State :=
  match s.ctl.ev.waiting with
  | [] => s
  | r :: rest =>
    let free := s.mapCtl (fun c => { c with ev := { c.ev with waiting := rest } })
    if !s.ctl.on F.EVT_RING_CFG_EN then
      free.mapCtl fun c => if c.on F.EVT_LOG_CFG_EN then { c with ev := { c.ev with unlogged := c.ev.unlogged ++ [r] } } else c
    else match s.ctl.ringPlace r with
    | none => free.mapCtl (fun c => (c.count F.EVT_CNT_DROP_COUNT 1).raise 0x051 0 [])
    | some (p, ovr) =>
      match tfind s.ctl.ev.held p with
      | some old => if s.ctl.logged old then ringStore r p ovr free else s
      | none => ringStore r p ovr free

/-- Firmware advances RD; an index at or beyond the ring's size is ignored (R463). -/
def notifyRdWrite (ptr : Nat) (c : Ctl) : Ctl := if ptr < c.ringSize then c.set F.EVT_RING_RD_PTR ptr else c

/-- A ring's configuration is legal: BASE is a multiple of its size in bytes, and it ends within the 4 MB of scratchpad
(R143). -/
def ringLegal (base size : Nat) : Bool := base % size == 0 && decide (base + size ≤ 2 ^ 22)

/-- A write of EVT_RING_CFG (R143, R463). (DEDUCED: log entry 69.) -/
def evtRingCfgWrite (w : Word) (c : Ctl) : Ctl :=
  let en := bit w.toNat 31
  if c.on F.EVT_RING_CFG_EN then c.set F.EVT_RING_CFG_EN (b2n en)
  else
    let size := wGet w 26 24
    let base := wGet w 21 0
    let ok := en && ringLegal base (64 * 2 ^ (size + 7))
    let c := c.sets [(F.EVT_RING_CFG_SIZE, size), (F.EVT_RING_CFG_BASE, base), (F.EVT_RING_CFG_EN, b2n ok)]
    if ok then { c.sets [(F.EVT_RING_WR_PTR, 0), (F.EVT_RING_RD_PTR, 0)] with ev := { c.ev with held := [] } } else c

/-! ### The log ring (R464) -/

/-- The record that drains next: the one whose SEQ is first, provided none of an earlier SEQ still waits for the notify
ring. -/
def Ctl.nextLog (c : Ctl) : Option EvRec :=
  match c.ev.unlogged with
  | [] => none
  | r :: t =>
    let first := t.foldl (fun a b => if sdiff 32 b.seq a.seq < 0 then b else a) r
    if c.ev.waiting.any (fun q => decide (sdiff 32 q.seq first.seq < 0)) then none else some first

/-- A record drains into the log ring; a write that returns an error leaves its line, where there is one, poisoned, and the drain continues
(R464). -/
def logDrain (err : Bool) (s : State) : State :=
  match s.ctl.nextLog with
  | none => s
  | some r =>
    let c := s.ctl
    let s := s.mapCtl (fun c => { c with ev := { c.ev with unlogged := c.ev.unlogged.filter (fun q => q.seq != r.seq) } })
    if !c.on F.EVT_LOG_CFG_EN then s
    else
      let size := 2 ^ (min 14 (c.get F.EVT_LOG_CFG_SIZE) + 10)
      let wr := c.get F.EVT_LOG_WR_VALUE % size
      let a := c.get F.EVT_LOG_CFG_BASE * 2 ^ 20 + 64 * wr
      let s := if err && c.ddrOk a 64 then { s with mem := s.mem.poisonLine (a / 64) }.mapCtl
          fun c => (c.ddrAccesses 11 a 64 true).ddrWrote a 64
        else engineWrite 11 a r.encode [] s
      s.mapCtl (fun c => (c.set F.EVT_LOG_WR_VALUE ((wr + 1) % size)).raiseIf (decide ((wr + 1) % size = 0)) 0x051 2)

/-! ### Louvres (R461) -/

/-- The louvre of a source. -/
def Ctl.louvre (c : Ctl) (page evBit : Nat) : Louvre := tget c.ev.louvres (page * 32 + evBit) ⟨(c.louvreCfg page).1, 0, 0, 0, 0, 0⟩

/-- Change the louvre of a source. -/
def Ctl.setLouvre (page evBit : Nat) (l : Louvre) (c : Ctl) : Ctl :=
  { c with ev := { c.ev with louvres := tput c.ev.louvres (page * 32 + evBit) l } }

/-- A louvre that holds a token writes the GAP record of what it has suppressed (R461). -/
def Ctl.gapRecord (page evBit : Nat) (c : Ctl) : Ctl :=
  let l := c.louvre page evBit
  if l.supp = 0 then c
  else
    let d := beBytes 4 l.supp ++ beBytes 6 l.first ++ beBytes 6 l.last
    let c := c.setLouvre page evBit { l with supp := 0, first := 0, last := 0 }
    let r := c.placeRec { c.mkRec 1 (eventClass page evBit) evBit page d with typ := 1 } false
    if r.1 then r.2.raise 0x051 0 [] else r.2

/-- The moment at which a louvre's next token falls due: tokens come every 1/RATE s from its enabling (R461). (DEDUCED, DESIGN CHOICE: log entries 5, 69.) -/
def Ctl.louvreDue (c : Ctl) (page evBit : Nat) : Nat :=
  let l := c.louvre page evBit
  let rate := (c.louvreCfg page).2
  l.since + ((l.given + 1) * secondTicks + rate - 1) / rate

/-- A louvre regains a token, and a GAP record is formed when it has suppressed records. (DEDUCED, DESIGN CHOICE: log entries 5, 44, 69.) -/
def louvreToken (page evBit : Nat) (c : Ctl) : Ctl :=
  let l := c.louvre page evBit
  let due := c.louvreDue page evBit
  if !c.dueBy due then c
  else ((c.advMoment due).setLouvre page evBit
    { l with tokens := min (c.louvreCfg page).1 (l.tokens + 1), given := l.given + 1 }).gapRecord page evBit

/-- The number of a page's events. -/
def pageEvents (page : Nat) : Nat := match pageBlock page with
  | some b => b.classes.length
  | none => 0

/-- Setting an enable bit of a class below CRIT claims RATE on the EVT account, and clearing it releases the claim (R461). (DEDUCED: log entries 44, 69.) -/
def evtEnWrite (page : Nat) (w : Word) (c : Ctl) : Ctl :=
  (List.range (pageEvents page)).foldl (fun c i =>
    let is := bit w.toNat i
    let was := bit (c.reg (R.HDR_EVT_EN page)).toNat i
    let rate := (c.louvreCfg page).2
    let put (on : Bool) (c : Ctl) : Ctl :=
      c.setReg (R.HDR_EVT_EN page) (BitVec.ofNat 32 (putBit (c.reg (R.HDR_EVT_EN page)).toNat i on))
    if is == was then c
    else if eventClass page i = 3 then put is c
    else if is then
      let r := c.claim 4 rate
      if r.1 then ((put true r.2).setLouvre page i
        { c.louvre page i with tokens := (c.louvreCfg page).1, since := c.mtime, given := 0 }).gapRecord page i
      else r.2
    else (put false c).release 4 rate) c

/-- A write of EVT_LV_CFG claims or releases the difference of RATE for every enabled bit of the page; a refused claim leaves it
without effect (R461). (DEDUCED: log entry 44.) -/
def louvreCfgWrite (w : Word) (c : Ctl) : Ctl :=
  let page := c.get F.EVT_ALM_IDX_PAGE
  let on := (List.range (pageEvents page)).filter fun i => bit (c.reg (R.HDR_EVT_EN page)).toNat i && eventClass page i != 3
  let n := on.length
  let put (c : Ctl) : Ctl :=
    let c := { c with ev := { c.ev with lvCfg := tput c.ev.lvCfg page (w &&& 0xFF003FFF) } }
    on.foldl (fun c i => c.setLouvre page i { c.louvre page i with since := c.mtime, given := 0 }) c
  let old := (c.louvreCfg page).2
  let new := ((put c).louvreCfg page).2
  if old < new then
    let r := c.claim 4 ((new - old) * n)
    if r.1 then put r.2 else r.2
  else (put c).release 4 ((old - new) * n)

/-! ### Switch records (R454, R465) -/

/-- A 16-bit saturating count of the switch-count region grows. (DESIGN CHOICE: log entry 67.) -/
def State.swbAdd (fs : List ParityFault) (k n : Nat) (s : State) : State :=
  let base := s.ctl.get F.EVT_SWB_CFG_BASE / 64 * 64
  let a := base + (if 65536 ≤ k then 131072 + 2 * (k - 65536) else 2 * k)
  let r := eveRead fs a 2 s
  r.2.eveWrite a (leBytes 2 (satAdd 16 (leNat r.1) n))

/-- A group's folds count in the bin in which their record is formed: while an earlier bin waits for its copy, they wait with it (R454). (DESIGN CHOICE: log entry 67.) -/
def State.swbCount (fs : List ParityFault) (k n : Nat) (s : State) : State :=
  if !s.ctl.on F.EVT_SWB_CFG_EN then s
  else if s.ctl.swbDue.isEmpty then s.swbAdd fs k n
  else s.mapCtl fun c => { c with swbLate := c.swbLate ++ [((c.pm.cur false).num, k, n)] }

/-- The pending group that the cyclic scan reaches next, lane groups first. -/
def Ctl.nextSwitch (c : Ctl) : Option Nat :=
  let ks := c.ev.swPend.map Prod.fst
  let ks := ks.filter (fun k => decide (65536 ≤ k)) ++ ks.filter (fun k => decide (k < 65536))
  let rank (k : Nat) : Nat := if 65536 ≤ k then k - 65536 else k + 12
  match ks.find? (fun k => decide (c.ev.swScan ≤ rank k)) with
  | some k => some k
  | none => ks.head?

/-- A SWITCH record is formed for a pending group, log-only, with its effective request (R275), and its folds count in the group's bin and in its lane's summary
window, which keeps the earliest and the latest switch. (DEDUCED: log entry 69.) -/
def switchRecordForm (faults : List ParityFault) (s : State) : State :=
  match s.ctl.nextSwitch with
  | none => s
  | some k =>
    let c := s.ctl
    let (fold, first, last, cause) := tget c.ev.swPend k (0, 0, 0, 31)
    let g := tget c.groups k {}
    let lg := decide (65536 ≤ k)
    let d := beBytes 2 (k % 65536) ++ [BitVec.ofNat 8 (b2n lg * 128 + b2n g.sel * 64 + g.effReq g.req), BitVec.ofNat 8 (min 255 fold),
      BitVec.ofNat 8 cause]
    let scan := if lg then k - 65536 + 1 else k + 13
    let c := (c.placeRec { c.mkRec 3 0 0 0x022 d with typ := 3 } true).2
    let up := if g.sel then (fold + 1) / 2 else fold / 2
    let w := tget c.ev.windows cause ⟨0, 0, first, last, c.mtime + 10 * msecTicks⟩
    let w := { w with
      count := w.count + fold, toProt := w.toProt + up
      first := if sdiff 48 first w.first < 0 then first else w.first
      last := if sdiff 48 w.last last < 0 then last else w.last }
    let c := { c with ev := { c.ev with
      swPend := tdel c.ev.swPend k, swScan := scan
      windows := if cause < 24 then tput c.ev.windows cause w else c.ev.windows } }
    { s with ctl := c }.swbCount faults k fold

/-- The SUMMARY record of a lane's window is written to the notify ring 10 ms after its first switch, and the window closes (R465). (DEDUCED, DESIGN CHOICE: log entries 5, 69.) -/
def summaryRecord (lane : Nat) (c : Ctl) : Ctl :=
  match tfind c.ev.windows lane with
  | none => c
  | some w =>
    if !c.dueBy w.till then c else
    let c := c.advMoment w.till
    let d := [BitVec.ofNat 8 lane, 0] ++ beBytes 4 w.count ++ beBytes 4 w.toProt ++ beBytes 6 w.first ++ beBytes 6 w.last
    let c := { c with ev := { c.ev with windows := tdel c.ev.windows lane } }
    let r := c.placeRec { c.mkRec 2 0 0 0x022 d with typ := 2 } false
    if r.1 then r.2.raise 0x051 0 [] else r.2

/-- The folds that waited for a copy count once the region is that of their bin. (DESIGN CHOICE: log entry 67.) -/
def State.swbResume (fs : List ParityFault) (num : Nat) (s : State) : State :=
  let now := s.ctl.swbLate.filter fun q => q.1 == num
  let c : Ctl := { s.ctl with swbLate := s.ctl.swbLate.filter fun q => q.1 != num }
  now.foldl (fun s q => s.swbAdd fs q.2.1 q.2.2) { s with ctl := c }

/-- The region of switch counts is copied into its slot of the LPDDR4X log and zeroed (R454). (DESIGN CHOICE: log entry 67.) -/
def switchBinCopy (faults : List ParityFault) (s : State) : State :=
  match s.ctl.swbDue with
  | [] => s
  | h :: rest =>
    let c := s.ctl
    let s := s.mapCtl (fun c => { c with swbDue := rest })
    if !c.on F.EVT_SWB_CFG_EN then s
    else
      let base := c.get F.EVT_SWB_CFG_BASE / 64 * 64
      let hdr := beBytes 8 h.start ++ beBytes 6 h.fn ++ [BitVec.ofNat 8 (b2n h.untimed * 128 + b2n h.part * 64), 0] ++
        beBytes 4 h.num ++ List.replicate 44 0
      let a := c.get F.EVT_SWB_LOG_BASE * 2 ^ 20 + h.num % 32 * 0x21000
      let r := eveRead faults base 131136 s
      let s := engineWrite 11 a (hdr ++ r.1) faults r.2
      ({ s with mem := { s.mem with spad := s.mem.spad.filter (fun p => decide (p.1 < base ∨ base + 131136 ≤ p.1)) } }.mapCtl
        (fun c => (c.eveAccesses base 131136 true).sets [(F.EVT_SWB_STAT_VALID, 1), (F.EVT_SWB_STAT_BIN, h.num)])).swbResume faults
          (match rest with
            | next :: _ => next.num
            | [] => (c.pm.cur false).num)

/-! ### Event bits (R12) -/

/-- A W1C write of HDR_EVT: a bit whose event recurs in the same handshake stays set, and the new event is not lost. -/
def hdrEvtClear (page : Nat) (mask recur : Word) (c : Ctl) : Ctl :=
  match pageBlock page with
  | none => c
  | some _ =>
    let c := c.setReg (R.HDR_EVT page) (c.reg (R.HDR_EVT page) &&& ~~~mask)
    (setBits (pageEvents page) recur.toNat).foldl (fun c i => c.raise page i []) c

/-! ### The meanings -/

/-- The EVE copies a switch-count bin. -/
def execSwitchBinCopy (faults : List ParityFault) (s : State) : Host.Outcome State Fault Refusal := onState (switchBinCopy faults) s

/-- A write of PMC_LO. -/
def execPmcWrite (k : Nat) (lo : Word) (hit : Bool) (s : State) : Host.Outcome State Fault Refusal := onCtl (pmcWrite k lo hit) s

/-- A write of FREEZE stops or starts every global counter (R457). -/
def execPmcFreeze (on : Bool) (s : State) : Host.Outcome State Fault Refusal :=
  onCtl (Ctl.set F.PMC_GCTL_FREEZE (b2n on)) s

/-- A counter overflows. -/
def execPmcOverflow (k : Nat) (s : State) : Host.Outcome State Fault Refusal := onCtl (pmcOverflow k) s

/-- A record enters the notify ring. -/
def execNotifyRingWrite (s : State) : Host.Outcome State Fault Refusal := onState notifyRingWrite s

/-- A louvre regains a token. -/
def execLouvreToken (page evBit : Nat) (s : State) : Host.Outcome State Fault Refusal := onCtl (louvreToken page evBit) s

/-- A record enters the log ring. -/
def execLogDrain (err : Bool) (s : State) : Host.Outcome State Fault Refusal := onState (logDrain err) s

/-- A SWITCH record is formed. -/
def execSwitchRecordForm (faults : List ParityFault) (s : State) : Host.Outcome State Fault Refusal := onState (switchRecordForm faults) s

/-- A SUMMARY record is formed. -/
def execSummaryRecord (lane : Nat) (s : State) : Host.Outcome State Fault Refusal := onCtl (summaryRecord lane) s

/-- A write of EVT_RING_RD. -/
def execNotifyRdWrite (ptr : Nat) (s : State) : Host.Outcome State Fault Refusal := onCtl (notifyRdWrite ptr) s

/-- A write of EVT_RING_CFG. -/
def execEvtRingCfgWrite (value : Word) (s : State) : Host.Outcome State Fault Refusal := onCtl (evtRingCfgWrite value) s

/-- A write of HDR_EVT_EN. -/
def execEvtEnWrite (page : Nat) (value : Word) (s : State) : Host.Outcome State Fault Refusal := onCtl (evtEnWrite page value) s

/-- A write of EVT_LV_CFG. -/
def execLouvreCfgWrite (value : Word) (s : State) : Host.Outcome State Fault Refusal := onCtl (louvreCfgWrite value) s

/-- A write of EVT_MSIX_REARM. -/
def execMsixRearm (lo hi : Word) (s : State) : Host.Outcome State Fault Refusal := onCtl (msixRearm lo hi) s

/-- A write of HDR_EVT. -/
def execHdrEvtClear (page : Nat) (mask recur : Word) (s : State) : Host.Outcome State Fault Refusal :=
  onCtl (hdrEvtClear page mask recur) s

/-- A pending MSI-X message is sent. -/
def execMsixPendingSend (v : Nat) (s : State) : Host.Outcome State Fault Refusal := onCtl (msixPendingSend v) s

end Sys2Proof.Machine
end

