-- ==== Sys2Proof/Machine/Matrix.lean ====
section
/-! DEFINITION. Cores, memories, matrix and mailboxes (R416 to R446): core timers, casement windows, starvations, the DMA engines, the
LPDDR4X controller and the mailbox channels; and the software claims on the ledger. -/

namespace Sys2Proof.Machine

/-! ### Core timers (R418, R419) -/

/-- CPX_MTIME reaches a core's MTIMECMP. (DESIGN CHOICE: log entry 65.) -/
def coreTimerInterrupt (n tick : Nat) (c : Ctl) : Ctl :=
  let c := c.advTo tick
  if n < 4 ∧ c.timerPending n then c.coreCalled n else c

/-! ### Scratchpad (R426, R427) -/

/-- A write of SPM_CASE_CFG_w. -/
def caseCfgWrite (w : Nat) (value : Word) (c : Ctl) : Ctl :=
  if 16 ≤ w then c
  else
    let en := bit value.toNat 31
    if c.on (F.SPM_CASE_CFG_EN w) then c.set (F.SPM_CASE_CFG_EN w) (b2n en)
    else
      let size := wGet value 26 16
      let base := wGet value 15 0
      let legal := decide (1 ≤ size ∧ size ≤ 1024 ∧ base * 64 + size * 64 ≤ 0x400000)
      c.sets [(F.SPM_CASE_CFG_SIZE w, size), (F.SPM_CASE_CFG_BASE w, base), (F.SPM_CASE_CFG_EN w, b2n (en && legal))]

/-- A DMA-type access has waited at a bank; a wait longer than LIMIT is a starvation (R426, Table 16.3). (DEDUCED, DESIGN CHOICE: log entries 15, 66.) -/
def dmaStarve (m bank wait tick : Nat) (c : Ctl) : Ctl :=
  let c := c.advTo tick
  if 12 ≤ m ∨ 16 ≤ bank then c
  else
    let c := c.when (decide (0 < wait)) (Ctl.condHeld (0x20 + bank) (wait * msecTicks / 1000))
    if wait ≤ max 1 (c.get F.SPM_STARVE_CFG_LIMIT) then c else
    let c := (c.count (F.SPM_STARVE_CNT_COUNT bank) 1).sets [(F.SPM_STARVE_LAST_VALID, 1), (F.SPM_STARVE_LAST_MASTER, m),
      (F.SPM_STARVE_LAST_BANK, bank), (F.SPM_STARVE_LAST_WAIT, min 65535 wait)]
    { c with starvedAt := some c.mtime }.raise 0x049 0 []

/-- 1 s has passed since the last starvation. (DEDUCED: log entry 66.) -/
def starvationWindowLapse (tick : Nat) (c : Ctl) : Ctl :=
  let c := c.advTo tick
  match c.starvedAt with
  | some t => if secondTicks ≤ c.mtime - t then { c with starvedAt := none } else c
  | none => c

/-! ### Refused register writes (R480, R530) -/

/-- A write to a register page that is refused with a CAUSE. -/
def Ctl.regRefused (m a cause : Nat) (c : Ctl) : Ctl := c.dtError m (0x20000000 + a) 4 true cause

/-- A register command of a master: the register pages accept cores and the host only. -/
def Ctl.regBy (m a : Nat) (f : Ctl → Ctl) (c : Ctl) : Ctl := if 4 < m then c.regRefused m a 3 else f c

/-! ### DMA engines (R430, R431) -/

/-- The copy ends with a RESULT, its bytes in DONE. -/
def Ctl.dmaEnded (k result done : Nat) (c : Ctl) : Ctl :=
  (c.sets [(F.DMA_STAT_BUSY k, 0), (F.DMA_STAT_RESULT k, result), (F.DMA_DONE_VALUE k, done)]).raise 0x04B
    (if result = 1 then 1 + k else 3 + k) []

/-- GO: a copy starts, or is refused with RESULT 2. (DEDUCED: log entry 61.) -/
def dmaGo (m k : Nat) (c : Ctl) : Ctl := c.regBy m (R.DMA_CTL k) fun c =>
  if 2 ≤ k then c
  else if c.on (F.DMA_STAT_BUSY k) then c.regRefused m (R.DMA_CTL k) 1
  else
    let len := c.get (F.DMA_LEN_VALUE k)
    let src := c.get (F.DMA_SRC_VALUE k)
    let dst := c.get (F.DMA_DST_VALUE k)
    if len = 0 ∨ 16777216 < len ∨ (src < dst + len ∧ dst < src + len) then c.dmaEnded k 2 0
    else c.sets [(F.DMA_STAT_BUSY k, 1), (F.DMA_STAT_RESULT k, 0), (F.DMA_DONE_VALUE k, 0)]

/-- A copy of `n` bytes by DMA_k, from byte `done`: how many bytes are written, and whether no access failed. The fuel is the number of
bytes. (DEDUCED, DESIGN CHOICE: log entries 15, 61.) -/
def dmaCopy (k src dst : Nat) (fs : List ParityFault) : Nat → Nat → Nat → State → (Nat × Bool) × State
  | 0, _, done, s => ((done, true), s)
  | f + 1, n, done, s =>
    if n = 0 then ((done, true), s)
    else
      let z := pieceSize (src + done) (dst + done) n
      match (s.mapCtl (Ctl.occ (0x9C + k) 1)).engRead true (5 + k) (src + done) z fs with
      | (none, s) => ((done, false), s)
      | (some v, s) =>
        match (s.mapCtl (Ctl.occ (0x9C + k) 1)).engWrite (5 + k) (dst + done) z v fs with
        | (none, s) => ((done, false), s)
        | (some _, s) => dmaCopy k src dst fs f (n - z) (done + z) s

/-- The copy in progress is made as far as `n` bytes, and ends. (DEDUCED, DESIGN CHOICE: log entries 15, 61.) -/
def State.dmaFinish (k n result : Nat) (fs : List ParityFault) (s : State) : State :=
  if 2 ≤ k || !s.ctl.on (F.DMA_STAT_BUSY k) then s
  else
    let n := min n (s.ctl.get (F.DMA_LEN_VALUE k))
    let r := dmaCopy k (s.ctl.get (F.DMA_SRC_VALUE k)) (s.ctl.get (F.DMA_DST_VALUE k)) fs n n 0 s
    r.2.mapCtl (Ctl.dmaEnded k (if r.1.2 then result else 3) r.1.1)

/-- ABORT ends the copy. (DEDUCED: log entry 61.) -/
def dmaAbort (k done : Nat) (fs : List ParityFault) (s : State) : State := s.dmaFinish k done 4 fs

/-- The copy ends by itself. (DEDUCED: log entry 61.) -/
def dmaEnd (k : Nat) (fs : List ParityFault) (s : State) : State := s.dmaFinish k 16777216 1 fs

/-! ### LPDDR4X controller (R432) -/

/-- The memory is ready, or its capacity is neither 4 GB nor 8 GB. (DESIGN CHOICE: log entry 63.) -/
def memReady (cap : Nat) (c : Ctl) : Ctl :=
  if c.on F.MEM_STAT_READY || c.on F.MEM_STAT_CAP_BAD then c
  else if cap = 1 ∨ cap = 2 then c.sets [(F.MEM_STAT_CAP, cap), (F.MEM_STAT_READY, 1)]
  else (c.set F.MEM_STAT_CAP_BAD 1).raise 0x04C 3 []

/-- MR4 reports a refresh rate. PRESUMED (JESD209-4): code 3 is the nominal rate. (PRESUMED: log entry 9.) -/
def mr4Update (rate : Nat) (c : Ctl) : Ctl :=
  if !c.on F.MEM_STAT_READY then c
  else (c.set F.MEM_STAT_MR4_RATE rate).raiseIf (decide (3 < rate % 8)) 0x04C 2

/-- A 1 written to MTX_DT_CLR. -/
def dtClear (c : Ctl) : Ctl :=
  c.zero [R.MTX_DT_FIRST_ADDR, R.MTX_DT_FIRST_INFO, R.MTX_DT_LAST_ADDR, R.MTX_DT_LAST_INFO, R.MTX_DT_CNT]

/-! ### Mailboxes (R437 to R440) -/

/-- A binding is valid. -/
def Ctl.mbxBound (c : Ctl) (i : Nat) : Bool :=
  let a := c.get (F.MBX_BIND_A i)
  let b := c.get (F.MBX_BIND_B i)
  c.on (F.MBX_BIND_EN i) && decide (a ≤ 4 ∧ b ≤ 4 ∧ a ≠ b)

/-- A channel. -/
def Ctl.mbxCh (c : Ctl) (i : Nat) : Mailbox := tget c.mbx i {}

/-- Why an access of a master to a channel is refused, or none. (DEDUCED: log entry 64.) -/
def Ctl.mbxRefusal (c : Ctl) (m i : Nat) : Option Nat :=
  if 32 ≤ i then some 0
  else if !c.mbxBound i then some 1
  else if m ≠ c.get (F.MBX_BIND_A i) ∧ m ≠ c.get (F.MBX_BIND_B i) then some 3 else none

/-- A master is endpoint A of a channel: slot 0 is its outbound slot. -/
def Ctl.mbxIsA (c : Ctl) (m i : Nat) : Bool := m == c.get (F.MBX_BIND_A i)

/-- Both slots are FULL (R440). -/
def Mailbox.crossed (b : Mailbox) : Bool := b.full0 && b.full1

/-- CLR_ACK of a sender. -/
def Mailbox.clrAck (isA : Bool) (b : Mailbox) : Mailbox := if isA then { b with ack0 := false } else { b with ack1 := false }

/-- TAKE of a receiver. (DEDUCED: log entry 64.) -/
def Mailbox.take (isA : Bool) (b : Mailbox) : Mailbox :=
  if isA then (if b.full1 then { b with full1 := false, ack1 := true } else b)
  else if b.full0 then { b with full0 := false, ack0 := true } else b

/-- The outbound slot of an endpoint is FULL. -/
def Mailbox.outFull (isA : Bool) (b : Mailbox) : Bool := if isA then b.full0 else b.full1

/-- The inbound slot of an endpoint is FULL. -/
def Mailbox.inFull (isA : Bool) (b : Mailbox) : Bool := b.outFull (!isA)

/-- The outbound ACK of an endpoint. -/
def Mailbox.outAck (isA : Bool) (b : Mailbox) : Bool := if isA then b.ack0 else b.ack1

/-- SEND of a sender whose slot is empty. (DEDUCED: log entry 64.) -/
def Mailbox.send (isA : Bool) (b : Mailbox) : Mailbox :=
  if isA then { b with full0 := true, ack0 := false } else { b with full1 := true, ack1 := false }

/-- A write of MBX_CH_c: CLR_ACK, TAKE and SEND act in that order, and CROSSED is judged on the result (Table 15.2, R440). (DEDUCED: log entry 64.) -/
def mbxChWrite (m i : Nat) (clr take send : Bool) (c : Ctl) : Ctl := c.regBy m (R.MBX_CH i) fun c =>
  match c.mbxRefusal m i with
  | some cause => c.regRefused m (R.MBX_CH i) cause
  | none =>
    let isA := c.mbxIsA m i
    let old := c.mbxCh i
    let b := if clr then old.clrAck isA else old
    let b := if take then b.take isA else b
    let full := send && b.outFull isA
    let b := if send && !full then b.send isA else b
    let c := { c with mbx := tput c.mbx i b }.raiseIf (b.crossed && !old.crossed) 0x04A 0
    if full then c.regRefused m (R.MBX_CH i) 1 else c.answers 0

/-- A write of MBX_DATA_c_w (R438). -/
def mbxDataWrite (m i w : Nat) (value : Word) (c : Ctl) : Ctl := c.regBy m (R.MBX_DATA i w) fun c =>
  if 16 ≤ w then c.regRefused m (R.MBX_DATA i w) 0
  else match c.mbxRefusal m i with
    | some cause => c.regRefused m (R.MBX_DATA i w) cause
    | none =>
      let isA := c.mbxIsA m i
      let b := c.mbxCh i
      if b.outFull isA then c.regRefused m (R.MBX_DATA i w) 1
      else { c with mbx := tput c.mbx i { b with words := tputD b.words ((if isA then 0 else 16) + w) value 0 } }.answers 0

/-- What an endpoint reads at MBX_CH_c. -/
def Ctl.mbxView (c : Ctl) (m i : Nat) : Nat :=
  let isA := c.mbxIsA m i
  let b := c.mbxCh i
  b2n (b.outFull isA) * 2 ^ 31 + b2n (b.outAck isA) * 2 ^ 30 + b2n (b.inFull isA) * 2 ^ 29 + b2n b.crossed * 2 ^ 28 +
    (if isA then c.get (F.MBX_BIND_B i) else c.get (F.MBX_BIND_A i)) * 2 ^ 24

/-- What an endpoint reads at MBX_DATA_c_w: a word of its inbound slot. -/
def Ctl.mbxWord (c : Ctl) (m i w : Nat) : Nat := (tget (c.mbxCh i).words ((if c.mbxIsA m i then 16 else 0) + w) 0).toNat

/-- MBX_INBOX as a master reads it. -/
def Ctl.mbxInbox (c : Ctl) (m : Nat) : Nat :=
  maskOf 32 fun i => (c.mbxRefusal m i).isNone && (c.mbxCh i).inFull (c.mbxIsA m i)

/-- MBX_CROSSED. -/
def Ctl.mbxCrossed (c : Ctl) : Nat := maskOf 32 fun i => c.mbxBound i && (c.mbxCh i).crossed

/-! ### The commands -/

/-- CORE_TIMER_INTERRUPT. -/
def execCoreTimerInterrupt (n tick : Nat) (s : State) : Host.Outcome State Fault Refusal := onTimed (coreTimerInterrupt n tick) s

/-- DMA_STARVE. -/
def execDmaStarve (m bank wait tick : Nat) (s : State) : Host.Outcome State Fault Refusal := onCtl (dmaStarve m bank wait tick) s

/-- STARVATION_WINDOW_LAPSE. -/
def execStarvationWindowLapse (tick : Nat) (s : State) : Host.Outcome State Fault Refusal := onTimed (starvationWindowLapse tick) s

/-- CASE_CFG_WRITE. -/
def execCaseCfgWrite (w : Nat) (value : Word) (s : State) : Host.Outcome State Fault Refusal := onCtl (caseCfgWrite w value) s

/-- DMA_GO. -/
def execDmaGo (m k : Nat) (s : State) : Host.Outcome State Fault Refusal := 
  onState (asAccess m (0x20000000 + R.DMA_CTL k) 4 true (State.mapCtl (dmaGo m k))) s

/-- DMA_ABORT. -/
def execDmaAbort (k done : Nat) (faults : List ParityFault) (s : State) : Host.Outcome State Fault Refusal := onState (dmaAbort k done faults) s

/-- DMA_END. -/
def execDmaEnd (k : Nat) (faults : List ParityFault) (s : State) : Host.Outcome State Fault Refusal := onState (dmaEnd k faults) s

/-- MEM_READY. -/
def execMemReady (cap : Nat) (s : State) : Host.Outcome State Fault Refusal := onTimed (memReady cap) s

/-- MR4_UPDATE. -/
def execMr4Update (rate : Nat) (s : State) : Host.Outcome State Fault Refusal := onTimed (mr4Update rate) s

/-- MBX_SEND. -/
def execMbxSend (m c : Nat) (s : State) : Host.Outcome State Fault Refusal := 
  onState (asAccess m (0x20000000 + R.MBX_CH c) 4 true (State.mapCtl (mbxChWrite m c false false true))) s

/-- MBX_TAKE. -/
def execMbxTake (m c : Nat) (s : State) : Host.Outcome State Fault Refusal := 
  onState (asAccess m (0x20000000 + R.MBX_CH c) 4 true (State.mapCtl (mbxChWrite m c false true false))) s

/-- MBX_CLR_ACK. -/
def execMbxClrAck (m c : Nat) (s : State) : Host.Outcome State Fault Refusal := 
  onState (asAccess m (0x20000000 + R.MBX_CH c) 4 true (State.mapCtl (mbxChWrite m c true false false))) s

/-- MBX_DATA_WRITE. -/
def execMbxDataWrite (m c w : Nat) (value : Word) (s : State) : Host.Outcome State Fault Refusal := 
  onState (asAccess m (0x20000000 + R.MBX_DATA c w) 4 true (State.mapCtl (mbxDataWrite m c w value))) s

/-- DT_CLEAR. -/
def execDtClear (s : State) : Host.Outcome State Fault Refusal := onCtl dtClear s

/-- LEDGER_CLAIM. -/
def execLedgerClaim (acct amount : Nat) (s : State) : Host.Outcome State Fault Refusal := onCtl (ledgerClaim acct amount) s

/-- LEDGER_RELEASE. -/
def execLedgerRelease (acct amount : Nat) (s : State) : Host.Outcome State Fault Refusal := onCtl (ledgerRelease acct amount) s

end Sys2Proof.Machine
end

