-- ==== Sys2Proof/Machine/HostPer.lean ====
section
/-! DEFINITION. The PCI Express link and configuration space (R484, R485, R490 to R492) and the peripherals: UARTs, I²C masters, the QSPI
port and GPIO (R493 to R496). -/

namespace Sys2Proof.Machine

/-! ### The link (R485, R492) -/

/-- The link is taken down: HST_STAT reads 0, the bits of configuration space that it shows among them, and the base addresses are 0. (PRESUMED: log entry 74.) -/
def Ctl.linkZero (c : Ctl) : Ctl := { c with bar0 := 0, bar2 := 0 }.zero [R.HST_STAT]

/-- A write of HST_CTL.LINK_EN. (PRESUMED: log entry 74.) -/
def linkEnWrite (on : Bool) (c : Ctl) : Ctl := (c.set F.HST_CTL_LINK_EN (b2n on)).when (!on) Ctl.linkZero

/-- The link reaches L0: configuration space takes HST_SUBSYS as it stands (Table 17.2). -/
def linkUp (speed width : Nat) (c : Ctl) : Ctl :=
  if c.on F.HST_CTL_LINK_EN && !c.perstLow && !c.on F.HST_STAT_LINK_UP && decide (1 ≤ speed ∧ speed ≤ 4 ∧ 1 ≤ width ∧ width ≤ 2) then
    let c : Ctl := { c with subsys := c.reg R.HST_SUBSYS }.sets [(F.HST_STAT_LINK_UP, 1), (F.HST_STAT_SPEED, speed), (F.HST_STAT_WIDTH, width)]
    c.raise 0x008 0 []
  else c

/-- The link leaves L0 while it is enabled. (PRESUMED: log entry 74.) -/
def linkDown (c : Ctl) : Ctl :=
  if c.on F.HST_CTL_LINK_EN && !c.perstLow && c.on F.HST_STAT_LINK_UP then (c.linkZero).raise 0x008 1 [] else c

/-- The header of configuration space at a dword offset, as far as Table 17.2 gives it: identity, revision and class, header type, BARs,
subsystem, the first capability and the interrupt pin. The places of these items are those of PCI Express Base 4.0. (PRESUMED: log entry 74.) -/
def Ctl.configHeader (c : Ctl) (o : Nat) : Option Nat :=
  match o with
  | 0x00 => some 0x24301F4E
  | 0x08 => some 0x028000B1
  | 0x0C => some 0x00000000
  | 0x10 => some c.bar0
  | 0x14 => some 0
  | 0x18 => some (c.bar2 % 2 ^ 32 + 4)
  | 0x1C => some (c.bar2 / 2 ^ 32)
  | 0x20 => some 0
  | 0x24 => some 0
  | 0x2C => some (wGet c.subsys 15 0 * 2 ^ 16 + wGet c.subsys 31 16)
  | 0x30 => some 0
  | 0x34 => some 0x40
  | 0x3C => some 0
  | _ => none

/-- The capabilities of Table 17.2 at a dword offset: Power Management at 0x40 (D0 and D3hot, no PME, No_Soft_Reset), PCI Express at 0x70
(an endpoint; 256 bytes of payload; 16.0 GT/s and two lanes without ASPM, and the link as it stands), MSI-X at 0xB0 (64 vectors, and where its
tables lie), Advanced Error Reporting at 0x100 and the Device Serial Number at 0x140. Their offsets and the places of their fields are not in
the spec. (PRESUMED: log entry 74.) -/
def Ctl.configCap (c : Ctl) (o : Nat) : Option Nat :=
  match o with
  | 0x40 => some 0x00037001
  | 0x44 => some (2 ^ 3 + c.get F.HST_STAT_DSTATE)
  | 0x70 => some 0x0002B010
  | 0x74 => some 1
  | 0x7C => some (2 * 16 + 4)
  | 0x80 => some ((c.get F.HST_STAT_WIDTH * 16 + c.get F.HST_STAT_SPEED) * 2 ^ 16)
  | 0xB0 => some ((b2n (c.on F.HST_STAT_MSIX_EN) * 2 ^ 15 + b2n (c.on F.HST_STAT_FN_MASK) * 2 ^ 14 + 63) * 2 ^ 16 + 0x0011)
  | 0xB4 => some 0x00008800
  | 0xB8 => some 0x00008C00
  | 0x100 => some 0x14010001
  | 0x104 => some c.aerStatus
  | 0x140 => some 0x00010003
  | 0x144 => some Config.devid
  | 0x148 => some 0x1F4E2430
  | _ => none

/-- Configuration space at a dword offset, as far as Table 17.2 gives it; no row reads it. (PRESUMED: log entry 74.) -/
def Ctl.configWord (c : Ctl) (o : Nat) : Option Nat := if o < 0x40 then c.configHeader o else c.configCap o

/-- Every vector whose conditions have come to hold sends its pending message (R490). -/
def Ctl.msixSendAll (c : Ctl) : Ctl := (List.range 64).foldl (fun c v => msixPendingSend v c) c

/-- The function enters D3hot or returns to D0 (R491). -/
def powerStateChange (d3 : Bool) (c : Ctl) : Ctl :=
  if c.on F.HST_STAT_LINK_UP then (c.set F.HST_STAT_DSTATE (if d3 then 3 else 0)).msixSendAll else c

/-- A dword is written to a base address register: BAR0 takes the address of 16 MB, BAR2 and BAR3 that of 512 MB (Table 17.2). A 1 written to
the error status clears its bit. (PRESUMED: log entry 74.) -/
def Ctl.barWrite (c : Ctl) (q : Nat × Word) : Ctl :=
  if q.1 = 0x10 then { c with bar0 := putBits 0 31 24 (wGet q.2 31 24) }
  else if q.1 = 0x18 then { c with bar2 := putBits c.bar2 31 29 (wGet q.2 31 29) }
  else if q.1 = 0x1C then { c with bar2 := putBits c.bar2 63 32 q.2.toNat }
  else if q.1 = 0x104 then { c with aerStatus := putBit c.aerStatus 15 (bit c.aerStatus 15 && !bit q.2.toNat 15) }
  else c

/-- A configuration write of MSI-X Enable, Function Mask, Bus Master Enable and Memory Space Enable (R490), of base addresses and of
the error status. -/
def configWriteRequest (msixEn fnMask bme mse : Bool) (bars : List (Nat × Word)) (c : Ctl) : Ctl :=
  if c.on F.HST_STAT_LINK_UP then
    ((bars.foldl Ctl.barWrite c).sets [(F.HST_STAT_MSIX_EN, b2n msixEn), (F.HST_STAT_FN_MASK, b2n fnMask), (F.HST_STAT_BME, b2n bme), (F.HST_STAT_MSE, b2n mse)]).msixSendAll
  else c

/-! ### UARTs (R493) -/

/-- A UART. -/
def Ctl.uartOf (c : Ctl) (u : Nat) : Uart := tget c.uart u {}

/-- Change a UART. -/
def Ctl.setUart (u : Nat) (t : Uart) (c : Ctl) : Ctl := { c with uart := tput c.uart u t }

/-- One of the four error bits is set, and UART_ERR raised. -/
def Ctl.uartErr (f : Fld) (c : Ctl) : Ctl := (c.set f 1).raise 0x058 0 []

/-- DIV as taken: the rate is 655,360,000 / DIV baud. -/
def Ctl.uartDiv (c : Ctl) (u : Nat) : Nat := max 164 (c.get (F.PER_UART_CTL_DIV u))

/-- The frame of a byte on UART_TX_u: a start bit, the 8 data bits from the lowest, the parity bit if any, and the stop bits. (PRESUMED: log entry 75.) -/
def Ctl.uartFrame (c : Ctl) (u : Nat) (b : Byte) : List Bool :=
  let data := (List.range 8).map fun i => bit b.toNat i
  let odd := popCount 8 b.toNat % 2 == 1
  let par := match c.get (F.PER_UART_CTL_PARITY u) with
    | 1 => [odd]
    | 2 => [!odd]
    | _ => []
  [false] ++ data ++ par ++ List.replicate (1 + c.get (F.PER_UART_CTL_STOP2 u)) true

/-- The ticks of a byte's frame, rounded up. (PRESUMED: log entry 75.) -/
def Ctl.uartTicks (c : Ctl) (u : Nat) (b : Byte) : Nat := ((c.uartFrame u b).length * c.uartDiv u * 10 + 31) / 32

/-- The transmitter takes a byte, or has none. -/
def Ctl.uartSend (u : Nat) (b : Option Byte) (rest : List Byte) (c : Ctl) : Ctl :=
  let ticks := match b with
    | some b => c.uartTicks u b
    | none => 0
  c.setUart u { c.uartOf u with sending := b, tx := rest, endAt := c.mtime + ticks }

/-- A byte is queued for transmission: an idle transmitter takes it at once. (PRESUMED: log entry 75.) -/
def uartDataWrite (u : Nat) (b : Byte) (c : Ctl) : Ctl :=
  if 2 ≤ u || !c.on (F.PER_UART_CTL_EN u) then c
  else
    let t := c.uartOf u
    if t.sending.isNone then c.uartSend u (some b) t.tx
    else if t.tx.length < 64 then c.setUart u { t with tx := t.tx ++ [b] }
    else c.uartErr (F.PER_UART_STAT_TX_OVF u)

/-- The transmitter has sent its byte and takes the next. (DESIGN CHOICE, PRESUMED: log entries 5, 75.) -/
def uartByteTransmit (u : Nat) (c : Ctl) : Ctl :=
  let t := c.uartOf u
  if t.sending.isNone || !c.dueBy t.endAt then c else (c.advMoment t.endAt).uartSend u t.tx.head? (t.tx.drop 1)

/-- A read removes the oldest received byte. -/
def uartDataRead (u : Nat) (c : Ctl) : Ctl :=
  if 2 ≤ u then c
  else
    let t := c.uartOf u
    match t.rx with
    | [] => c.answers 0
    | b :: rest => (c.setUart u { t with rx := rest }).answers (2 ^ 31 + b.toNat)

/-- A byte arrives: with a framing or parity error, or with the FIFO full, it is discarded. (PRESUMED: log entry 75.) -/
def uartByteReceive (u : Nat) (b : Byte) (ferr perr : Bool) (c : Ctl) : Ctl :=
  if 2 ≤ u || !c.on (F.PER_UART_CTL_EN u) then c
  else
    let par := c.get (F.PER_UART_CTL_PARITY u)
    let perr := perr && decide (par = 1 ∨ par = 2)
    let t := c.uartOf u
    if ferr || perr then
      (c.when ferr (Ctl.uartErr (F.PER_UART_STAT_FERR u))).when perr (Ctl.uartErr (F.PER_UART_STAT_PERR u))
    else if t.rx.length < 64 then c.setUart u { t with rx := t.rx ++ [b] }
    else c.uartErr (F.PER_UART_STAT_RX_OVF u)

/-- While EN is 0 both FIFOs are empty and the output is held high. -/
def Ctl.uartHeld (u : Nat) (c : Ctl) : Ctl := if c.on (F.PER_UART_CTL_EN u) then c else c.setUart u {}

/-! ### Bytes in data words -/

/-- Byte `j` of a run of data words, byte 4w in [31:24]. -/
def Ctl.putDataByte (reg : Nat → Nat) (j : Nat) (b : Byte) (c : Ctl) : Ctl :=
  let hi := 31 - 8 * (j % 4)
  c.setReg (reg (j / 4)) (wPut (c.reg (reg (j / 4))) hi (hi - 7) b.toNat)

/-- Bytes from byte 0 of a run of data words. -/
def Ctl.putDataBytes (reg : Nat → Nat) (l : List Byte) (c : Ctl) : Ctl :=
  (l.foldl (fun (q : Nat × Ctl) b => (q.1 + 1, q.2.putDataByte reg q.1 b)) (0, c)).2

/-! ### I²C (R494) -/

/-- The speed of an I²C bus in kHz. -/
def Ctl.i2cSpeed (c : Ctl) (i : Nat) : Nat := match c.get (F.PER_I2C_CTL_SPEED i) with
  | 1 => 400
  | 2 => 1000
  | _ => 100

/-- What a transaction sends, as far as its target acknowledges it: the address with write and the bytes of DATA, and the address with
read. (DEDUCED: log entry 76.) -/
def Ctl.i2cSent (c : Ctl) (i : Nat) (value : Word) : List Byte :=
  let a := wGet value 22 16
  let wlen := wGet value 4 0
  let rlen := wGet value 12 8
  let data := ((List.range 4).flatMap fun w => beBytes 4 (c.reg (R.PER_I2C_DATA i w)).toNat).take wlen
  (if wlen ≠ 0 ∨ rlen = 0 then BitVec.ofNat 8 (2 * a) :: data else []) ++ (if rlen ≠ 0 then [BitVec.ofNat 8 (2 * a + 1)] else [])

/-- CMD.GO: a transaction starts, or ends at once with RESULT 7. (DEDUCED: log entry 76.) -/
def i2cGo (i : Nat) (value : Word) (c : Ctl) : Ctl :=
  if 4 ≤ i || !bit value.toNat 31 || c.on (F.PER_I2C_STAT_BUSY i) then c
  else if !c.on (F.PER_I2C_CTL_EN i) || decide (16 < wGet value 12 8 ∨ 16 < wGet value 4 0) then
    (c.sets [(F.PER_I2C_STAT_RESULT i, 7), (F.PER_I2C_STAT_ACKED i, 0)]).raise 0x058 2 []
  else { c with i2c := tput c.i2c i value }.sets [(F.PER_I2C_STAT_BUSY i, 1), (F.PER_I2C_STAT_RESULT i, 0), (F.PER_I2C_STAT_ACKED i, 0)]

/-- A transaction ends with its RESULT, the bytes acknowledged and the bytes read. (DEDUCED: log entry 76.) -/
def i2cDone (i result acked : Nat) (data : List Byte) (c : Ctl) : Ctl :=
  match tfind c.i2c i with
  | none => c
  | some v =>
    if result < 1 ∨ 6 < result then c
    else
      let rlen := wGet v 12 8
      let acked := if result = 1 then wGet v 4 0 else min acked (wGet v 4 0)
      let got := if result = 1 then slice data 0 rlen else data.take rlen
      let c : Ctl := { c with i2c := tdel c.i2c i }
      ((c.putDataBytes (R.PER_I2C_DATA i) got).sets [(F.PER_I2C_STAT_BUSY i, 0), (F.PER_I2C_STAT_RESULT i, result),
        (F.PER_I2C_STAT_ACKED i, acked)]).raise 0x058 (if result = 1 then 1 else 2) []

/-! ### QSPI (R495) -/

/-- The clock of the QSPI port in kHz. -/
def Ctl.qspiClock (c : Ctl) : Nat := 102400 / 2 ^ c.get F.PER_QSPI_CTL_CLK

/-- What a command sends: the opcode, the low ABYTES bytes of the address, and for a write LEN bytes of DATA. (DEDUCED: log entry 76.) -/
def Ctl.qspiSent (c : Ctl) (value : Word) : List Byte :=
  let n := match wGet value 27 26 with
    | 1 => 3
    | 2 => 4
    | _ => 0
  let data := ((List.range 64).flatMap fun w => beBytes 4 (c.reg (R.PER_QSPI_DATA w)).toNat).take (wGet value 16 8)
  BitVec.ofNat 8 (wGet value 7 0) :: beBytes n (c.reg R.PER_QSPI_ADDR).toNat ++ (if bit value.toNat 30 then data else [])

/-! ### AVSBus (R497) -/

/-- The clock of the AVSBus port in kHz. -/
def Ctl.avsClock (c : Ctl) : Nat := match c.get F.PER_AVS_CTL_CLK with
  | 0 => 5120
  | 2 => 20480
  | _ => 10240

/-- CMD.GO: a command runs, or is refused with RESULT 2. Until PHASE reaches 5 the boot ROM drives the port. (DEDUCED: log entry 76.) -/
def qspiGo (value : Word) (c : Ctl) : Ctl :=
  if !bit value.toNat 31 || c.on F.PER_QSPI_STAT_BUSY || c.get F.TOP_BOOT_STAT_PHASE != 5 then c
  else if wGet value 29 28 = 3 ∨ wGet value 27 26 = 3 ∨ 256 < wGet value 16 8 then c.set F.PER_QSPI_STAT_RESULT 2
  else { c with qspi := some value }.sets [(F.PER_QSPI_STAT_BUSY, 1), (F.PER_QSPI_STAT_RESULT, 0)]

/-- A command ends. (DEDUCED: log entry 76.) -/
def qspiDone (data : List Byte) (c : Ctl) : Ctl :=
  match c.qspi with
  | none => c
  | some v =>
    let got := if bit v.toNat 30 then [] else slice data 0 (wGet v 16 8)
    let c : Ctl := { c with qspi := none }
    ((c.putDataBytes R.PER_QSPI_DATA got).sets [(F.PER_QSPI_STAT_BUSY, 0), (F.PER_QSPI_STAT_RESULT, 1)]).raise 0x058 3 []

/-! ### GPIO (R496) -/

/-- The levels at the GPIO balls: OUT where OE is 1, and otherwise what the outside drives. -/
def Ctl.gpioLevels (c : Ctl) : Nat :=
  maskOf 16 fun n => if c.onBit F.PER_GPIO_OUT_OE n then c.onBit F.PER_GPIO_OUT_OUT n else bit c.gpioIn n

/-- Levels have changed since a state: each change seen on an enabled pin sets SEEN and raises GPIO_EDGE. (DEDUCED: log entry 77.) -/
def Ctl.gpioSeen (old : Nat) (c : Ctl) : Ctl :=
  let new := c.gpioLevels
  ((List.range 16).filter fun n => bit old n != bit new n && c.onBit F.PER_GPIO_EDGE_EN n).foldl
    (fun c n => (c.setBit F.PER_GPIO_EDGE_SEEN n true).raise 0x058 4 []) c

/-- The outside drives another level on a pin; the sampling sees it while system timing runs. (DEDUCED: log entry 77.) -/
def gpioChange (n : Nat) (high : Bool) (c : Ctl) : Ctl :=
  let old := c.gpioLevels
  let now : Ctl := { c with gpioIn := putBit c.gpioIn n high }
  if 16 ≤ n then c else if c.timed then now.gpioSeen old else now

/-- A write of OE and OUT. -/
def gpioOutWrite (value : Word) (c : Ctl) : Ctl := (c.setReg R.PER_GPIO_OUT value).gpioSeen c.gpioLevels

/-! ### The meanings -/

/-- LINK_EN_WRITE. -/
def execLinkEnWrite (on : Bool) (s : State) : Host.Outcome State Fault Refusal := onCtl (linkEnWrite on) s

/-- LINK_UP. -/
def execLinkUp (speed width : Nat) (s : State) : Host.Outcome State Fault Refusal := onTimed (linkUp speed width) s

/-- LINK_DOWN. -/
def execLinkDown (s : State) : Host.Outcome State Fault Refusal := onCtl linkDown s

/-- POWER_STATE_CHANGE. -/
def execPowerStateChange (d3 : Bool) (s : State) : Host.Outcome State Fault Refusal := onTimed (powerStateChange d3) s

/-- CONFIG_WRITE_REQUEST. -/
def execConfigWriteRequest (msixEn fnMask bme mse : Bool) (bars : List (Nat × Word)) (s : State) : Host.Outcome State Fault Refusal :=
  onTimed (configWriteRequest msixEn fnMask bme mse bars) s

/-- UART_DATA_WRITE. -/
def execUartDataWrite (u : Nat) (byte : Byte) (s : State) : Host.Outcome State Fault Refusal := onCtl (uartDataWrite u byte) s

/-- UART_DATA_READ. -/
def execUartDataRead (u : Nat) (s : State) : Host.Outcome State Fault Refusal := onCtl (uartDataRead u) s

/-- UART_BYTE_RECEIVE. -/
def execUartByteReceive (u : Nat) (byte : Byte) (ferr perr : Bool) (s : State) : Host.Outcome State Fault Refusal :=
  onTimed (uartByteReceive u byte ferr perr) s

/-- UART_BYTE_TRANSMIT. -/
def execUartByteTransmit (u : Nat) (s : State) : Host.Outcome State Fault Refusal := onTimed (uartByteTransmit u) s

/-- I2C_GO. -/
def execI2cGo (i : Nat) (value : Word) (s : State) : Host.Outcome State Fault Refusal := onCtl (i2cGo i value) s

/-- I2C_DONE. -/
def execI2cDone (i result acked : Nat) (data : List Byte) (s : State) : Host.Outcome State Fault Refusal :=
  onTimed (i2cDone i result acked data) s

/-- QSPI_GO. -/
def execQspiGo (value : Word) (s : State) : Host.Outcome State Fault Refusal := onCtl (qspiGo value) s

/-- QSPI_DONE. -/
def execQspiDone (data : List Byte) (s : State) : Host.Outcome State Fault Refusal := onTimed (qspiDone data) s

/-- GPIO_CHANGE. -/
def execGpioChange (n : Nat) (high : Bool) (s : State) : Host.Outcome State Fault Refusal := onAlways (State.mapCtl (gpioChange n high)) s

end Sys2Proof.Machine
end

