-- ==== Sys2Proof/Machine/Views.lean ====
section
/-! DEFINITION. What the read-only fields of the register pages show: the values that the model derives from its own state, page by page.
A register that no view names reads as the register file holds it. -/

namespace Sys2Proof.Machine

/-- A word of a group that a master captured; the register's reset value before its first capture (R332). -/
def Ctl.capturedOr (c : Ctl) (g m i a : Nat) : Nat :=
  match tfind c.tb.caps (g * 16 + m) with
  | some l => lget l i 0
  | none => (resetValue a).toNat

/-- The header of a page (R474 to R478). -/
def Ctl.viewHdr (c : Ctl) (p o : Nat) : Option Nat :=
  if o = 0x0C then
    let holds (f : RegEntry → Nat) : Bool := match pageBlock p with
      | some b => b.regs.any fun e => f e != 0
      | none => false
    let locked := (holds RegEntry.bl && c.leftBoot) || (holds RegEntry.cw && c.mode != .commission)
    some (b2n locked * 2 ^ 31 + (c.reg (R.HDR_CTL p)).toNat % 2)
  else if o = 0x10 then some (c.hdrStat p)
  else none

/-- Whole milliseconds before the watchdog expires, or the TIMEOUT in force while the countdown does not run from reset or EN is 0
(R49). -/
def Ctl.wdogLeft (c : Ctl) : Nat := if c.timing && c.on F.TOP_WDOG_CTL_EN then (c.wdEnd - c.mtime) / msTicks else c.wdTimeout

/-- The TOP page. -/
def Ctl.viewTop (c : Ctl) (o : Nat) : Option Nat :=
  if o = 0x44 then some (Config.devid % 2 ^ 32)
  else if o = 0x4C then some (b2n c.modeBusy * 2 ^ 8 + c.svc.code * 2 ^ 4 + c.mode.code)
  else if o = 0x5C then some ((c.reg R.TOP_RST_CAUSE).toNat % 2 ^ 8 + b2n c.perstSeen * 2 ^ 8)
  else if o = 0x74 then some c.wdogLeft
  else none

/-- ALIGN of LRX_STAT. -/
def LaneRx.align (l : LaneRx) : Nat := if l.inFrame then 3 else if l.ambig then 2 else if l.cands.isEmpty then 0 else 1

/-- LRX_STAT. -/
def LaneRx.statWord (l : LaneRx) : Nat :=
  l.top * 2 ^ 28 + l.align * 2 ^ 26 + b2n l.mfAligned * 2 ^ 25 + b2n l.cdr * 2 ^ 24 + b2n l.eqConv * 2 ^ 23 + b2n l.sig * 2 ^ 22 +
    min 8 l.cands.length * 2 ^ 16 + l.mfi % 32

/-- LRX_DEF_RAW: the detectors in the order of their codes. -/
def LaneRx.raw (l : LaneRx) : Nat :=
  maskBits [l.los, l.lol, l.lof, l.inFrame && !l.mfAligned, l.ais, l.tim, l.auth, l.exc, l.deg, l.rdi]

/-- The LRX pages. (DESIGN CHOICE: log entry 28.) -/
def Ctl.viewLrx (c : Ctl) (n o : Nat) : Option Nat :=
  let l := c.lrx n
  if o = 0x44 then some { l with sig := l.sig && c.rxEnabled n }.statWord
  else if o = 0x48 then some l.raw
  else if o = 0x4C then some (b2n l.inFrame * 2 ^ 31 + l.dly % 2 ^ 24)
  else if o = 0x64 then
    match tfind c.bonds (c.bondOf n) with
    | some b => some (b2n l.joined * 2 ^ 31 + b2n (b.refLane == n) * 2 ^ 30 + unsgn 28 (leadOf b.refArr l.arr))
    | none => some 0
  else if o = 0x6C then some (l.eyeV % 2 ^ 16 * 2 ^ 16 + l.eyeH % 2 ^ 16)
  else none

/-- The LTX pages. -/
def Ctl.viewLtx (c : Ctl) (n o : Nat) : Option Nat :=
  let t := c.ltx n
  if o = 0x4C then some (t.source * 2 ^ 8 + b2n t.rdi * 2 ^ 4 + t.rei % 16) else none

/-- The LOH pages. -/
def Ctl.viewLoh (c : Ctl) (n o : Nat) : Option Nat :=
  let h := c.loh n
  if o = 0x50 then some (c.get (F.LOH_SEAL_STAT_TX_ACTIVE n) * 2 ^ 31 + b2n (c.txNoKey n) * 2 ^ 30 + b2n h.sLast.isSome * 2 ^ 29)
  else if o = 0x54 then some (h.sLast.getD 0 % 2 ^ 32)
  else if o = 0x58 then some (h.sLast.getD 0 / 2 ^ 32)
  else if o = 0x5C then
    let age := match h.accAt with
      | some t => min 255 (c.mfAge t)
      | none => 255
    some (c.get (F.LOH_RX_STAT_MOB_SEQ n) * 2 ^ 16 + age * 2 ^ 8 + b2n h.feActive * 2 ^ 7 + b2n h.sealedAcc * 2 ^ 6)
  else none

/-- The OHC page. -/
def Ctl.viewOhc (c : Ctl) (o : Nat) : Option Nat :=
  if 0x44 ≤ o ∧ o < 0x80 ∧ o % 8 = 4 then
    let p := c.ospPort ((o - 0x44) / 8)
    some (p.slips * 2 ^ 16 + p.store.length)
  else none

/-- The PGS page. -/
def Ctl.viewPgs (c : Ctl) (o : Nat) : Option Nat :=
  if o = 0x58 then some (c.slotGroups (·.sel))
  else if o = 0x5C then some (c.slotGroups (·.frozen))
  else if o = 0x60 then some (c.slotGroups (·.feLost))
  else if o = 0x64 then some (c.slotGroups (·.feMism))
  else if 0x88 ≤ o ∧ o % 16 = 8 then some (c.stateWord (lgBase + (o - 0x88) / 16))
  else none

/-- The LGR page. -/
def Ctl.viewLgr (c : Ctl) (o : Nat) : Option Nat :=
  if o = 0x44 then
    let ceil := c.get F.LGR_ASM_CEIL_CEIL
    some (b2n (decide (ceil < c.asmLimit)) * 2 ^ 31 + ceil)
  else if 0x60 ≤ o ∧ o < 0xA0 ∧ o % 16 = 0 then some (c.acctLimit ((o - 0x60) / 16 + 1))
  else none

/-- The PL pages: the snapshot of group IDX, and the live sync state. -/
def Ctl.viewPl (c : Ctl) (p o : Nat) : Option Nat :=
  let g := c.plEntry p (c.get (F.PL_GRP_IDX_IDX p))
  let sync (first : Nat) : Nat := maskOf 32 fun i => (c.plEntry p (first + i)).now.sync
  if o = 0x4C then some g.snap.err
  else if o = 0x50 then some g.snap.frames
  else if o = 0x54 then some (b2n g.snap.sync * 2 ^ 31 + g.snap.loss)
  else if o = 0x60 then some (c.get (F.PL_SNAP_GO p))
  else if o = 0x64 then some (sync 0)
  else if o = 0x68 then some (sync 32)
  else none

/-- TBS_x_STAT. -/
def Ctl.domainStat (c : Ctl) (isB : Bool) : Nat :=
  let d := c.tb.dom isB
  b2n (c.healthy isB) * 2 ^ 31 + b2n d.isSet * 2 ^ 30 + b2n d.suspect * 2 ^ 29 + b2n (d.slew != 0) * 2 ^ 28 +
    b2n (d.first || d.armed) * 2 ^ 27 + b2n d.armed * 2 ^ 26 + d.result

/-- A domain's registers on the TBS page, at an offset from its first. (DEDUCED: log entry 54.) -/
def Ctl.viewDomain (c : Ctl) (m : Nat) (isB : Bool) (o : Nat) : Option Nat :=
  let i := b2n isB
  let d := c.tb.dom isB
  if o = 0x04 then some (c.domainStat isB)
  else if o = 0x0C then some (d.inc / 2 ^ 32)
  else if o = 0x10 then some (d.inc % 2 ^ 32)
  else if o = 0x2C then some (c.captured (2 + i) m 1)
  else if o = 0x34 then some (c.captured i m 1)
  else if o = 0x38 then some (c.captured i m 2)
  else none

/-- A transmit stamp queue's registers, at an offset from its first. -/
def Ctl.viewTxq (c : Ctl) (m q o : Nat) : Option Nat :=
  let t := c.txq q
  if o = 0x04 ∨ o = 0x08 ∨ o = 0x0C then some (c.captured (11 + q) m (o / 4 - 1))
  else if o = 0x10 then some (b2n t.ovf * 2 ^ 31 + b2n t.bad * 2 ^ 30 + t.items.length * 2 ^ 16 + t.drop)
  else none

/-- The TBS page. -/
def Ctl.viewTbs (c : Ctl) (m o : Nat) : Option Nat :=
  if 0x40 ≤ o ∧ o < 0xC0 then c.viewDomain m (decide (0x80 ≤ o)) ((o - 0x40) % 0x40)
  else if o = 0xC4 then
    some (b2n c.tb.untimed * 2 ^ 31 + b2n (c.tb.ofs != 0) * 2 ^ 30 + b2n c.degraded * 2 ^ 29 + c.tb.selResult * 4 + b2n c.tb.selB)
  else if o = 0xCC ∨ o = 0xD0 then some (c.captured 4 m ((o - 0xC8) / 4))
  else if o = 0xD8 ∨ o = 0xDC then some (c.captured 5 m ((o - 0xD4) / 4))
  else if o = 0xE4 ∨ o = 0xE8 then some (c.captured 6 m ((o - 0xE0) / 4))
  else if 0x11C ≤ o ∧ o < 0x138 then some (c.captured 7 m ((o - 0x118) / 4))
  else if o = 0x144 ∨ o = 0x148 then some (c.captured 10 m ((o - 0x144) / 4))
  else if 0x150 ≤ o ∧ o < 0x1D0 then some (c.captured 10 m (2 + 3 * ((o - 0x150) / 16) + o % 16 / 4))
  else if 0x1D0 ≤ o ∧ o < 0x230 then c.viewTxq m ((o - 0x1D0) / 32) ((o - 0x1D0) % 32)
  else none

/-- The UPR page. -/
def Ctl.viewUpr (c : Ctl) (o : Nat) : Option Nat :=
  if o = 0x48 then some (putBits (c.reg R.UPR_STAT).toNat 26 26 (b2n (c.pairEn && c.eligible)))
  else if o = 0x74 then
    some (match c.pair.wtrEnd with
      | some t => 2 ^ 31 + min 4095 ((t - c.mtime) / secondTicks)
      | none => 0)
  else none

/-- CIP_SLOT_STAT; slot 47 holds the root key (Table 14.3). (DEDUCED: log entry 60.) -/
def Ctl.slotStat (c : Ctl) (i : Nat) : Nat :=
  if i = 47 then 2 ^ 31 + b2n (decide (Config.rootKey.length = 32)) * 2 ^ 29 else
  let k := c.slot i
  let shown := match k.key, k.staged with
    | some v, _ => decide (v.bytes.length = 32)
    | none, some v => decide (v.bytes.length = 32)
    | none, none => false
  b2n k.key.isSome * 2 ^ 31 + b2n k.staged.isSome * 2 ^ 30 + b2n shown * 2 ^ 29 + b2n k.exhausted * 2 ^ 28 + b2n k.prev.isSome * 2 ^ 27 +
    b2n (k.side && decide (i < 24)) * 2 ^ 26 + k.epoch % 2 ^ 24

/-- The CIP page. (DEDUCED: log entry 58.) -/
def Ctl.viewCip (c : Ctl) (o : Nat) : Option Nat :=
  if o = 0x48 then
    let l := c.latch
    let left := if l.holder.isSome then (c.leaseUs * 2048 - (c.now - l.since) * 10) / 2048 else 0
    some (b2n l.holder.isSome * 2 ^ 31 + b2n l.slrWaiting * 2 ^ 30 + c.get F.CIP_LATCH_STAT_EXP_VALID * 2 ^ 29 +
      c.get F.CIP_LATCH_STAT_EXP_ID * 2 ^ 24 + left)
  else if o = 0x84 then
    let susp := match c.latch.holder with
      | some m => (tfind c.cip.susp m).isSome
      | none => false
    some (putBits (c.reg R.CIP_JOB_STAT).toNat 30 30 (b2n susp))
  else if 0x94 ≤ o ∧ o < 0xB4 then some 0
  else if o = 0xC0 then some (putBits (c.reg R.CIP_STAT).toNat 29 29 (b2n (match c.cip.seg with
    | some g => g.rand
    | none => c.randomised)))
  else if 0x200 ≤ o then some (c.slotStat ((o - 0x200) / 4))
  else none

/-- The SLR page. -/
def Ctl.viewSlr (c : Ctl) (o : Nat) : Option Nat :=
  if o = 0x40 then
    some (b2n c.latch.slrWaiting * 2 ^ 31 + b2n (c.latch.holder == some 10) * 2 ^ 30 + min 127 c.cip.pend.length)
  else none

/-- STATE of a core. (DESIGN CHOICE: log entry 65.) -/
def Ctl.coreState (c : Ctl) (n : Nat) : Nat :=
  if !c.onBit F.TOP_CORE_RUN_RUN n then 0 else if bit c.coreDbg n then 3 else if bit c.coreWfi n then 2 else 1

/-- The CPX page. -/
def Ctl.viewCpx (c : Ctl) (m o : Nat) : Option Nat :=
  if o = 0x40 then some (c.mtime % 2 ^ 32)
  else if o = 0x44 then some (c.captured 9 m 0)
  else if 0x80 ≤ o ∧ o < 0x90 then
    let n := (o - 0x80) / 4
    some (c.coreState n * 2 ^ 30 + b2n (c.timerPending n) * 2 ^ 29 + b2n (c.extPending n) * 2 ^ 28 + c.get (F.CPX_CORE_STAT_PAR n))
  else none

/-- The MBX page. -/
def Ctl.viewMbx (c : Ctl) (m o : Nat) : Option Nat :=
  if o = 0x40 then some (c.mbxInbox m)
  else if o = 0x44 then some c.mbxCrossed
  else if 0x80 ≤ o ∧ o < 0x100 then
    let i := (o - 0x80) / 4
    some (putBits (c.reg (R.MBX_BIND i)).toNat 30 30 (b2n (c.mbxBound i)))
  else if 0x100 ≤ o ∧ o < 0x180 then some (c.mbxView m ((o - 0x100) / 4))
  else if 0x800 ≤ o then some (c.mbxWord m ((o - 0x800) / 64) (o % 64 / 4))
  else none

/-- The performance counter of an offset of the PMC page, and which of its four registers it is (SEL, LO, HI, STAT). -/
def pmcLoc (o : Nat) : Option (Nat × Nat) :=
  if 0x100 ≤ o ∧ o < 0x500 then some ((o - 0x100) / 16, o % 16 / 4)
  else if 0x600 ≤ o ∧ o < 0x800 then some (64 + (o - 0x600) / 16, o % 16 / 4)
  else none

/-- The PMC page. (DEDUCED: log entry 70.) -/
def Ctl.viewPmc (c : Ctl) (m o : Nat) : Option Nat :=
  match pmcLoc o with
  | none => none
  | some (k, r) =>
    let p := c.pmcOf k
    if r = 0 then some (b2n p.en * 2 ^ 31 + b2n p.level * 2 ^ 8 + p.event)
    else if r = 1 then some (p.val % 2 ^ 32)
    else if r = 2 then some (c.captured (16 + k) m 0)
    else some (b2n p.ovf * 2 ^ 31 + b2n p.wcoll * 2 ^ 30)

/-- The EVT page: the registers of the page that EVT_ALM_IDX names, and the summary of the alarms (R459). (DESIGN CHOICE: log entry 79.) -/
def Ctl.viewEvt (c : Ctl) (o : Nat) : Option Nat :=
  let page := c.get F.EVT_ALM_IDX_PAGE
  if o = 0x70 then some (tget c.ev.lvCfg page 0x10000064).toNat
  else if o = 0x74 then some (tget c.ev.route page 0).toNat
  else if o = 0x78 then some (c.almMaj page)
  else if o = 0x7C then some (c.almMin page)
  else if 0xC0 ≤ o ∧ o < 0xEC then some (maskOf 32 fun b => decide ((o - 0xC0) / 4 * 32 + b < 0x160) && c.hdrStat ((o - 0xC0) / 4 * 32 + b) != 0)
  else none

/-- The PER page. (DEDUCED: log entry 78.) -/
def Ctl.viewPer (c : Ctl) (o : Nat) : Option Nat :=
  if o = 0x48 ∨ o = 0x58 then
    let u := (o - 0x48) / 16
    let t := c.uartOf u
    some (wGet (c.reg (R.PER_UART_STAT u)) 31 28 * 2 ^ 28 + t.tx.length * 2 ^ 8 + t.rx.length)
  else if o = 0x144 then some c.gpioLevels
  else none

/-- What a derived register shows to a master, or `none` for one that the register file holds. -/
def Ctl.view (c : Ctl) (m p o : Nat) : Option Nat :=
  if o < 0x40 then c.viewHdr p o
  else if 0x100 ≤ p ∧ p < 0x118 then c.viewLrx (p - 0x100) o
  else if 0x120 ≤ p ∧ p < 0x138 then c.viewLtx (p - 0x120) o
  else if 0x140 ≤ p ∧ p < 0x158 then c.viewLoh (p - 0x140) o
  else match p with
    | 0x000 => c.viewTop o
    | 0x011 => c.viewTbs m o
    | 0x012 => if o = 0x48 ∨ o = 0x4C then some (c.capturedOr 8 m ((o - 0x44) / 4) (0x12000 + o)) else none
    | 0x018 => c.viewUpr o
    | 0x022 => c.viewPgs o
    | 0x024 => c.viewLgr o
    | 0x030 => c.viewOhc o
    | 0x03C => c.viewPl 0 o
    | 0x03D => c.viewPl 1 o
    | 0x040 => c.viewCip o
    | 0x041 => c.viewSlr o
    | 0x048 => c.viewCpx m o
    | 0x04A => c.viewMbx m o
    | 0x050 => c.viewPmc m o
    | 0x051 => c.viewEvt o
    | 0x052 => if 0x44 ≤ o ∧ o < 0x68 then some (c.captured 14 m ((o - 0x44) / 4)) else none
    | 0x058 => c.viewPer o
    | _ => none

/-! ### Reads with an effect -/

/-- A core that the boot ROM has halted: the spec does not say whether STATE shows it in WFI, so a free value decides (R54). (DESIGN CHOICE: log entry 19.) -/
def Ctl.sampleCore (n : Nat) (c : Ctl) : Ctl :=
  if n = 0 ∧ c.romHalt then { (c.takeFree 1).2 with coreWfi := putBit c.coreWfi 0 (bit (c.takeFree 1).1 0) } else c

/-- The effect of a read before its value is taken, on a register whose read captures or samples. (DESIGN CHOICE: log entry 65.) -/
def Ctl.readStep (m a : Nat) (c : Ctl) : Ctl :=
  if a = R.CPX_MTIME_LO then c.putCapture 9 m [c.mtime / 2 ^ 32]
  else if a / 0x1000 = 0x48 ∧ 0x80 ≤ a % 0x1000 ∧ a % 0x1000 < 0x90 then c.sampleCore ((a % 0x1000 - 0x80) / 4)
  else if a / 0x1000 = 0x50 then
    match pmcLoc (a % 0x1000) with
    | some (k, 1) => c.putCapture (16 + k) m [(c.pmcOf k).val / 2 ^ 32 % 2 ^ 16]
    | _ => c
  else c

/-- A register whose read gives a free value, and the number of its bits that are free: CPX_PC, and the ball levels of PER_ALM_STAT
that the device does not drive. (DEDUCED, DESIGN CHOICE: log entries 65, 78.) -/
def Ctl.readFree (c : Ctl) (a : Nat) (f : Nat) : Option Nat :=
  if a / 0x1000 = 0x48 ∧ 0x90 ≤ a % 0x1000 ∧ a % 0x1000 < 0xA0 then
    some (if c.onBit F.TOP_CORE_RUN_RUN ((a % 0x1000 - 0x90) / 4) then f else 0)
  else if a = R.PER_ALM_STAT then
    let d := c.alarmDrive
    some (b2n d.1 * 8 + b2n d.2 * 4 + b2n (d.1 || bit f 1) * 2 + b2n (d.2 || bit f 0))
  else none

end Sys2Proof.Machine
end

