-- ==== Sys2Proof/Machine/Bus.lean ====
section
/-! DEFINITION. Accesses: the register pages as a master reads and writes them (R474 to R482), accesses on the bus matrix (R24 to R29,
R428, R530), and the host's requests (R487, R488). -/

namespace Sys2Proof.Machine

/-! ### Which register accesses complete (R428, R475, R480, R530) -/

/-- A CIP_JOB register (R391). -/
def isJobReg (p o : Nat) : Bool := p == 0x040 && decide (0x4C ≤ o ∧ o < 0x8C)

/-- The MSI-X table or PBA (R490). -/
def isMsixReg (p o : Nat) : Bool := p == 0x008 && decide (0x800 ≤ o)

/-- The mailbox channel of a register, if it belongs to one (R437). -/
def mbxOf (p o : Nat) : Option Nat :=
  if p = 0x04A ∧ 0x100 ≤ o ∧ o < 0x180 then some ((o - 0x100) / 4)
  else if p = 0x04A ∧ 0x800 ≤ o then some ((o - 0x800) / 64) else none

/-- SRC, DST or LEN of a DMA engine, and the engine (R430). (DEDUCED: log entry 72.) -/
def dmaReg (p o : Nat) : Option Nat := if p = 0x04B ∧ 0x80 ≤ o ∧ o < 0xC0 ∧ o % 32 < 12 then some ((o - 0x80) / 32) else none

/-- The CAUSE of a register access that is refused before it is served, or none; a later refusal is the register's own. -/
def Ctl.regCause (c : Ctl) (m a size : Nat) (write : Bool) : Option Nat :=
  let p := a / 4 * 4 / 0x1000
  let o := a / 4 * 4 % 0x1000
  if !regExists p o then some 0
  else if size ≠ 4 ∨ a % 4 ≠ 0 then some 2
  else if 4 < m then some 3
  else if write && isJobReg p o && c.latch.holder != some m then some 3
  else if write && isMsixReg p o && m != 4 then some 3
  else match mbxOf p o, dmaReg p o with
    | some i, _ => c.mbxRefusal m i
    | none, some k => if write && c.on (F.DMA_STAT_BUSY k) then some 1 else none
    | none, none => none

/-! ### Reading a register -/

/-- A read whose answer the register's own rule gives: captures, queues, FIFOs, the latch and the life record. -/
def ownRead (m a tick : Nat) (s : State) : Option State :=
  if (s.ctl.captureOf a).isSome then some (s.mapCtl (captureRead m a tick))
  else if a = R.TBS_TXQ_W0 0 ∨ a = R.TBS_TXQ_W0 1 ∨ a = R.TBS_TXQ_W0 2 then some (s.mapCtl (txqPop m ((a - R.TBS_TXQ_W0 0) / 32)))
  else if a = R.CIP_LATCH then some (s.mapCtl (latchAcquire m tick))
  else if a = R.PER_UART_DATA 0 ∨ a = R.PER_UART_DATA 1 then some (s.mapCtl (uartDataRead ((a - R.PER_UART_DATA 0) / 16)))
  else if a = R.LIF_DATA then some (lifDataRead s)
  else none

/-- The value of a register with no reading rule of its own. -/
def Ctl.plainRead (m a : Nat) (c : Ctl) : Nat × Ctl :=
  let c := c.readStep m a
  match c.readFree a 0 with
  | some _ =>
    let r := c.takeFree 32
    ((r.2.readFree a r.1).getD 0, r.2)
  | none => ((c.view m (a / 0x1000) (a % 0x1000)).getD (c.reg a).toNat, c)

/-- A register is read by a master at a tick. -/
def regRead (m a size tick : Nat) (s : State) : Access :=
  match s.ctl.regCause m a size false with
  | some cause => s.accessError m (0x20000000 + a) size false cause
  | none =>
    match ownRead m a tick s with
    | some s => (match s.ctl.answer with | .data v => some v | _ => some 0, s)
    | none =>
      let r := s.ctl.plainRead m a
      (some (r.1 % 2 ^ 32), { s with ctl := r.2 })

/-! ### Writing a register -/

/-- The fields of a register take a written value under their access codes: RW always, CW in COMMISSION, BL until BOOT has been left, and
a 1 clears a W1C bit. -/
def Ctl.putFields (a : Nat) (v : Word) (c : Ctl) : Ctl :=
  match regEntry (a / 0x1000) (a % 0x1000) with
  | none => c
  | some e =>
    let open' := e.rw ||| (if c.mode = .commission then e.cw else 0) ||| (if c.leftBoot then 0 else e.bl)
    let m := BitVec.ofNat 32 open'
    let w := ((c.reg a &&& ~~~m) ||| (v &&& m)) &&& ~~~(v &&& BitVec.ofNat 32 e.w1c)
    if open' = 0 ∧ e.w1c = 0 then c else c.setReg a w

/-- Two effects of one write that no rule orders: a free value decides which is first. (DEDUCED: log entry 72.) -/
def eitherOrder (f g : State → State) (s : State) : State :=
  let r := s.ctl.takeFree 1
  let s := { s with ctl := r.2 }
  if r.1 = 0 then g (f s) else f (g s)

/-- A write with two command bits. -/
def oneOrBoth (x y : Bool) (f g : State → State) (s : State) : State :=
  if x && y then eitherOrder f g s else if x then f s else if y then g s else s

/-- The registers that CNT_CLR.ALL of a page zeroes (R132 and the rules that follow it). -/
def countersOf (page : Nat) : List Nat :=
  if 0x100 ≤ page ∧ page < 0x118 then
    let n := page - 0x100
    [R.LRX_CNT_BIP n, R.LRX_CNT_EFR n, R.LRX_CNT_FAW n, R.LRX_CNT_MFI n, R.LRX_CNT_SLIP n, R.LRX_CNT_HUNT n]
  else if 0x140 ≤ page ∧ page < 0x158 then
    let n := page - 0x140
    [R.LOH_CNT_GARB n, R.LOH_CNT_APS n, R.LOH_CNT_AUTH n, R.LOH_CNT_MISC n] ++ (List.range 4).map (R.LOH_RING_CNT n)
  else match page with
    | 0x020 => [R.XCC_CNT_DM_REP, R.XCC_CNT_DM_FAIL, R.XCC_CNT_CM, R.XCC_CNT_SEL, R.XCC_CNT_STG, R.XCC_CNT_OVR, R.XCC_DM_LAST]
    | 0x022 => [R.PGS_CNT_SW, R.PGS_CNT_APS] ++ (List.range 12).map R.PGS_LG_CNT
    | 0x038 => [R.HL_CNT_OVF 0, R.HL_CNT_UNF 0, R.HL_CNT_POISON 0, R.HL_LAST 0]
    | 0x039 => [R.HL_CNT_OVF 1, R.HL_CNT_UNF 1, R.HL_CNT_POISON 1, R.HL_LAST 1]
    | 0x03A => [R.RL_CNT 0, R.RL_CNT_LATE 0, R.RL_CNT_POISON 0]
    | 0x03B => [R.RL_CNT 1, R.RL_CNT_LATE 1, R.RL_CNT_POISON 1]
    | 0x010 => [R.TMU_CNT]
    | 0x018 => [R.UPR_CNT_PENN, R.UPR_CNT_LINK, R.UPR_CNT_ROLE]
    | 0x040 => [R.CIP_CNT_DONE, R.CIP_CNT_ABORT]
    | 0x041 => [R.SLR_CNT_MASK, R.SLR_CNT_OND, R.SLR_CNT_GRACE]
    | 0x048 => (List.range 4).map R.CPX_CORE_STAT
    | 0x049 => [R.SPM_STARVE_LAST, R.SPM_PAR_CNT, R.SPM_PAR_LAST, R.SPM_PAR_LAST_M] ++ (List.range 16).map R.SPM_STARVE_CNT
    | 0x04C => [R.MEM_CNT_REP, R.MEM_CNT_POISON, R.MEM_POISON_ADDR, R.MEM_POISON_INFO]
    | 0x051 => [R.EVT_CNT_DROP, R.EVT_CNT_OVW, R.EVT_CNT_SUPP]
    | 0x008 => [R.HST_CNT]
    | 0x058 => [R.PER_AVS_STAT]
    | _ => []

/-- The greatest values that CNT_CLR.ALL of a page zeroes. -/
def maximaOf (page : Nat) : List Fld :=
  match page with
  | 0x020 => [F.XCC_ASM_TIME_MAX]
  | 0x022 => [F.PGS_EVAL_TIME_MAX]
  | 0x041 => [F.SLR_WAIT_MAX]
  | _ => []

/-- A 1 written to CNT_CLR.ALL of a page. -/
def cntClrAll (page : Nat) (c : Ctl) : Ctl := (c.zero (countersOf page)).sets ((maximaOf page).map fun f => (f, 0))

/-- Where each page has its CNT_CLR register. -/
def cntClrOffset (p : Nat) : Option Nat :=
  if 0x100 ≤ p ∧ p < 0x118 then some 0x88
  else if 0x140 ≤ p ∧ p < 0x158 then some 0x94
  else match p with
    | 0x020 => some 0x68
    | 0x022 => some 0x68
    | 0x038 => some 0x6C
    | 0x039 => some 0x6C
    | 0x03A => some 0x90
    | 0x03B => some 0x90
    | 0x010 => some 0x6C
    | 0x018 => some 0x8C
    | 0x040 => some 0xCC
    | 0x041 => some 0x54
    | 0x048 => some 0xA0
    | 0x049 => some 0x94
    | 0x04C => some 0x80
    | 0x051 => some 0xF0
    | 0x008 => some 0x54
    | 0x058 => some 0x168
    | _ => none

/-- The header of a page: ENABLE, W1C of HDR_EVT, HDR_EVT_EN and SCRATCH; the other header registers ignore writes. -/
def hdrWrite (p o : Nat) (v : Word) (c : Ctl) : Ctl :=
  if o = 0x0C then
    let on := bit v.toNat 0
    if 0x100 ≤ p ∧ p < 0x118 then rxEnableWrite (p - 0x100) on c else c.set (F.HDR_CTL_ENABLE p) (b2n on)
  else if o = 0x14 then hdrEvtClear p v 0 c
  else if o = 0x18 then evtEnWrite p v c
  else if o = 0x24 then c.setReg (R.HDR_SCRATCH p) v
  else c

/-- TOP_MODE_REQ. -/
def modeReqWrite (req : Nat) (s : State) : State :=
  if req = 1 then s.mapCtl modeReqCommission
  else if req = 2 then modeReqService s
  else if req = 4 then s.mapCtl modeReqMaintenance
  else s.mapCtl (modeReqUnknown req)

/-- The TOP page. -/
def topWrite (m o : Nat) (v : Word) (s : State) : State :=
  if o = 0x50 then modeReqWrite (wGet v 2 0) s
  else if o = 0x5C then s.mapCtl fun c => { c with perstSeen := c.perstSeen && !bit v.toNat 8 }
  else if o = 0x60 then softwareReset v s
  else if o = 0x64 then s.mapCtl (coreRunWrite v)
  else if o = 0x6C then s.mapCtl (wdogCtlWrite v)
  else if o = 0x70 then s.mapCtl (wdogKickWrite m v)
  else if o = 0x80 then if bit v.toNat 0 then hostBootReady s else s
  else s.mapCtl (Ctl.putFields o v)

/-- LRX_BOND: a lane that is given another bond leaves its present one (R124). (DESIGN CHOICE: log entry 28.) -/
def bondWrite (n : Nat) (v : Word) (c : Ctl) : Ctl :=
  let was := c.bondOf n
  let c := c.putFields (R.LRX_BOND n) v
  let c := if c.bondOf n = was then c else c.setRx n { c.lrx n with joined := false, joining := false, bondOut := false }
  if bit v.toNat 7 then bondReformRequest n c else c

/-- The LRX pages. -/
def lrxWrite (n o : Nat) (v : Word) (c : Ctl) : Ctl :=
  if o = 0x40 then termLoopWrite n (bit v.toNat 9) (rateWrite n (wGet v 0 0) (c.set (F.LRX_CTL_RX_INV n) (wGet v 8 8)))
  else if o = 0x60 then bondWrite n v c
  else if o = 0x68 then (c.putFields (R.LRX_EQ n) v).when (bit v.toNat 1) (eqRestart n)
  else c.putFields ((0x100 + n) * 0x1000 + o) v

/-- The LTX pages. -/
def ltxWrite (n o : Nat) (v : Word) (c : Ctl) : Ctl :=
  if o = 0x48 then ffeWrite n v c else c.putFields ((0x120 + n) * 0x1000 + o) v

/-- The LOH pages. -/
def lohWrite (n o : Nat) (v : Word) (c : Ctl) : Ctl :=
  if o = 0x40 then lohCtlWrite n (c.putFields (R.LOH_CTL n) v)
  else if o = 0x48 then lohSealWrite n (c.reg (R.LOH_SEAL n)) (c.putFields (R.LOH_SEAL n) v)
  else if 0xA0 ≤ o ∧ o < 0xE0 then
    let i := (o - 0xA0) / 16
    if o % 16 = 0 then ringCfgWrite n i v c
    else if o % 16 = 4 then if i % 2 = 1 then ringPtrWrite n i (wGet v 15 0) c else c
    else if o % 16 = 8 then if i % 2 = 0 then ringPtrWrite n i (wGet v 15 0) c else c
    else c
  else if 0x140 ≤ o ∧ o < 0x180 then traceExpWrite n ((o - 0x140) / 4) v c
  else c.putFields ((0x140 + n) * 0x1000 + o) v

/-- OHC_OSP_CTL: the port stops until the next block of its lane; its store is emptied when the lane is changed or EN is 0 (R141). (DESIGN CHOICE: log entry 34.) -/
def ospCtlWrite (k : Nat) (v : Word) (c : Ctl) : Ctl :=
  let was := c.get (F.OHC_OSP_CTL_LANE k)
  let c := c.putFields (R.OHC_OSP_CTL k) v
  let p := c.ospPort k
  let keep := c.on (F.OHC_OSP_CTL_EN k) && c.get (F.OHC_OSP_CTL_LANE k) == was
  let on := c.on (F.OHC_OSP_CTL_EN k)
  c.setOsp k { p with running := false, store := if keep then p.store else [], out := if on then p.out else [], di := if on then p.di else [] }

/-- CMP_SWAP: CANCEL takes precedence over GO. The boundary is too near for a swap when it is less than 2 µs away (R208). (DEDUCED: log entry 41.) -/
def swapWrite (v : Word) (tick : Nat) (c : Ctl) : Ctl :=
  if bit v.toNat 4 then swapCancel c
  else if bit v.toNat 0 then
    swapRequest (bit v.toNat 3) (bit v.toNat 2) (bit v.toNat 1) (decide ((c.frameTicks - tick) * 10 < 4096)) c
  else c

/-- The CMP page. -/
def cmpWrite (o : Nat) (v : Word) (tick : Nat) (c : Ctl) : Ctl :=
  if o = 0x44 then c.when (bit v.toNat 0) sealRequest
  else if o = 0x48 then swapWrite v tick c
  else if o = 0x88 then c.when (bit v.toNat 0) copyRequest
  else c.putFields (0x21000 + o) v

/-- An OP register of a configuration table (R277). -/
def cfgOpWrite (page op : Nat) (c : Ctl) : Ctl :=
  if op = 1 then cfgTableLoad page c else if op = 2 then cfgTableStore page c else cfgTableOpUnknown page op c

/-- Some circuit of a host lane is enabled (R280). (DEDUCED: log entry 47.) -/
def Ctl.anyCircuit (c : Ctl) (h : Nat) : Bool :=
  c.hl.any fun q => q.1 / 1024 == h && (bit (lget q.2.words 0 0) 31 || bit (lget q.2.eff 0 0) 31)

/-- The internal-lane pages. (DEDUCED: log entry 47.) -/
def internalWrite (p o : Nat) (v : Word) (c : Ctl) : Ctl :=
  if p < 0x3A then
    if o = 0x40 then if c.anyCircuit (p - 0x38) then c else c.putFields (p * 0x1000 + o) v
    else if o = 0x54 then cfgOpWrite p (wGet v 1 0) c
    else c.putFields (p * 0x1000 + o) v
  else if p < 0x3C then
    let r := p - 0x3A
    if o = 0x5C then cfgOpWrite p (wGet v 1 0) c
    else if o = 0x64 then (c.when (bit v.toNat 0) (rlArm r)).when (bit v.toNat 1) (rlFreezeNow r)
    else c.putFields (p * 0x1000 + o) v
  else
    let q := p - 0x3C
    if o = 0x58 then cfgOpWrite p (wGet v 1 0) c
    else if o = 0x60 then c.when (bit v.toNat 0) (plSnapshotRequest q (bit v.toNat 1))
    else if o = 0x6C then (c.putFields (R.PL_INJ q) v).when (bit v.toNat 31) (plErrorInject q (wGet v 5 0))
    else c.putFields (p * 0x1000 + o) v

/-- The registers of a time domain. -/
def domainWrite (isB : Bool) (o : Nat) (v : Word) (tick : Nat) (s : State) : State :=
  if o = 0x00 then s.mapCtl (domainValidWrite isB (bit v.toNat 31) tick)
  else if o = 0x08 then
    oneOrBoth (bit v.toNat 1) (bit v.toNat 0) (State.mapCtl (tbsArm isB)) (State.mapCtl (tbsStep isB tick)) s
  else if o = 0x0C then s.mapCtl (incIntWrite isB v)
  else if o = 0x10 then s.mapCtl (incWrite isB v tick)
  else if o = 0x24 then s.mapCtl (slewWrite isB v tick)
  else s.mapCtl (Ctl.putFields (0x11000 + 0x40 + b2n isB * 0x40 + o) v)

/-- TBS_TXQ_STAT: clearing OVF zeroes DROP (R351). -/
def txqStatWrite (q : Nat) (v : Word) (c : Ctl) : Ctl :=
  let t := c.txq q
  let clr := bit v.toNat 31
  c.setTxq q { t with ovf := t.ovf && !clr, drop := if clr then 0 else t.drop, bad := t.bad && !bit v.toNat 30 }

/-- The TBS page. A compare value that is written while its unit is armed is ignored (R355). (DEDUCED: log entry 72.) -/
def tbsWrite (m o : Nat) (v : Word) (tick : Nat) (s : State) : State :=
  if 0x40 ≤ o ∧ o < 0xC0 then domainWrite (decide (0x80 ≤ o)) (o % 0x40) v tick s
  else s.mapCtl fun c =>
    if o = 0xC0 then c.when (bit v.toNat 31) (selGo (bit v.toNat 0) tick)
    else if o = 0xF0 then frameConversion v c
    else if o = 0x114 then ppsOfsWrite v (c.advTo tick)
    else if o = 0x140 then mfsSelect m (wGet v 4 0) c
    else if 0x1D0 ≤ o ∧ o < 0x230 then if o % 32 = 0 then txqStatWrite ((o - 0x1E0) / 32) v c else c
    else if 0x240 ≤ o ∧ o < 0x280 ∧ o % 16 = 0 then compareArm ((o - 0x240) / 16) v tick c
    else if 0x240 ≤ o ∧ o < 0x280 ∧ c.on (F.TBS_CMP_CTL_EN ((o - 0x240) / 16)) then c
    else c.putFields (0x11000 + o) v

/-- The bytes of an aborted job that are written: a count that no rule gives. (DEDUCED: log entry 72.) -/
def withDone (f : Nat → State → State) (s : State) : State :=
  let r := s.ctl.takeFree 32
  f r.1 { s with ctl := r.2 }

/-- The CIP page. (DEDUCED: log entry 72.) -/
def cipWrite (m o : Nat) (v : Word) (tick : Nat) (s : State) : State :=
  if o = 0x40 then if bit v.toNat 8 then withDone (latchRelease m tick) s else s
  else if o = 0x80 then if bit v.toNat 0 then jobGo (List.range 8) m s else s
  else if 0x94 ≤ o ∧ o < 0xB4 then s.mapCtl (Ctl.setReg (0x40000 + o) v)
  else if o = 0xB4 then oneOrBoth (bit v.toNat 31) (bit v.toNat 30) (keyLoad m v) (withDone (keyZeroise m)) s
  else if o = 0xBC then withDone (engineReset v) s
  else if 0x100 ≤ o ∧ o < 0x1C0 then s.mapCtl (slotPolicyWrite ((o - 0x100) / 4) v)
  else s.mapCtl (Ctl.putFields (0x40000 + o) v)

/-- The CPX page: a write of MTIMECMP_HI takes effect together with the LO before it. -/
def cpxWrite (o : Nat) (v : Word) (c : Ctl) : Ctl :=
  if 0x50 ≤ o ∧ o < 0x70 then
    let n := (o - 0x50) / 8
    if o % 8 = 0 then { c with mtcLo := tput c.mtcLo n v }
    else
      let lo := (tfind c.mtcLo n).getD (c.reg (R.CPX_MTIMECMP_LO n))
      let now : Ctl := { c with mtcLo := tdel c.mtcLo n }.setRegs [(R.CPX_MTIMECMP_LO n, lo), (R.CPX_MTIMECMP_HI n, v)]
      now.when (now.timerPending n) (Ctl.coreCalled n)
  else c.putFields (0x48000 + o) v

/-- The MBX page. (DEDUCED: log entry 64.) -/
def mbxWrite (m o : Nat) (v : Word) (c : Ctl) : Ctl :=
  if 0x100 ≤ o ∧ o < 0x180 then mbxChWrite m ((o - 0x100) / 4) (bit v.toNat 2) (bit v.toNat 1) (bit v.toNat 0) c
  else if 0x800 ≤ o then mbxDataWrite m ((o - 0x800) / 64) (o % 64 / 4) v c
  else c.putFields (0x4A000 + o) v

/-- The MTX page: a GO while BUSY is refused and changes nothing, and otherwise GO takes precedence over ABORT. -/
def mtxWrite (m o : Nat) (v : Word) (s : State) : State :=
  if o = 0x54 then if bit v.toNat 0 then s.mapCtl dtClear else s
  else if o = 0x8C ∨ o = 0xAC then
    let k := (o - 0x8C) / 32
    if bit v.toNat 0 then s.mapCtl (dmaGo m k)
    else if bit v.toNat 1 then withDone (fun done s => dmaAbort k done [] s) s else s
  else s.mapCtl (Ctl.putFields (0x4B000 + o) v)

/-- The PMC page. -/
def pmcRegWrite (o : Nat) (v : Word) (c : Ctl) : Ctl :=
  match pmcLoc o with
  | none => c.putFields (0x50000 + o) v
  | some (k, r) =>
    let p := c.pmcOf k
    if r = 0 then pmcSelWrite k v c
    else if r = 1 then pmcWrite k v false c
    else if r = 2 then c.setPmc k { p with hiHeld := wGet v 15 0 }
    else c.setPmc k { p with ovf := p.ovf && !bit v.toNat 31, wcoll := p.wcoll && !bit v.toNat 30 }

/-- The EVT page. (DESIGN CHOICE: log entry 79.) -/
def evtWrite (o : Nat) (v : Word) (c : Ctl) : Ctl :=
  let page := c.get F.EVT_ALM_IDX_PAGE
  let listed := (pageBlock page).isSome
  if o = 0x40 then evtRingCfgWrite v c
  else if o = 0x48 then notifyRdWrite (wGet v 13 0) c
  else if o = 0x70 then c.when listed (louvreCfgWrite v)
  else if o = 0x74 then if listed then { c with ev := { c.ev with route := tput c.ev.route page (v &&& 0xBF0F0300) } } else c
  else if o = 0x78 then if listed then { c with ev := { c.ev with maj := tput c.ev.maj page v } } else c
  else if o = 0x7C then if listed then { c with ev := { c.ev with min := tput c.ev.min page v } } else c
  else if o = 0x90 then msixRearm v 0 c
  else if o = 0x94 then msixRearm 0 v c
  else c.putFields (0x51000 + o) v

/-- The HST page. -/
def hstWrite (o : Nat) (v : Word) (c : Ctl) : Ctl :=
  if o = 0x40 then linkEnWrite (bit v.toNat 0) c
  else if 0x800 ≤ o ∧ o < 0xC00 then msixPendingSend ((o - 0x800) / 16) (c.putFields (0x8000 + o) v)
  else c.putFields (0x8000 + o) v

/-- The PER page. -/
def perWrite (o : Nat) (v : Word) (c : Ctl) : Ctl :=
  if o = 0x40 ∨ o = 0x50 then (c.putFields (0x58000 + o) v).uartHeld ((o - 0x40) / 16)
  else if o = 0x44 ∨ o = 0x54 then uartDataWrite ((o - 0x44) / 16) (BitVec.ofNat 8 v.toNat) c
  else if 0x80 ≤ o ∧ o < 0x100 ∧ o % 32 = 4 then i2cGo ((o - 0x80) / 32) v c
  else if o = 0x104 then qspiGo v c
  else if o = 0x140 then gpioOutWrite v c
  else c.putFields (0x58000 + o) v

/-- The life-record page. A mismatch of a word read back is no effect of the write (R467). -/
def lifWrite (m o : Nat) (v : Word) (s : State) : State :=
  if o = 0x44 then lifDataWrite m v 0 s
  else if o = 0x60 then if bit v.toNat 0 then s.mapCtl (faultRecordGo m) else s
  else s.mapCtl (Ctl.putFields (0x53000 + o) v)

/-- The XCC page. -/
def xccWrite (o : Nat) (v : Word) (c : Ctl) : Ctl :=
  if o = 0x68 then (c.when (bit v.toNat 0) (cntClrAll 0x020)).when (bit v.toNat 1) badlogClear
  else if o = 0x6C then (c.putFields R.XCC_INJ v).when (bit v.toNat 31) injectArm
  else c.putFields (0x20000 + o) v

/-- A write of the TMU page: an output whose EN is 0 is held low (R326). -/
def tmuWrite (o : Nat) (v : Word) (c : Ctl) : Ctl :=
  let c := c.putFields (0x10000 + o) v
  { c with tb := { c.tb with ppsHigh := c.tb.ppsHigh && c.on F.TMU_OUT_CTL_PPS_EN } }

/-- MGN_CTL and the other MGN registers; a ramp ends when MGN_AVS_CFG.EN is cleared (R238). (DEDUCED: log entry 45.) -/
def mgnWrite (o : Nat) (v : Word) (c : Ctl) : Ctl :=
  if o = 0x40 then (targetWrite (wGet v 26 16) c).when (bit v.toNat 0) measNow
  else
    let c := c.putFields (0x25000 + o) v
    c.when (!c.avsOn) (Ctl.set F.MGN_AVS_STAT_RAMP 0)

/-- The LGR page. -/
def lgrWrite (o : Nat) (v : Word) (c : Ctl) : Ctl :=
  if o = 0x40 then limitWrite (wGet v 15 0) c
  else if o = 0x54 then ledgerWrite v c
  else c.putFields (0x24000 + o) v

/-- LPM_SEL captures the bin it selects (R448); the other registers of the page hold thresholds. -/
def lpmWrite (m o : Nat) (v : Word) (c : Ctl) : Ctl :=
  let c := c.putFields (0x52000 + o) v
  if o = 0x40 then c.putCapture 14 m c.pmCapture else c

/-- A write to a register that exists, by page. The TBL page takes writes of TBL_CTL alone, so its header ignores them (R358). (DEDUCED: log entry 54.) -/
def pageWrite (m p o : Nat) (v : Word) (tick : Nat) (s : State) : State :=
  if p = 0x012 ∧ o ≠ 0x40 then s
  else if o < 0x40 then s.mapCtl (hdrWrite p o v)
  else if p ≠ 0x020 ∧ cntClrOffset p = some o then if bit v.toNat 0 then s.mapCtl (cntClrAll p) else s
  else if 0x100 ≤ p ∧ p < 0x118 then s.mapCtl (lrxWrite (p - 0x100) o v)
  else if 0x120 ≤ p ∧ p < 0x138 then s.mapCtl (ltxWrite (p - 0x120) o v)
  else if 0x140 ≤ p ∧ p < 0x158 then s.mapCtl (lohWrite (p - 0x140) o v)
  else if 0x038 ≤ p ∧ p < 0x03E then s.mapCtl (internalWrite p o v)
  else match p with
    | 0x000 => topWrite m o v s
    | 0x008 => s.mapCtl (hstWrite o v)
    | 0x010 => s.mapCtl (tmuWrite o v)
    | 0x011 => tbsWrite m o v tick s
    | 0x020 => s.mapCtl (xccWrite o v)
    | 0x021 => s.mapCtl (cmpWrite o v tick)
    | 0x022 => if o = 0x40 then s.mapCtl (pgCmdWrite s.xc.prot m v) else s.mapCtl (Ctl.putFields (0x22000 + o) v)
    | 0x024 => s.mapCtl (lgrWrite o v)
    | 0x025 => s.mapCtl (mgnWrite o v)
    | 0x030 => if o < 0x80 ∧ o % 8 = 0 then s.mapCtl (ospCtlWrite ((o - 0x40) / 8) v) else s
    | 0x040 => cipWrite m o v tick s
    | 0x048 => s.mapCtl (cpxWrite o v)
    | 0x049 => if o < 0x80 then s.mapCtl (caseCfgWrite ((o - 0x40) / 4) v) else s.mapCtl (Ctl.putFields (0x49000 + o) v)
    | 0x04A => s.mapCtl (mbxWrite m o v)
    | 0x04B => mtxWrite m o v s
    | 0x050 => s.mapCtl (pmcRegWrite o v)
    | 0x051 => s.mapCtl (evtWrite o v)
    | 0x052 => s.mapCtl (lpmWrite m o v)
    | 0x053 => lifWrite m o v s
    | 0x058 => s.mapCtl (perWrite o v)
    | _ => s.mapCtl (Ctl.putFields (p * 0x1000 + o) v)

/-- A register whose write may still be answered with an error when it is served: mailboxes, DMA GO, LIF_DATA and CIP_JOB_GO. -/
def judgedWrite (p o : Nat) : Bool :=
  (mbxOf p o).isSome || (p == 0x04B && (o == 0x8C || o == 0xAC)) || (p == 0x053 && o == 0x44) || (p == 0x040 && o == 0x80)

/-- A register is written by a master at a tick. -/
def regWrite (m a size : Nat) (v : Word) (tick : Nat) (s : State) : Access :=
  match s.ctl.regCause m a size true with
  | some cause => s.accessError m (0x20000000 + a) size true cause
  | none =>
    let p := a / 0x1000
    let o := a % 0x1000
    let s := pageWrite m p o v tick { s with ctl := { s.ctl with answer := .data 0 } }
    if judgedWrite p o && s.ctl.answer == .error then (none, s) else (some 0, s)

/-! ### Accesses on the bus matrix -/

/-- The target of an access that a master issues: a core issues at most 32 bits, and an absent target comes first (R428, R530). -/
def Ctl.busTarget (c : Ctl) (m a size : Nat) (write : Bool) : Target :=
  let wide := decide (m < 4 ∧ 4 < size)
  match c.target m a size write with
  | .bad 0 => .bad 0
  | .reg x => .reg x
  | .page => if wide && atPlace a then .bad 2 else .page
  | t => if wide then .bad 2 else t

/-- An access has completed: an error answered to a core is counted (Table 16.3) and faults the core (R418), and a completed access is
answered with its data. -/
def finishAccess (m a : Nat) (u : PmpUse) (pc : Option Word) (r : Access) : Access :=
  match r with
  | (some v, s) => (some v, s.mapCtl (Ctl.answers v))
  | (none, s) => (none, s.mapCtl (Ctl.coreError m a u pc))

/-- A read of a master on the bus matrix. -/
def busRead (m a size tick : Nat) (fs : List ParityFault) (u : PmpUse) (pc : Option Word) (s : State) : Access :=
  let s := s.mapCtl (Ctl.advTo tick)
  let t := s.ctl.busTarget m a size false
  let s := s.mapCtl (Ctl.accessed m t)
  finishAccess m a u pc (match t with
    | .reg x => regRead m x size tick s
    | t => s.memRead true m a size t fs)

/-- A write of a master on the bus matrix. -/
def busWrite (m a size data tick : Nat) (fs : List ParityFault) (pc : Option Word) (s : State) : Access :=
  let s := s.mapCtl (Ctl.advTo tick)
  let t := s.ctl.busTarget m a size true
  let s := s.mapCtl (Ctl.accessed m t)
  finishAccess m a .store pc (match t with
    | .reg x => regWrite m x size (BitVec.ofNat 32 data) tick s
    | t => s.memWrite m a size data t fs)

/-- A write to a register, at page × 0x1000 + offset. -/
def registerWrite (m addr : Nat) (value : Word) (tick : Nat) (s : State) : State :=
  gated m (0x20000000 + addr) 4 true (fun s => (busWrite m (0x20000000 + addr) 4 value.toNat tick [] none s).2) s

/-- The access on the bus matrix, with its answer. -/
def matrixAnswer (m addr size : Nat) (write : Bool) (data tick : Nat) (fs : List ParityFault) (u : PmpUse) (pc : Option Word) (s : State) :
    Access :=
  if write then busWrite m addr size data tick fs pc s else busRead m addr size tick fs u pc s

/-- The access on the bus matrix. -/
def matrixAccess (m addr size : Nat) (write : Bool) (data tick : Nat) (fs : List ParityFault) (u : PmpUse) (pc : Option Word) (s : State) :
    State := (matrixAnswer m addr size write data tick fs u pc s).2

/-- What an access is to the protection of a core. -/
def useOf (write fetch : Bool) : PmpUse := if write then .store else if fetch then .fetch else .load

/-- A core takes an exception in place of an access that it may not make, and makes no access (R418). (DESIGN CHOICE: log entry 12.) -/
def Ctl.coreRefused (m addr cause : Nat) (pc : Word) (c : Ctl) : Ctl := c.setHart m ((c.hart m).trap cause pc.toNat (addr % 2 ^ 32) 0)

/-- A core's access: a misaligned one and one that its protection does not permit raise their exceptions without an access (R418). -/
def coreAccess (m addr size : Nat) (write : Bool) (data tick : Nat) (fs : List ParityFault) (fetch : Bool) (u : PmpUse) (pc : Word)
    (s : State) : Access :=
  if addr % (if fetch then 2 else max 1 size) ≠ 0 then (none, s.mapCtl (Ctl.coreRefused m addr u.misaligned pc))
  else if !(s.ctl.hart m).pmpPermits u addr size then (none, s.mapCtl (Ctl.coreRefused m addr u.fault pc))
  else matrixAnswer m addr size write data tick fs u (some pc) s

/-- The second access of an atomic operation: the word that it stores. -/
def amoStore (m tick : Nat) (fs : List ParityFault) (i : RvInstr) (q : RvAsk) (pc : Word) (r : Access) : Access :=
  match i, r with
  | .amo o _ _ r2, (some v, s) =>
    match busWrite m q.addr 4 (o.run (BitVec.ofNat 32 v) ((s.ctl.hart m).x r2)).toNat tick fs (some pc) s with
    | (some _, s) => (some v, s)
    | r => r
  | _, r => r

/-- A core's access that brings its instruction: it is made when the instruction, on the core's registers, asks for it, and completes the
instruction; a store-conditional without its reservation makes none. (DESIGN CHOICE: log entry 12.) -/
def coreLoadStore (m : Nat) (ask : RvAsk) (tick : Nat) (fs : List ParityFault) (pc w : Word) (s : State) : State :=
  let next := pc + BitVec.ofNat 32 (rvLen w)
  let ended (f : Hart → Hart) (s : State) : State := s.mapCtl fun c => (c.setHart m (f (c.hart m))).coreRetire m 1
  match rvDecode w with
  | none => s
  | some i =>
    match (s.ctl.hart m).ask i, i with
    | none, .sc rd _ _ => ended (Hart.scFail rd next) s
    | none, _ => s
    | some q, _ =>
      if q ≠ ask then s
      else
        let u := i.use (useOf q.write false)
        match amoStore m tick fs i q pc (coreAccess m q.addr q.size q.write q.data tick fs false u pc s) with
        | (some v, s) => ended (Hart.finish i q.addr v next) s
        | (none, s) => s

/-- An access of a master to any address. A master that issues no accesses makes none. A core first does what it did since the access before,
and makes the access unless WFI then holds it (R416 to R418). (DESIGN CHOICE: log entry 12.) -/
def defaultTargetAccess (m addr size : Nat) (write : Bool) (data tick : Nat) (fs : List ParityFault) (core : CoreIn) (s : State) : State :=
  if !s.ctl.issues m then s
  else if 4 ≤ m then matrixAccess m addr size write data tick fs .load none s
  else
    let s := s.mapCtl fun c => core.ops.foldl (Ctl.coreOp m) ((c.advTo tick).wakeCore m)
    if !s.ctl.issues m then s
    else match core.instr with
      | some w => coreLoadStore m ⟨addr, size, write, if write then data else 0⟩ tick fs core.pc w s
      | none => (coreAccess m addr size write data tick fs core.fetch (useOf write core.fetch) core.pc s).2

/-! ### Host requests (R487, R488, R491) -/

/-- One access of a host request: where its bytes stand in the request, its address, its size, and whether every byte is enabled. -/
structure HostAccess where
  pos : Nat
  addr : Nat
  size : Nat
  whole : Bool
  deriving DecidableEq, Repr

/-- Bytes `[a, a + n)` of a request that starts at `off` are all enabled. (PRESUMED: log entry 74.) -/
def enabledRun (off : Nat) (be : List Bool) (a n : Nat) : Bool := (List.range n).all fun i => decide (off ≤ a + i) && lget be (a + i - off) false

/-- BAR0: one 32-bit access per dword. -/
def bar0Accesses (off : Nat) (be : List Bool) : List HostAccess :=
  if be.isEmpty then []
  else (List.range ((off + be.length - 1) / 4 + 1 - off / 4)).map fun i =>
    let a := (off / 4 + i) * 4
    { pos := a - off, addr := 0x20000000 + a, size := 4, whole := enabledRun off be a 4 }

/-- The access at a byte of a BAR2 request: 64 bits when the naturally aligned 8 bytes are all enabled, and else the largest naturally
aligned access of the run of enabled bytes. -/
def bar2Size (off : Nat) (be : List Bool) (a : Nat) : Nat :=
  let fits (z : Nat) : Bool := a % z == 0 && enabledRun off be a z
  if fits 8 then 8 else if fits 4 then 4 else if fits 2 then 2 else 1

/-- BAR2: the accesses of a request in increasing address. The fuel is the number of bytes. -/
def bar2Accesses (base off : Nat) (be : List Bool) : Nat → Nat → List HostAccess
  | 0, _ => []
  | k + 1, i =>
    if be.length ≤ i then []
    else if !lget be i false then bar2Accesses base off be k (i + 1)
    else
      let z := bar2Size off be (off + i)
      { pos := i, addr := base + off + i, size := z, whole := true } :: bar2Accesses base off be k (i + z)

/-- The accesses of a host request; none when the function answers Unsupported Request: a locked or an I/O request, D3hot, Memory Space
Enable at 0, or no BAR that holds the whole request. -/
def Ctl.hostSplit (c : Ctl) (bar off : Nat) (be : List Bool) (unsup : Bool) : Option (List HostAccess) :=
  if unsup || c.get F.HST_STAT_DSTATE != 0 || !c.on F.HST_STAT_MSE then none
  else if bar = 0 then if off + be.length ≤ 0x1000000 then some (bar0Accesses off be) else none
  else if bar = 2 then
    if off + be.length ≤ 0x20000000 then some (bar2Accesses (c.get F.HST_APERTURE_BASE * 2 ^ 24) off be be.length 0) else none
  else none

/-- The CAUSE of a BAR0 dword with a byte enable clear: an absent register comes first (R487, R530). (DEDUCED: log entry 73.) -/
def partCause (addr : Nat) : Nat := if regExists ((addr - 0x20000000) / 0x1000) (addr % 0x1000) then 2 else 0

/-- The accesses of a read request, up to the first that ends with an error response. (DEDUCED: log entry 73.) -/
def hostReads (tick : Nat) (fs : List ParityFault) : List HostAccess → State → Option (List Byte) × State
  | [], s => (some [], s)
  | h :: t, s =>
    let r : Access := if h.whole then busRead 4 h.addr h.size tick fs .load none s
      else (s.mapCtl (Ctl.occ 0x34 1)).accessError 4 h.addr h.size false (partCause h.addr)
    match r with
    | (none, s) => (none, s)
    | (some v, s) =>
      match hostReads tick fs t s with
      | (none, s) => (none, s)
      | (some l, s) => (some (leBytes h.size v ++ l), s)

/-- A read request completes with Completer Abort: it is counted, raised and reported through Advanced Error Reporting (R488). (PRESUMED: log entry 74.) -/
def Ctl.hostAbort (c : Ctl) : Ctl :=
  { (c.count F.HST_CNT_RD_ABORT 1).raise 0x008 2 [] with answer := .error, aerStatus := putBit c.aerStatus 15 true }

/-- A host read request. (PRESUMED: log entry 74.) -/
def hostReadRequest (bar off : Nat) (be : List Bool) (unsup : Bool) (tick : Nat) (fs : List ParityFault) (s : State) : State :=
  if !s.ctl.on F.HST_STAT_LINK_UP then s
  else match s.ctl.hostSplit bar off be unsup with
    | none => s.mapCtl fun c => { c with answer := .unsupported }
    | some l =>
      let l := if be.any id then l else []
      match hostReads tick fs l s with
      | (some b, s) => s.mapCtl fun c => { c with answer := .bytes b }
      | (none, s) => s.mapCtl Ctl.hostAbort

/-- One access of a posted write: an error response changes nothing and counts in WR_ERR. (DEDUCED: log entry 73.) -/
def hostWriteOne (tick : Nat) (data : List Byte) (fs : List ParityFault) (s : State) (h : HostAccess) : State :=
  let r : Access := if h.whole then busWrite 4 h.addr h.size (leNat (slice data h.pos h.size)) tick fs none s
    else (s.mapCtl (Ctl.occ 0x34 1)).accessError 4 h.addr h.size true (partCause h.addr)
  match r with
  | (none, s) => s.mapCtl (Ctl.count F.HST_CNT_WR_ERR 1)
  | (some _, s) => s

/-- A host posted write: its accesses in increasing address. (PRESUMED: log entry 74.) -/
def hostWriteRequest (bar off : Nat) (be : List Bool) (data : List Byte) (unsup : Bool) (tick : Nat) (fs : List ParityFault) (s : State) :
    State :=
  if !s.ctl.on F.HST_STAT_LINK_UP then s
  else match s.ctl.hostSplit bar off be unsup with
    | none => s.mapCtl fun c => { c with answer := .unsupported }
    | some l => (l.foldl (hostWriteOne tick data fs) s).mapCtl fun c => { c with answer := .none }

/-! ### The commands -/

/-- CNT_CLR.ALL of a page. -/
def execCntClrAll (page : Nat) (s : State) : Host.Outcome State Fault Refusal := onCtl (cntClrAll page) s

/-- A register write. -/
def execRegisterWrite (m addr : Nat) (value : Word) (tick : Nat) (s : State) : Host.Outcome State Fault Refusal :=
  onState (registerWrite m addr value tick) s

/-- An access of a master. -/
def execDefaultTargetAccess (m addr size : Nat) (write : Bool) (data tick : Nat) (faults : List ParityFault) (core : CoreIn) (s : State) :
    Host.Outcome State Fault Refusal := onState (defaultTargetAccess m addr size write data tick faults core) s

/-- HOST_READ_REQUEST. -/
def execHostReadRequest (bar off : Nat) (be : List Bool) (unsup : Bool) (tick : Nat) (faults : List ParityFault) (s : State) :
    Host.Outcome State Fault Refusal := onStateTimed (hostReadRequest bar off be unsup tick faults) s

/-- HOST_WRITE_REQUEST. -/
def execHostWriteRequest (bar off : Nat) (be : List Bool) (data : List Byte) (unsup : Bool) (tick : Nat) (faults : List ParityFault)
    (s : State) : Host.Outcome State Fault Refusal := onStateTimed (hostWriteRequest bar off be data unsup tick faults) s

end Sys2Proof.Machine
end

