-- ==== Sys2Proof/Machine/Dispatch.lean ====
section
/-! DEFINITION. The dispatch of the commands: one arm per constructor of `Instr`. -/

namespace Sys2Proof.Machine

/-- The effect of a command on everything but the queue. -/
def exec (i : Instr) (s : State) : Host.Outcome State Fault Refusal :=
  match i with
  | .powerOnReset => Sys2Proof.Machine.execPowerOnReset s
  | .resetNAssert => Sys2Proof.Machine.execResetNAssert s
  | .resetRelease b => Sys2Proof.Machine.execResetRelease b s
  | .hostBootReady => Sys2Proof.Machine.execHostBootReady s
  | .softwareReset value => Sys2Proof.Machine.execSoftwareReset value s
  | .tapInstructionUpdate code t => Sys2Proof.Machine.execTapInstructionUpdate code t s
  | .trstAssert => Sys2Proof.Machine.execTrstAssert s
  | .perstAssert => Sys2Proof.Machine.execPerstAssert s
  | .coreRunWrite value => Sys2Proof.Machine.execCoreRunWrite value s
  | .xoLost => Sys2Proof.Machine.execXoLost s
  | .wdogKickBegin m => Sys2Proof.Machine.execWdogKickBegin m s
  | .wdogKickComplete m => Sys2Proof.Machine.execWdogKickComplete m s
  | .wdogKickOther m => Sys2Proof.Machine.execWdogKickOther m s
  | .wdogCtlWrite value => Sys2Proof.Machine.execWdogCtlWrite value s
  | .watchdogExpiry tick => Sys2Proof.Machine.execWatchdogExpiry tick s
  | .modeReqCommission => Sys2Proof.Machine.execModeReqCommission s
  | .modeReqService => Sys2Proof.Machine.execModeReqService s
  | .modeReqMaintenance => Sys2Proof.Machine.execModeReqMaintenance s
  | .modeReqUnknown req => Sys2Proof.Machine.execModeReqUnknown req s
  | .commissionSealDone left => Sys2Proof.Machine.execCommissionSealDone left s
  | .modeTransition => Sys2Proof.Machine.execModeTransition s
  | .signalRise n => Sys2Proof.Machine.execSignalRise n s
  | .signalFall n => Sys2Proof.Machine.execSignalFall n s
  | .losDeclare n => Sys2Proof.Machine.execLosDeclare n s
  | .losClear n => Sys2Proof.Machine.execLosClear n s
  | .cdrLock n => Sys2Proof.Machine.execCdrLock n s
  | .cdrLockLoss n => Sys2Proof.Machine.execCdrLockLoss n s
  | .lolDeclare n => Sys2Proof.Machine.execLolDeclare n s
  | .lolClear n => Sys2Proof.Machine.execLolClear n s
  | .eqConverge n eyeV eyeH => Sys2Proof.Machine.execEqConverge n eyeV eyeH s
  | .eqRestart n => Sys2Proof.Machine.execEqRestart n s
  | .termLoopWrite n on => Sys2Proof.Machine.execTermLoopWrite n on s
  | .fawCandidateMatch n pos exact mfi bip => Sys2Proof.Machine.execFawCandidateMatch n pos exact mfi bip s
  | .decisionWindowClose n phase => Sys2Proof.Machine.execDecisionWindowClose n phase s
  | .frameReceive n f ago missed => Sys2Proof.Machine.execFrameReceive n f ago missed s
  | .lofClear n arr => Sys2Proof.Machine.execLofClear n arr s
  | .bondJoin n => Sys2Proof.Machine.execBondJoin n s
  | .errorWindowEnd n deg => Sys2Proof.Machine.execErrorWindowEnd n deg s
  | .rateWrite n rate => Sys2Proof.Machine.execRateWrite n rate s
  | .rateChange n => Sys2Proof.Machine.execRateChange n s
  | .rxEnableWrite n on => Sys2Proof.Machine.execRxEnableWrite n on s
  | .bondReformRequest n => Sys2Proof.Machine.execBondReformRequest n s
  | .bondReform b => Sys2Proof.Machine.execBondReform b s
  | .cntClrAll page => Sys2Proof.Machine.execCntClrAll page s
  | .txSourceChange n => Sys2Proof.Machine.execTxSourceChange n s
  | .ffeWrite n value => Sys2Proof.Machine.execFfeWrite n value s
  | .frameBoundary wanders faults overrun late hyAcks => Sys2Proof.Machine.execFrameBoundary wanders faults overrun late hyAcks s
  | .assemblyDone ns10 => Sys2Proof.Machine.execAssemblyDone ns10 s
  | .mobReceive n tick => Sys2Proof.Machine.execMobReceive n tick s
  | .unitConflictEnd n tick => Sys2Proof.Machine.execUnitConflictEnd n tick s
  | .feActiveExpire n => Sys2Proof.Machine.execFeActiveExpire n s
  | .mobSealDecision n tick mism => Sys2Proof.Machine.execMobSealDecision n tick mism s
  | .apsMessageReceive n => Sys2Proof.Machine.execApsMessageReceive n s
  | .sealTxEffect n => Sys2Proof.Machine.execSealTxEffect n s
  | .sealTagDeadline n mism => Sys2Proof.Machine.execSealTagDeadline n mism s
  | .ospBlock k di => Sys2Proof.Machine.execOspBlock k di s
  | .ringCfgWrite n r value => Sys2Proof.Machine.execRingCfgWrite n r value s
  | .ringPtrWrite n r ptr => Sys2Proof.Machine.execRingPtrWrite n r ptr s
  | .traceExpWrite n w value => Sys2Proof.Machine.execTraceExpWrite n w value s
  | .standbyWindowWrite m addr size data => Sys2Proof.Machine.execStandbyWindowWrite m addr size data s
  | .connWindowRead m addr size rep fail => Sys2Proof.Machine.execConnWindowRead m addr size rep fail s
  | .copyRequest => Sys2Proof.Machine.execCopyRequest s
  | .copyDone entries sels => Sys2Proof.Machine.execCopyDone entries sels s
  | .sealRequest => Sys2Proof.Machine.execSealRequest s
  | .sealVerdict faults => Sys2Proof.Machine.execSealVerdict faults s
  | .swapRequest agree strict sched late => Sys2Proof.Machine.execSwapRequest agree strict sched late s
  | .swapCancel => Sys2Proof.Machine.execSwapCancel s
  | .agreementCheck => Sys2Proof.Machine.execAgreementCheck s
  | .swapExecute => Sys2Proof.Machine.execSwapExecute s
  | .injectArm => Sys2Proof.Machine.execInjectArm s
  | .badlogClear => Sys2Proof.Machine.execBadlogClear s
  | .ledgerClaim acct amount => Sys2Proof.Machine.execLedgerClaim acct amount s
  | .ledgerRelease acct amount => Sys2Proof.Machine.execLedgerRelease acct amount s
  | .measurementScheduled => Sys2Proof.Machine.execMeasurementScheduled s
  | .measNow => Sys2Proof.Machine.execMeasNow s
  | .speedMeasurementEnd rings => Sys2Proof.Machine.execSpeedMeasurementEnd rings s
  | .evaluation rail crcErr noResp => Sys2Proof.Machine.execEvaluation rail crcErr noResp s
  | .targetWrite target => Sys2Proof.Machine.execTargetWrite target s
  | .limitWrite limit => Sys2Proof.Machine.execLimitWrite limit s
  | .avsStep readback alert => Sys2Proof.Machine.execAvsStep readback alert s
  | .avsStepRetry crcErr noResp => Sys2Proof.Machine.execAvsStepRetry crcErr noResp s
  | .pgApply m lg g fail => Sys2Proof.Machine.execPgApply m lg g fail s
  | .pgLockout m lg g => Sys2Proof.Machine.execPgLockout m lg g s
  | .pgForcedSwitch m lg g => Sys2Proof.Machine.execPgForcedSwitch m lg g s
  | .pgManualSwitch m lg g => Sys2Proof.Machine.execPgManualSwitch m lg g s
  | .pgClear m lg g => Sys2Proof.Machine.execPgClear m lg g s
  | .pgCmdUnknown m op lg g => Sys2Proof.Machine.execPgCmdUnknown m op lg g s
  | .protTableAccess m addr size write data fail => Sys2Proof.Machine.execProtTableAccess m addr size write data fail s
  | .groupEvaluation fail us => Sys2Proof.Machine.execGroupEvaluation fail us s
  | .holdoffExpiry k r => Sys2Proof.Machine.execHoldoffExpiry k r s
  | .wtrExpiry k => Sys2Proof.Machine.execWtrExpiry k s
  | .feLostExpiry k => Sys2Proof.Machine.execFeLostExpiry k s
  | .feMismExpiry k => Sys2Proof.Machine.execFeMismExpiry k s
  | .lgBridgeEffect j => Sys2Proof.Machine.execLgBridgeEffect j s
  | .cfgTableLoad page => Sys2Proof.Machine.execCfgTableLoad page s
  | .cfgTableStore page => Sys2Proof.Machine.execCfgTableStore page s
  | .cfgTableOpUnknown page op => Sys2Proof.Machine.execCfgTableOpUnknown page op s
  | .cfgEntryEffect page idx => Sys2Proof.Machine.execCfgEntryEffect page idx s
  | .rlFreezeNow r => Sys2Proof.Machine.execRlFreezeNow r s
  | .rlArm r => Sys2Proof.Machine.execRlArm r s
  | .trigInEdge => Sys2Proof.Machine.execTrigInEdge s
  | .rlTriggerTaken r => Sys2Proof.Machine.execRlTriggerTaken r s
  | .rlPostEnd r => Sys2Proof.Machine.execRlPostEnd r s
  | .plSnapshotRequest p clr => Sys2Proof.Machine.execPlSnapshotRequest p clr s
  | .plSnapshotTake p => Sys2Proof.Machine.execPlSnapshotTake p s
  | .plErrorInject p g => Sys2Proof.Machine.execPlErrorInject p g s
  | .measurementSecondEnd cands mate freq phase => Sys2Proof.Machine.execMeasurementSecondEnd cands mate freq phase s
  | .candidateWtrExpiry k => Sys2Proof.Machine.execCandidateWtrExpiry k s
  | .candidateAbsent k => Sys2Proof.Machine.execCandidateAbsent k s
  | .acquireDone => Sys2Proof.Machine.execAcquireDone s
  | .pullDone => Sys2Proof.Machine.execPullDone s
  | .phaseStep phase => Sys2Proof.Machine.execPhaseStep phase s
  | .tbsStep isB tick => Sys2Proof.Machine.execTbsStep isB tick s
  | .tbsArm isB => Sys2Proof.Machine.execTbsArm isB s
  | .incWrite isB frac tick => Sys2Proof.Machine.execIncWrite isB frac tick s
  | .slewWrite isB lo tick => Sys2Proof.Machine.execSlewWrite isB lo tick s
  | .suspectClear isB tick => Sys2Proof.Machine.execSuspectClear isB tick s
  | .slewEnd isB tick => Sys2Proof.Machine.execSlewEnd isB tick s
  | .offsetReduced tick => Sys2Proof.Machine.execOffsetReduced tick s
  | .selGo isB tick => Sys2Proof.Machine.execSelGo isB tick s
  | .domainValidWrite isB on tick => Sys2Proof.Machine.execDomainValidWrite isB on tick s
  | .captureRead m addr tick => Sys2Proof.Machine.execCaptureRead m addr tick s
  | .txqPop m q => Sys2Proof.Machine.execTxqPop m q s
  | .txqPush => Sys2Proof.Machine.execTxqPush s
  | .ppsInEdge tick => Sys2Proof.Machine.execPpsInEdge tick s
  | .ppsOutEdge tick => Sys2Proof.Machine.execPpsOutEdge tick s
  | .ppsOutFall => Sys2Proof.Machine.execPpsOutFall s
  | .compareArm k value tick => Sys2Proof.Machine.execCompareArm k value tick s
  | .compareFire k tick => Sys2Proof.Machine.execCompareFire k tick s
  | .frameConversion lo => Sys2Proof.Machine.execFrameConversion lo s
  | .mfsSelect m lane => Sys2Proof.Machine.execMfsSelect m lane s
  | .pennantReceive syms phase tick => Sys2Proof.Machine.execPennantReceive syms phase tick s
  | .pennantMissed tick => Sys2Proof.Machine.execPennantMissed tick s
  | .roleEvaluation => Sys2Proof.Machine.execRoleEvaluation s
  | .roleChange => Sys2Proof.Machine.execRoleChange s
  | .partingDecision => Sys2Proof.Machine.execPartingDecision s
  | .partedVerdict => Sys2Proof.Machine.execPartedVerdict s
  | .byeTakeActive => Sys2Proof.Machine.execByeTakeActive s
  | .echoRecordExpire n tick => Sys2Proof.Machine.execEchoRecordExpire n tick s
  | .revertWtrExpiry tick => Sys2Proof.Machine.execRevertWtrExpiry tick s
  | .handoverCommit => Sys2Proof.Machine.execHandoverCommit s
  | .handoverRelease => Sys2Proof.Machine.execHandoverRelease s
  | .handoverTake => Sys2Proof.Machine.execHandoverTake s
  | .handoverRetry tick => Sys2Proof.Machine.execHandoverRetry tick s
  | .latchAcquire m tick => Sys2Proof.Machine.execLatchAcquire m tick s
  | .latchRelease m tick done => Sys2Proof.Machine.execLatchRelease m tick done s
  | .leaseExpiry tick done => Sys2Proof.Machine.execLeaseExpiry tick done s
  | .slrJobsDone tick mismatch => Sys2Proof.Machine.execSlrJobsDone tick mismatch s
  | .jobEnc m => Sys2Proof.Machine.execJobEnc m s
  | .jobDec m => Sys2Proof.Machine.execJobDec m s
  | .jobGen m => Sys2Proof.Machine.execJobGen m s
  | .jobVer m => Sys2Proof.Machine.execJobVer m s
  | .jobOpInvalid m => Sys2Proof.Machine.execJobOpInvalid m s
  | .jobSegmentEnd faults mismatch => Sys2Proof.Machine.execJobSegmentEnd faults mismatch s
  | .keyLoad m value => Sys2Proof.Machine.execKeyLoad m value s
  | .keyZeroise m done => Sys2Proof.Machine.execKeyZeroise m done s
  | .slotPolicyWrite r value => Sys2Proof.Machine.execSlotPolicyWrite r value s
  | .sealKeyEffect n => Sys2Proof.Machine.execSealKeyEffect n s
  | .prevKeyExpire n => Sys2Proof.Machine.execPrevKeyExpire n s
  | .engineReset m value done => Sys2Proof.Machine.execEngineReset m value done s
  | .katDone pass => Sys2Proof.Machine.execKatDone pass s
  | .coreTimerInterrupt n tick => Sys2Proof.Machine.execCoreTimerInterrupt n tick s
  | .defaultTargetAccess m addr size write data tick faults core => Sys2Proof.Machine.execDefaultTargetAccess m addr size write data tick faults core s
  | .dmaStarve m bank wait tick => Sys2Proof.Machine.execDmaStarve m bank wait tick s
  | .caseCfgWrite w value => Sys2Proof.Machine.execCaseCfgWrite w value s
  | .dmaGo m k => Sys2Proof.Machine.execDmaGo m k s
  | .dmaAbort k done faults => Sys2Proof.Machine.execDmaAbort k done faults s
  | .dmaEnd k faults => Sys2Proof.Machine.execDmaEnd k faults s
  | .memReady cap => Sys2Proof.Machine.execMemReady cap s
  | .mr4Update rate => Sys2Proof.Machine.execMr4Update rate s
  | .mbxSend m c => Sys2Proof.Machine.execMbxSend m c s
  | .mbxTake m c => Sys2Proof.Machine.execMbxTake m c s
  | .mbxClrAck m c => Sys2Proof.Machine.execMbxClrAck m c s
  | .mbxDataWrite m c w value => Sys2Proof.Machine.execMbxDataWrite m c w value s
  | .dtClear => Sys2Proof.Machine.execDtClear s
  | .pmSecondEnd tick => Sys2Proof.Machine.execPmSecondEnd tick s
  | .pmSecondCommit => Sys2Proof.Machine.execPmSecondCommit s
  | .pmBinEnd tick => Sys2Proof.Machine.execPmBinEnd tick s
  | .switchBinCopy faults => Sys2Proof.Machine.execSwitchBinCopy faults s
  | .pmcWrite k lo hit => Sys2Proof.Machine.execPmcWrite k lo hit s
  | .pmcFreeze on => Sys2Proof.Machine.execPmcFreeze on s
  | .pmcOverflow k => Sys2Proof.Machine.execPmcOverflow k s
  | .notifyRingWrite => Sys2Proof.Machine.execNotifyRingWrite s
  | .louvreToken page evBit => Sys2Proof.Machine.execLouvreToken page evBit s
  | .logDrain err => Sys2Proof.Machine.execLogDrain err s
  | .switchRecordForm faults => Sys2Proof.Machine.execSwitchRecordForm faults s
  | .summaryRecord lane => Sys2Proof.Machine.execSummaryRecord lane s
  | .notifyRdWrite ptr => Sys2Proof.Machine.execNotifyRdWrite ptr s
  | .evtRingCfgWrite value => Sys2Proof.Machine.execEvtRingCfgWrite value s
  | .evtEnWrite page value => Sys2Proof.Machine.execEvtEnWrite page value s
  | .louvreCfgWrite value => Sys2Proof.Machine.execLouvreCfgWrite value s
  | .msixRearm lo hi => Sys2Proof.Machine.execMsixRearm lo hi s
  | .hdrEvtClear page mask recur => Sys2Proof.Machine.execHdrEvtClear page mask recur s
  | .msixPendingSend v => Sys2Proof.Machine.execMsixPendingSend v s
  | .lifDataWrite m value misses => Sys2Proof.Machine.execLifDataWrite m value misses s
  | .lifDataRead m => Sys2Proof.Machine.execLifDataRead m s
  | .lifeCheckpoint fails => Sys2Proof.Machine.execLifeCheckpoint fails s
  | .faultRecordGo m => Sys2Proof.Machine.execFaultRecordGo m s
  | .faultRecordDone fails => Sys2Proof.Machine.execFaultRecordDone fails s
  | .linkEnWrite on => Sys2Proof.Machine.execLinkEnWrite on s
  | .linkUp speed width => Sys2Proof.Machine.execLinkUp speed width s
  | .linkDown => Sys2Proof.Machine.execLinkDown s
  | .hostReadRequest bar off be unsup tick faults => Sys2Proof.Machine.execHostReadRequest bar off be unsup tick faults s
  | .hostWriteRequest bar off be data unsup tick faults => Sys2Proof.Machine.execHostWriteRequest bar off be data unsup tick faults s
  | .powerStateChange d3 => Sys2Proof.Machine.execPowerStateChange d3 s
  | .registerWrite m addr value tick => Sys2Proof.Machine.execRegisterWrite m addr value tick s
  | .uartDataWrite u byte => Sys2Proof.Machine.execUartDataWrite u byte s
  | .uartDataRead u => Sys2Proof.Machine.execUartDataRead u s
  | .uartByteReceive u byte ferr perr => Sys2Proof.Machine.execUartByteReceive u byte ferr perr s
  | .i2cGo r value => Sys2Proof.Machine.execI2cGo r value s
  | .i2cDone r result acked data => Sys2Proof.Machine.execI2cDone r result acked data s
  | .qspiGo value => Sys2Proof.Machine.execQspiGo value s
  | .qspiDone data => Sys2Proof.Machine.execQspiDone data s
  | .gpioChange n high => Sys2Proof.Machine.execGpioChange n high s
  | .perstDeassert => Sys2Proof.Machine.execPerstDeassert s
  | .uartByteTransmit u => Sys2Proof.Machine.execUartByteTransmit u s
  | .configWriteRequest msixEn fnMask bme mse bars => Sys2Proof.Machine.execConfigWriteRequest msixEn fnMask bme mse bars s
  | .starvationWindowLapse tick => Sys2Proof.Machine.execStarvationWindowLapse tick s

end Sys2Proof.Machine
end

