-- ==== Sys2Proof/Machine/Balls.lean ====
section
/-! DEFINITION. The balls that the device drives, where the spec states how (R507, Table 18.7), and the test access port's registers
(R525). What the lanes, the links and the serial ports carry is what their commands send. -/

namespace Sys2Proof.Machine

/-! ### The test access port (R525) -/

/-- A register between TDI and TDO. -/
inductive TapReg where
  | idcode | bypass | boundary | debug
  deriving DecidableEq, Repr

/-- The value that IDCODE reads. -/
def idcodeValue : Nat := 0x124304AB

/-- The register that an instruction selects: CLAMP and HIGHZ select BYPASS as the standard has it, DEBUG acts as BYPASS while SEC_LOCK is
high, and so does every code that R525 does not name. (DESIGN CHOICE: log entry 80.) -/
def tapRegOf (code : Nat) (secLock : Bool) : TapReg :=
  if code = 0x01 then .idcode
  else if tapScans code then .boundary
  else if code = 0x10 ∧ !secLock then .debug
  else .bypass

/-- The register that is selected. -/
def Ctl.tapReg (c : Ctl) : TapReg := tapRegOf c.tapInstr c.secLock

/-- What the selected register captures, as a number, before it is shifted out: IDCODE its value, BYPASS 0 as the standard has it. What
the others capture is their contents. (DESIGN CHOICE: log entry 80.) -/
def TapReg.capture : TapReg → Option Nat
  | .idcode => some idcodeValue
  | .bypass => some 0
  | .boundary => none
  | .debug => none

/-- A ball has a boundary cell: the 1.8 V and the open-drain balls have one, and the lane balls under the instructions of IEEE 1149.6. The
Halyard, PCIe, LPDDR4X and XO balls have none, nor has the test port itself. (DESIGN CHOICE: log entry 80.) -/
def ballCell (code : Nat) : Ball → Bool
  | .laneTx _ => code = 3 ∨ code = 4
  | .pcieTx _ => false
  | .ddrResetN => false
  | .ddrCke => false
  | .hyTd => false
  | .hyRa => false
  | .xoOut => false
  | .tdo => false
  | _ => true

/-! ### Levels (R507) -/

/-- The state of a ball during a reset (Table 18.7). DDR_RESET_N is stated after a power-on reset only. (DESIGN CHOICE: log entry 80.) -/
def ballInReset (src : ResetSource) : Ball → Option BallState
  | .laneTx _ => some .idle
  | .pcieTx _ => some .idle
  | .ddrResetN => if src = .por then some .low else none
  | .ddrCke => some .low
  | .hyTd => some .still
  | .hyRa => some .still
  | .xoOut => some (.follows "XO_IN")
  | .ospClk _ => some .low
  | .ospDo _ => some .low
  | .ospFs _ => some .low
  | .ppsOut => some .low
  | .fsyncOut => some .low
  | .clkOut => some .low
  | .uartTx _ => some .high
  | .gpio _ => some .released
  | .i2c _ _ => some .released
  | .qspiClk => some .low
  | .qspiCsN => some .high
  | .qspiIo _ => some .released
  | .avsClk => some .high
  | .avsMdata => some .high
  | .tdo => some .released
  | .majorN => some .released
  | .minorN => some .released

/-- A ball while the boundary-scan instructions hold the device: HIGHZ releases it, and under the others it follows its cell; a ball without
one is as in any reset (R525). (DESIGN CHOICE: log entry 80.) -/
def Ctl.ballHeld (c : Ctl) (b : Ball) : Option BallState :=
  if !ballCell c.tapInstr b then ballInReset .tap b
  else if c.tapInstr = 6 then some .released
  else (c.tapCells.find? fun q => q.1 == b).map Prod.snd

/-- A level as a state. -/
def levelOf (high : Bool) : BallState := if high then .high else .low

/-- A ball as its chapter drives it after release: `none` where the state is what commands carry (frames, messages, transactions), or is not
stated (R139, R325, R458, R493, R496). (DESIGN CHOICE: log entry 80.) -/
def Ctl.ballDriven (c : Ctl) : Ball → Option BallState
  | .xoOut => some (.follows "XO_IN")
  | .ospClk k => if c.on (F.OHC_OSP_CTL_EN k) then none else some .low
  | .ospDo k => if c.on (F.OHC_OSP_CTL_EN k) then none else some .low
  | .ospFs k => if c.on (F.OHC_OSP_CTL_EN k) then none else some .low
  | .ppsOut => some (levelOf c.ppsOut)
  | .fsyncOut => some (levelOf c.fsyncOut)
  | .clkOut => some (levelOf c.clkOut)
  | .uartTx u => if c.on (F.PER_UART_CTL_EN u) && !(c.uartOf u).tx.isEmpty then none else some .high
  | .gpio n => if c.onBit F.PER_GPIO_OUT_OE n then some (levelOf (c.onBit F.PER_GPIO_OUT_OUT n)) else some .released
  | .majorN => some (if c.alarmDrive.1 then .low else .released)
  | .minorN => some (if c.alarmDrive.2 then .low else .released)
  | _ => none

/-- How a ball is driven (R507): the boundary register while its instructions hold the device, Table 18.7 during every other reset, and
else its chapter. -/
def Ctl.ball (c : Ctl) (b : Ball) : Option BallState :=
  match c.held with
  | some .tap => if tapHolds c.tapInstr then c.ballHeld b else ballInReset .tap b
  | some src => ballInReset src b
  | none => c.ballDriven b

end Sys2Proof.Machine
end

