-- ==== Sys2Proof/WellFormed.lean ====
section
/-! DEFINITION. When a command is well formed: each operand lies in the range of what it names (a lane, a master, an index, a size).
A meaning is total all the same: outside these ranges a command has no effect or is answered with an error. -/

namespace Sys2Proof

/-- An external lane (Table 1.2). -/
def laneOk (n : Nat) : Bool := decide (n < 24)

/-- A master ID (Table 1.4). -/
def masterOk (m : Nat) : Bool := decide (m < 12)

/-- An access size in bytes (R428). -/
def sizeOk (z : Nat) : Bool := z == 1 || z == 2 || z == 4 || z == 8

/-- The first page of each block of Table 17.1 and its number of pages. -/
def directory : List (Nat × Nat) :=
  [(0x000, 2), (0x008, 1), (0x010, 3), (0x018, 1), (0x020, 3), (0x024, 2), (0x030, 1), (0x038, 6), (0x040, 2), (0x048, 5), (0x050, 4),
   (0x058, 1), (0x100, 24), (0x120, 24), (0x140, 24)]

/-- A page of Table 17.1. -/
def listedPage (p : Nat) : Bool := directory.any fun q => decide (q.1 ≤ p ∧ p < q.1 + q.2)

/-- A page with a CNT_CLR register. -/
def cntClrPage (p : Nat) : Bool :=
  decide ((0x100 ≤ p ∧ p < 0x118) ∨ (0x140 ≤ p ∧ p < 0x158)) ||
  [0x008, 0x010, 0x018, 0x020, 0x022, 0x038, 0x039, 0x03A, 0x03B, 0x040, 0x041, 0x048, 0x049, 0x04C, 0x051, 0x058].contains p

/-- A page with a configuration table: HL, RL or PL (R277). -/
def tablePage (p : Nat) : Bool := decide (0x038 ≤ p ∧ p < 0x03E)

/-- The entries of a configuration table. -/
def tableSize (p : Nat) : Nat := if p < 0x03A then 1024 else if p < 0x03C then 256 else 64

/-- The key of a protection group: a slot group, or lane group j at 65,536 + j (R245). -/
def groupKeyOk (k : Nat) : Bool := decide (k < 65536 + 12)

/-- A received frame's fields have their widths (Table 3.3). -/
def frameOk (f : RxFrame) : Bool :=
  decide (f.faw < 2 ^ 32 ∧ f.mfi < 256 ∧ f.bip < 256 ∧ f.stat < 256 ∧ f.rei < 256 ∧ f.pay.cells.all (fun q => q.1 < 159000))

/-- A debug access names a core and a register that are there. -/
def debugOpOk : DebugOp → Bool
  | .halt n => decide (n < 4)
  | .resume n => decide (n < 4)
  | .gpr n r _ => decide (n < 4 ∧ r < 32)
  | .csr n a _ => decide (n < 4 ∧ a < 4096)
  | .pc n _ => decide (n < 4)

/-- The operands of a command are in range. -/
def Instr.wellFormed : Instr → Bool
  | .powerOnReset => true
  | .resetNAssert => true
  | .resetRelease b => decide (b.straps < 64)
  | .hostBootReady => true
  | .softwareReset _ => true
  | .tapInstructionUpdate code t => decide (code < 32) && t.accesses.all debugOpOk
  | .trstAssert => true
  | .perstAssert => true
  | .coreRunWrite _ => true
  | .xoLost => true
  | .wdogKickBegin m => masterOk m
  | .wdogKickComplete m => masterOk m
  | .wdogKickOther m => masterOk m
  | .wdogCtlWrite _ => true
  | .watchdogExpiry _ => true
  | .modeReqCommission => true
  | .modeReqService => true
  | .modeReqMaintenance => true
  | .modeReqUnknown req => decide (req < 8 ∧ req ≠ 1 ∧ req ≠ 2 ∧ req ≠ 4)
  | .commissionSealDone _ => true
  | .modeTransition => true
  | .signalRise n => laneOk n
  | .signalFall n => laneOk n
  | .losDeclare n => laneOk n
  | .losClear n => laneOk n
  | .cdrLock n => laneOk n
  | .cdrLockLoss n => laneOk n
  | .lolDeclare n => laneOk n
  | .lolClear n => laneOk n
  | .eqConverge n _ _ => laneOk n
  | .eqRestart n => laneOk n
  | .termLoopWrite n _ => laneOk n
  | .fawCandidateMatch n _ _ mfi _ => laneOk n && decide (mfi < 256)
  | .decisionWindowClose n _ => laneOk n
  | .frameReceive n f _ missed => laneOk n && frameOk f && missed.all fun q => decide (q.1 = 0 ∧ q.2 < 128 ∨ q.1 = 2 ∧ q.2 < 792)
  | .lofClear n _ => laneOk n
  | .bondJoin n => laneOk n
  | .errorWindowEnd n _ => laneOk n
  | .rateWrite n rate => laneOk n && decide (rate < 2)
  | .rateChange n => laneOk n
  | .rxEnableWrite n _ => laneOk n
  | .bondReformRequest n => laneOk n
  | .bondReform b => decide (1 ≤ b ∧ b ≤ 12)
  | .cntClrAll page => cntClrPage page
  | .txSourceChange n => laneOk n
  | .ffeWrite n _ => laneOk n
  | .frameBoundary wanders _ _ _ _ => wanders.all (fun q => decide (q.1 < 24))
  | .assemblyDone _ => true
  | .mobReceive n _ => laneOk n
  | .unitConflictEnd n _ => laneOk n
  | .feActiveExpire n => laneOk n
  | .mobSealDecision n _ _ => laneOk n
  | .apsMessageReceive n => laneOk n
  | .sealTxEffect n => laneOk n
  | .sealTagDeadline n _ => laneOk n
  | .ospBlock k di => decide (k < 8) && decide (di.length = 128)
  | .ringCfgWrite n i _ => laneOk n && decide (i < 4)
  | .ringPtrWrite n i ptr => laneOk n && decide (i < 4) && decide (ptr < 65536)
  | .traceExpWrite n w _ => laneOk n && decide (w < 16)
  | .standbyWindowWrite m addr size _ => masterOk m && decide (addr < 2 ^ 32) && sizeOk size
  | .connWindowRead m addr size rep fail => masterOk m && decide (addr < 2 ^ 32) && sizeOk size && decide (rep < 4) && decide (fail < 4)
  | .copyRequest => true
  | .copyDone _ _ => true
  | .sealRequest => true
  | .sealVerdict _ => true
  | .swapRequest _ _ _ _ => true
  | .swapCancel => true
  | .agreementCheck => true
  | .swapExecute => true
  | .injectArm => true
  | .badlogClear => true
  | .ledgerClaim acct amount => decide (acct < 8) && decide (amount < 2 ^ 24)
  | .ledgerRelease acct amount => decide (acct < 8) && decide (amount < 2 ^ 24)
  | .measurementScheduled => true
  | .measNow => true
  | .speedMeasurementEnd rings => decide (rings.length = 48) && rings.all (fun q => decide (0 < q.2.1))
  | .evaluation _ _ _ => true
  | .targetWrite target => decide (target < 2048)
  | .limitWrite limit => decide (limit < 65536)
  | .avsStep _ _ => true
  | .avsStepRetry _ _ => true
  | .pgApply m _ _ _ => masterOk m
  | .pgLockout m _ _ => masterOk m
  | .pgForcedSwitch m _ _ => masterOk m
  | .pgManualSwitch m _ _ => masterOk m
  | .pgClear m _ _ => masterOk m
  | .pgCmdUnknown m op _ _ => masterOk m && decide (op < 16 ∧ (op = 0 ∨ 5 < op))
  | .protTableAccess m addr size _ _ _ => masterOk m && decide (addr < 2 ^ 32) && sizeOk size
  | .groupEvaluation _ _ => true
  | .holdoffExpiry k i => groupKeyOk k && decide (i < 4)
  | .wtrExpiry k => groupKeyOk k
  | .feLostExpiry k => groupKeyOk k
  | .feMismExpiry k => groupKeyOk k
  | .lgBridgeEffect j => decide (j < 12)
  | .cfgTableLoad page => tablePage page
  | .cfgTableStore page => tablePage page
  | .cfgTableOpUnknown page op => tablePage page && decide (op < 4 ∧ op ≠ 1 ∧ op ≠ 2)
  | .cfgEntryEffect page idx => tablePage page && decide (idx < tableSize page)
  | .rlFreezeNow r => decide (r < 2)
  | .rlArm r => decide (r < 2)
  | .trigInEdge => true
  | .rlTriggerTaken r => decide (r < 2)
  | .rlPostEnd r => decide (r < 2)
  | .plSnapshotRequest p _ => decide (p < 2)
  | .plSnapshotTake p => decide (p < 2)
  | .plErrorInject p g => decide (p < 2) && decide (g < 64)
  | .measurementSecondEnd cands _ _ _ => decide (cands.length = 8)
  | .candidateWtrExpiry k => decide (k < 8)
  | .candidateAbsent k => decide (k < 8)
  | .acquireDone => true
  | .pullDone => true
  | .phaseStep _ => true
  | .tbsStep _ _ => true
  | .tbsArm _ => true
  | .incWrite _ _ _ => true
  | .slewWrite _ _ _ => true
  | .suspectClear _ _ => true
  | .slewEnd _ _ => true
  | .offsetReduced _ => true
  | .selGo _ _ => true
  | .domainValidWrite _ _ _ => true
  | .captureRead m addr _ => masterOk m && decide (addr < 0x1000000)
  | .txqPop m q => masterOk m && decide (q < 3)
  | .txqPush => true
  | .ppsInEdge _ => true
  | .ppsOutEdge _ => true
  | .ppsOutFall => true
  | .compareArm k _ _ => decide (k < 4)
  | .compareFire k _ => decide (k < 4)
  | .frameConversion _ => true
  | .mfsSelect m lane => masterOk m && decide (lane < 32)
  | .pennantReceive syms _ _ => decide (syms.length ≤ 256) && syms.all (fun x => decide (x.getD 0 < 4))
  | .pennantMissed _ => true
  | .roleEvaluation => true
  | .roleChange => true
  | .partingDecision => true
  | .partedVerdict => true
  | .byeTakeActive => true
  | .echoRecordExpire n _ => laneOk n
  | .revertWtrExpiry _ => true
  | .handoverCommit => true
  | .handoverRelease => true
  | .handoverTake => true
  | .handoverRetry _ => true
  | .latchAcquire m _ => masterOk m
  | .latchRelease m _ _ => masterOk m
  | .leaseExpiry _ _ => true
  | .slrJobsDone _ _ => true
  | .jobEnc m => masterOk m
  | .jobDec m => masterOk m
  | .jobGen m => masterOk m
  | .jobVer m => masterOk m
  | .jobOpInvalid m => masterOk m
  | .jobSegmentEnd _ _ => true
  | .keyLoad m _ => masterOk m
  | .keyZeroise m _ => masterOk m
  | .slotPolicyWrite i _ => decide (i < 48)
  | .sealKeyEffect n => laneOk n
  | .prevKeyExpire n => laneOk n
  | .engineReset m _ _ => masterOk m
  | .katDone _ => true
  | .coreTimerInterrupt n _ => decide (n < 4)
  | .defaultTargetAccess m addr size _ _ _ _ _ => masterOk m && decide (addr < 2 ^ 32) && sizeOk size
  | .dmaStarve m bank _ _ => masterOk m && decide (bank < 16)
  | .caseCfgWrite w _ => decide (w < 16)
  | .dmaGo m k => masterOk m && decide (k < 2)
  | .dmaAbort k _ _ => decide (k < 2)
  | .dmaEnd k _ => decide (k < 2)
  | .memReady cap => decide (cap < 4)
  | .mr4Update rate => decide (rate < 8)
  | .mbxSend m c => masterOk m && decide (c < 32)
  | .mbxTake m c => masterOk m && decide (c < 32)
  | .mbxClrAck m c => masterOk m && decide (c < 32)
  | .mbxDataWrite m c w _ => masterOk m && decide (c < 32) && decide (w < 16)
  | .dtClear => true
  | .pmSecondEnd _ => true
  | .pmSecondCommit => true
  | .pmBinEnd _ => true
  | .switchBinCopy _ => true
  | .pmcWrite k _ _ => decide (k < 96)
  | .pmcFreeze _ => true
  | .pmcOverflow k => decide (k < 96)
  | .notifyRingWrite => true
  | .louvreToken page evBit => listedPage page && decide (evBit < 16)
  | .logDrain _ => true
  | .switchRecordForm _ => true
  | .summaryRecord lane => decide (lane < 24)
  | .notifyRdWrite ptr => decide (ptr < 16384)
  | .evtRingCfgWrite _ => true
  | .evtEnWrite page _ => listedPage page
  | .louvreCfgWrite _ => true
  | .msixRearm _ _ => true
  | .hdrEvtClear page _ _ => listedPage page
  | .msixPendingSend v => decide (v < 64)
  | .lifDataWrite m _ misses => masterOk m && decide (misses < 3)
  | .lifDataRead m => masterOk m
  | .lifeCheckpoint _ => true
  | .faultRecordGo m => masterOk m
  | .faultRecordDone _ => true
  | .linkEnWrite _ => true
  | .linkUp speed width => decide (1 ≤ speed ∧ speed ≤ 4) && decide (1 ≤ width ∧ width ≤ 2)
  | .linkDown => true
  | .hostReadRequest bar _ _ _ _ _ => decide (bar < 6)
  | .hostWriteRequest bar _ be data _ _ _ => decide (bar < 6) && decide (data.length = be.length)
  | .powerStateChange _ => true
  | .registerWrite m addr _ _ => masterOk m && decide (addr < 0x1000000 ∧ addr % 4 = 0)
  | .uartDataWrite u _ => decide (u < 2)
  | .uartDataRead u => decide (u < 2)
  | .uartByteReceive u _ _ _ => decide (u < 2)
  | .i2cGo i _ => decide (i < 4)
  | .i2cDone i result _ _ => decide (i < 4) && decide (1 ≤ result ∧ result ≤ 6)
  | .qspiGo _ => true
  | .qspiDone data => decide (data.length ≤ 256)
  | .gpioChange n _ => decide (n < 16)
  | .perstDeassert => true
  | .uartByteTransmit u => decide (u < 2)
  | .configWriteRequest _ _ _ _ bars => bars.all fun q => decide (q.1 % 4 = 0 ∧ q.1 < 4096)
  | .starvationWindowLapse _ => true

end Sys2Proof
end

