-- ==== Sys2Proof/Safety.lean ====
section
/-! DEFINITION. What counts as a safe step and a safe state, and how far a step may reach, in the terms that claims use. -/

namespace Sys2Proof.Machine

/-- The addressed memories are in their canonical form. -/
def State.MemCanonical (s : State) : Prop := Memory.wf s.mem = true

/-- A side's tables are in their canonical form: keys strictly rising, and no entry equal to what an unlisted one reads as. -/
def PageSet.wf (p : PageSet) : Bool := twf p.entries aisEntry && twf p.sels 0 && twfFrom none p.badS

/-- The connection pages, the selector tables and the held bytes are in their canonical form. -/
def State.PagesCanonical (s : State) : Prop := s.xc.set0.wf = true ∧ s.xc.set1.wf = true ∧ twfFrom none s.xc.heldBytes = true

/-- `t` is `u` but for the performance counters, which settle after every command (R455). -/
def State.Is (u t : State) : Prop := ∃ p, t = { u with ctl := { u.ctl with pmc := p } }

/-- The registers in which the event engine leaves its marks when events of some pages are raised (R460, R461, R463): HDR_EVT of those
pages and of the EVT page, the sequence number, and the counts of dropped and suppressed records. -/
def eventReg (pages : List Nat) (a : Nat) : Bool :=
  [R.EVT_SEQ, R.EVT_CNT_DROP, R.EVT_CNT_SUPP, R.HDR_EVT 0x051].contains a || pages.any (fun p => a == R.HDR_EVT p)

/-- An event bit of a page is set. -/
def Ctl.evBit (c : Ctl) (page evBit : Nat) : Bool := bit (c.reg (R.HDR_EVT page)).toNat evBit

/-- `t` is `u` but for what raising events of some pages does and for some registers: event bits are only added, records are formed, and
every other register reads as in `u`. -/
def State.IsBut (pages addrs : List Nat) (u t : State) : Prop :=
  (∃ r e p, t = { u with ctl := { u.ctl with regs := r, ev := e, pmc := p } }) ∧
  (∀ a, eventReg pages a = false → a ∉ addrs → t.ctl.reg a = u.ctl.reg a) ∧
  (∀ p b, u.ctl.evBit p b = true → t.ctl.evBit p b = true)

/-- `t` is `u` but for some registers. -/
def State.IsRegs (addrs : List Nat) (u t : State) : Prop :=
  (∃ r p, t = { u with ctl := { u.ctl with regs := r, pmc := p } }) ∧ ∀ a, a ∉ addrs → t.ctl.reg a = u.ctl.reg a

/-- The memories, the pages, the data path and the queue are as they were. -/
def State.DataKept (s t : State) : Prop := t.pending = s.pending ∧ t.mem = s.mem ∧ t.xc = s.xc ∧ t.dp = s.dp

/-- A command completes with a next state that has a property. -/
def Completes (i : Instr) (s : State) (p : State → Prop) : Prop := ∃ t, exec i s = .next t ∧ p t

/-- A command answers a next state that is `u` but for the performance counters. -/
def Gives (i : Instr) (s u : State) : Prop := Completes i s u.Is

/-- A command answers a next state that is `u` but for one event, which is marked. -/
def GivesEvent (i : Instr) (s : State) (page evBit : Nat) (u : State) : Prop :=
  Completes i s fun t => State.IsBut [page] [] u t ∧ t.ctl.evBit page evBit = true

/-- The registers in which the default target logs (R429). -/
def dtRegs : List Nat := [R.MTX_DT_FIRST_ADDR, R.MTX_DT_FIRST_INFO, R.MTX_DT_LAST_ADDR, R.MTX_DT_LAST_INFO, R.MTX_DT_CNT]

/-- What an error response does to the cores: the core that made the access takes an access fault, with mtval holding the address (R418);
every other core, and all cores for another master, are as they were. -/
def Ctl.CoreFaulted (m addr : Nat) (c d : Ctl) : Prop :=
  (∀ n, n ≠ m → d.hart n = c.hart n) ∧ (4 ≤ m → d.harts = c.harts ∧ d.free = c.free) ∧
  (m < 4 → ∃ u : PmpUse, ∃ epc, d.hart m = (c.hart m).trap u.fault epc (addr % 2 ^ 32) 0)

/-- An access is answered with an error response and logged by the default target as the last one, with its address, its master and a
CAUSE, and a core that made it takes the access fault; nothing else changes but the registers listed and the events of the pages
listed. -/
def State.Refused (m addr cause : Nat) (pages addrs : List Nat) (s t : State) : Prop :=
  (∃ h f, State.IsBut (0x04B :: pages) (dtRegs ++ addrs) { s with ctl := { s.ctl with answer := .error, harts := h, free := f } } t) ∧
  s.ctl.CoreFaulted m addr t.ctl ∧ t.ctl.evBit 0x04B 0 = true ∧
  t.ctl.reg R.MTX_DT_LAST_ADDR = BitVec.ofNat 32 addr ∧ t.ctl.get F.MTX_DT_LAST_INFO_MASTER = m % 16 ∧
  t.ctl.get F.MTX_DT_LAST_INFO_CAUSE = cause ∧ t.ctl.on F.MTX_DT_FIRST_INFO_VALID = true

/-- A master may make an access that a row names it for: it issues accesses, a core is not in WFI, and a core's access is aligned and
permitted by its protection (R303, R416 to R418). -/
abbrev Ctl.MayAct (m addr size : Nat) (write : Bool) (c : Ctl) : Prop :=
  c.issues m = true ∧ (m < 4 → bit c.coreWfi m = false ∧ (size ≤ 4 → addr % max 1 size = 0) ∧
    (c.hart m).pmpPermits (if write then .store else .load) addr size = true)

/-- The same for an access to a register page, at page × 0x1000 + offset. -/
abbrev Ctl.MayReg (m a : Nat) (write : Bool) (c : Ctl) : Prop := c.MayAct m (0x20000000 + a) 4 write

/-- A command that is one access of a master to a place: the master, the address, the size in bytes, and whether it writes. -/
def accessOf : Instr → Option (Nat × Nat × Nat × Bool)
  | .wdogKickBegin m | .wdogKickComplete m | .wdogKickOther m => some (m, 0x20000000 + R.TOP_WDOG_KICK, 4, true)
  | .registerWrite m a _ _ => some (m, 0x20000000 + a, 4, true)
  | .pgApply m _ _ _ | .pgLockout m _ _ | .pgForcedSwitch m _ _ | .pgManualSwitch m _ _ | .pgClear m _ _ | .pgCmdUnknown m _ _ _ =>
    some (m, 0x20000000 + R.PGS_CMD, 4, true)
  | .captureRead m a _ => some (m, 0x20000000 + a, 4, false)
  | .txqPop m q => some (m, 0x20000000 + R.TBS_TXQ_W0 q, 4, false)
  | .mfsSelect m _ => some (m, 0x20000000 + R.TBS_MFS_SEL, 4, true)
  | .latchAcquire m _ => some (m, 0x20000000 + R.CIP_LATCH, 4, false)
  | .latchRelease m _ _ => some (m, 0x20000000 + R.CIP_LATCH, 4, true)
  | .jobEnc m | .jobDec m | .jobGen m | .jobVer m | .jobOpInvalid m => some (m, 0x20000000 + R.CIP_JOB_GO, 4, true)
  | .keyLoad m _ | .keyZeroise m _ => some (m, 0x20000000 + R.CIP_KEY_CTL, 4, true)
  | .engineReset m _ _ => some (m, 0x20000000 + R.CIP_RESET, 4, true)
  | .dmaGo m k => some (m, 0x20000000 + R.DMA_CTL k, 4, true)
  | .mbxSend m i | .mbxTake m i | .mbxClrAck m i => some (m, 0x20000000 + R.MBX_CH i, 4, true)
  | .mbxDataWrite m i w _ => some (m, 0x20000000 + R.MBX_DATA i w, 4, true)
  | .lifDataWrite m _ _ => some (m, 0x20000000 + R.LIF_DATA, 4, true)
  | .lifDataRead m => some (m, 0x20000000 + R.LIF_DATA, 4, false)
  | .faultRecordGo m => some (m, 0x20000000 + R.LIF_FAULT_GO, 4, true)
  | .connWindowRead m a z _ _ => some (m, a, z, false)
  | .standbyWindowWrite m a z _ => some (m, a, z, true)
  | .protTableAccess m a z w _ _ => some (m, a, z, w)
  | _ => none

/-- A master makes an access at a tick, where the control state is then `c`. It issues accesses; a core has first done what it brings and is
not then held by WFI, the access is aligned, and its protection permits it (R416 to R418). -/
abbrev Ctl.Accesses (m addr size tick : Nat) (write : Bool) (core : CoreIn) (s c : Ctl) : Prop :=
  (4 ≤ m ∧ s.issues m = true ∧ s.advTo tick = c) ∨
  (m < 4 ∧ s.issues m = true ∧ core.ops.foldl (Ctl.coreOp m) ((s.advTo tick).wakeCore m) = c ∧ c.issues m = true ∧ core.instr = none ∧
    addr % (if core.fetch then 2 else max 1 size) = 0 ∧
    (c.hart m).pmpPermits (if write then .store else if core.fetch then .fetch else .load) addr size = true)

/-- The event pages of the external lanes' receive sides. -/
def rxPages : List Nat := (List.range 24).map (0x100 + ·)

/-- An access has been answered with an error response, which the default target logs as the last one. -/
def Ctl.Logged (m addr cause : Nat) (c : Ctl) : Prop :=
  c.answer = .error ∧ c.evBit 0x04B 0 = true ∧ c.reg R.MTX_DT_LAST_ADDR = BitVec.ofNat 32 addr ∧
  c.get F.MTX_DT_LAST_INFO_MASTER = m % 16 ∧ c.get F.MTX_DT_LAST_INFO_CAUSE = cause

/-- A write through a STANDBY window has completed: it is answered, a running seal is abandoned and a verdict ends, and nothing differs but
the STANDBY set, CMP_STAT and LGR_STAT (R200, Table 7.1). -/
def State.StandbyWritten (s t : State) : Prop :=
  t.ctl.answer = .data 0 ∧ t.xc.active = s.xc.active ∧ t.xc.act1 = s.xc.act1 ∧ t.xc.prot = s.xc.prot ∧ t.mem = s.mem ∧ t.dp = s.dp ∧
  t.pending = s.pending ∧ (s.ctl.get F.CMP_STAT_STATE = 1 → t.ctl.get F.CMP_STAT_STATE = 0 ∧ t.ctl.on F.CMP_STAT_SEAL_ABORTED = true) ∧
  (s.ctl.get F.CMP_STAT_STATE = 2 → t.ctl.get F.CMP_STAT_STATE = 0 ∧ t.ctl.get F.CMP_STAT_VERDICT = 0) ∧
  ∀ r, r ∉ [R.CMP_STAT, R.LGR_STAT] → t.ctl.reg r = s.ctl.reg r

/-- The entries of a side, and their marks, are as before but for some; the selectors are as before. -/
def PageSet.ButEntries (keys : List Nat) (p q : PageSet) : Prop :=
  (∀ j, j ∉ keys → q.entry j = p.entry j ∧ q.badE.contains j = p.badE.contains j) ∧ q.sels = p.sels ∧ q.badS = p.badS

/-- The selectors of a side, and their marks, are as before but for one; the entries are as before. -/
def PageSet.ButSelector (i : Nat) (p q : PageSet) : Prop :=
  (∀ j, j ≠ i → q.selector j = p.selector j ∧ tfind q.badS j = tfind p.badS j) ∧ q.entries = p.entries ∧ q.badE = p.badE

/-- The sequence that a MOB stands for, from S_last, the high half that is set, and its SEAL_SEQ; it is no replay (R160). -/
abbrev SequenceOf (last : Option Nat) (hi low q : Nat) : Prop :=
  (match last with
  | none => decide (q = hi * 2 ^ 32 + low)
  | some z => decide ((low + 2 ^ 32 - z % 2 ^ 32) % 2 ^ 32 ≠ 0 ∧ (low + 2 ^ 32 - z % 2 ^ 32) % 2 ^ 32 ≤ 2 ^ 31 ∧
      q = z + (low + 2 ^ 32 - z % 2 ^ 32) % 2 ^ 32)) = true

/-- The protection groups are as they were but for their hold-off timers. -/
def Ctl.GroupsKept (c d : Ctl) : Prop :=
  d.groups.map (fun q => (q.1, { q.2 with hold := [] })) = c.groups.map (fun q => (q.1, { q.2 with hold := [] }))

/-- How far a command on receive lane `n` reaches: that lane's receive side and overhead, the protection queue and the groups' hold-off
timers, the recorder triggers, the lane's PM second, the events of its page, and the registers listed. -/
def State.LaneStep (n : Nat) (addrs : List Nat) (s t : State) : Prop :=
  (∃ rx oh gs q tr acc r e p, t = { s with ctl := { s.ctl with
    rx := rx, oh := oh, groups := gs, pgQueue := q, rlTrig := tr, pmAcc := acc, regs := r, ev := e, pmc := p } }) ∧ s.ctl.GroupsKept t.ctl ∧
  (∀ m, m ≠ n → t.ctl.lrx m = s.ctl.lrx m ∧ t.ctl.loh m = s.ctl.loh m ∧ tget t.ctl.pmAcc m {} = tget s.ctl.pmAcc m {}) ∧
  (∀ a, eventReg [0x100 + n] a = false → a ∉ addrs → t.ctl.reg a = s.ctl.reg a) ∧
  (∀ p b, s.ctl.evBit p b = true → t.ctl.evBit p b = true)

/-- How far a change of mode and service role reaches: the mode, what it holds, ARM's allowances, terminal loops that are made or opened
with the lanes' monitors, the groups' hold-off timers, the judgement of the accounts, and the registers listed. -/
def State.ModeStep (m : Mode) (r : SvcRole) (addrs : List Nat) (s t : State) : Prop :=
  (∃ aa ab rx oh gs q tr acc g e p, t = { s with ctl := { s.ctl with
    mode := m, svc := r, modePend := none, leftBoot := s.ctl.leftBoot || s.ctl.mode == .boot
    tb := { s.ctl.tb with a := { s.ctl.tb.a with armed := aa }, b := { s.ctl.tb.b with armed := ab } }
    rx := rx, oh := oh, groups := gs, pgQueue := q, rlTrig := tr, pmAcc := acc, regs := g, ev := e, pmc := p } }) ∧ s.ctl.GroupsKept t.ctl ∧
  (∀ n, (s.ctl.lrx n).looped = t.ctl.loopWanted n → t.ctl.lrx n = s.ctl.lrx n ∧ t.ctl.loh n = s.ctl.loh n) ∧
  (∀ a, eventReg (0x000 :: 0x024 :: rxPages) a = false → a ∉ R.LGR_STAT :: addrs → t.ctl.reg a = s.ctl.reg a) ∧
  (∀ p b, s.ctl.evBit p b = true → t.ctl.evBit p b = true)

/-- How far the judgement of a change of the pair reaches: the moments of the revert timer, PHASE_VALID and UPR_PHASE, and the timing
management unit with its events. -/
def State.PairMoves (u t : State) : Prop :=
  (∃ w x m f r e p, t = { u with ctl := { u.ctl with
    pair := { u.ctl.pair with wtrEnd := w, hoRetry := x }, tmu := m, free := f, regs := r, ev := e, pmc := p } }) ∧
  (∀ a, eventReg [0x010] a = false → a / 0x1000 ≠ 0x010 → a ∉ [R.UPR_STAT, R.UPR_PHASE] → t.ctl.reg a = u.ctl.reg a) ∧
  ∀ p b, u.ctl.evBit p b = true → t.ctl.evBit p b = true

/-- A transition has taken effect, and the pair is judged again. -/
def State.ModeMoved (m : Mode) (r : SvcRole) (addrs : List Nat) (s t : State) : Prop := ∃ u, s.ModeStep m r addrs u ∧ u.PairMoves t

/-- What a system reset from a source leaves of the control state: every register but TOP_STRAPS at its reset value and all else as after
power-up, except what balls, the test port, the vendor identity and the life record's device-side copies hold, with the moment at which
the power-on hour ends, the message last sent on the Halyard link, and the model's counter of free values (Table 2.4, R46). -/
def Ctl.AfterReset (src : ResetSource) (c d : Ctl) : Prop :=
  ∃ out f, f ≤ c.free + 2 ∧
    d = { regs := [(R.TOP_STRAPS, c.reg R.TOP_STRAPS)], held := some src, heldXoLost := c.xoLost || (c.held.isSome && c.heldXoLost)
          perstSeen := c.perstSeen && src != .por, perstLow := c.perstLow, tapInstr := if src = .por then 1 else c.tapInstr
          tapCells := if src = .por then [] else c.tapCells, gpioIn := c.gpioIn
          free := f, subsys := c.subsys, pair := { out := out, hyRa := c.pair.hyRa }
          life := if src = .por then {} else { c.life with fault := none, hourEnd := c.life.hourEnd - c.mtime } }

/-- What a system reset that is not a power-on reset leaves of the memories: everything, but that the LPDDR4X is lost when XO_LOST was
present, and that the device out of reset stores its count of RECOVERY entries, of which a worn word keeps nothing certain (Table 2.4, R467). -/
def State.MemAfterReset (s t : State) : Prop :=
  ∃ v, let m := if s.ctl.live then s.mem.mramPut lifRecoveries s.ctl.life.recoveries else s.mem
    let n := if s.ctl.live && s.mem.mramWorn.contains lifRecoveries then m.mramPut lifRecoveries v else m
    t.mem = if t.ctl.heldXoLost then { n with ddr := [], poison := [] } else n

/-- What PGS_CMD_STAT reports of a command (R260). -/
def Ctl.CmdStat (result op : Nat) (lg : Bool) (m g : Nat) (c : Ctl) : Prop :=
  c.get F.PGS_CMD_STAT_RESULT = result % 16 ∧ c.get F.PGS_CMD_STAT_OP = op % 16 ∧ c.on F.PGS_CMD_STAT_LG = lg ∧
  c.get F.PGS_CMD_STAT_MASTER = m % 16 ∧ c.get F.PGS_CMD_STAT_GROUP = g % 65536

/-- The configuration that a group's stored words give, and whether a reserved bit is set in them (R246). -/
def State.groupWords (s : State) (lg : Bool) (g : Nat) : Group × Bool :=
  if lg then laneConfig (s.ctl.reg (R.PGS_LG_CFG_A g)).toNat (s.ctl.reg (R.PGS_LG_CFG_B g)).toNat
  else slotConfig (tget s.xc.prot (4 * g) 0) (tget s.xc.prot (4 * g + 1) 0) (tget s.xc.prot (4 * g + 2) 0)

/-- A configuration with EN = 1 is legal by itself (R262, step 3). -/
abbrev Group.Legal (lg : Bool) (g : Group) : Prop :=
  g.w ≤ (if lg then 23 else 29) ∧ g.p ≤ (if lg then 23 else 29) ∧ (g.bidir = true → g.apsLane ≤ 23) ∧ g.holdoff ≤ 1000 ∧
  (g.revert = true → 1 ≤ g.wtr ∧ g.wtr ≤ 720) ∧ (g.monEn = true → 8 ≤ g.monN ∧ g.monN ≤ 64) ∧ (lg = true → g.w ≠ g.p)

/-- Another configured lane group uses a lane that a configuration names (R262, step 4). -/
abbrev Ctl.LaneTaken (c : Ctl) (k : Nat) (g : Group) : Prop :=
  ∃ q ∈ c.groups, lgBase ≤ q.1 ∧ q.1 ≠ k ∧ q.2.en = true ∧ (q.2.w = g.w ∨ q.2.p = g.w ∨ q.2.w = g.p ∨ q.2.p = g.p)

/-- The local request of a group after an evaluation, by Table 9.2, and where no command or condition holds one by Table 9.3 (R256, R258,
R259); `h` is the group after it, at a moment. -/
def Group.Requests (g h : Group) (now : Nat) : Prop :=
  (g.cmd = 1 → h.req = 0xF) ∧ (g.cmd = 2 → h.req = 0xE) ∧
  (g.cmd ≠ 1 → g.cmd ≠ 2 →
    (h.cond 2 = true → h.req = 0xD) ∧ (h.cond 2 = false → h.cond 0 = true → h.req = 0xB) ∧
    (h.cond 2 = false → h.cond 0 = false → h.cond 1 = true → h.cond 3 = false → h.req = 0x9) ∧
    (h.cond 2 = false → h.cond 0 = false → (h.cond 1 = false ∨ h.cond 3 = true) →
      (g.cmd = 3 → h.req = 0x7) ∧
      (g.cmd ≠ 3 →
        (g.req = 0xB ∨ g.req = 0x9 → (g.revert = true → h.req = 0x5 ∧ h.wtrEnd = some (now + g.wtr * secondTicks)) ∧ (g.revert = false → h.req = 0x1)) ∧
        (g.req = 0xE ∨ g.req = 0x7 → h.req = if g.revert then 0x0 else 0x1) ∧
        (g.req = 0x5 → (g.wtrEnd.isSome = true → h.req = 0x5 ∧ h.wtrEnd = g.wtrEnd) ∧ (g.wtrEnd = none → h.req = 0x0)) ∧
        (g.req = 0x1 → h.req = 0x1) ∧ (g.req = 0xF ∨ g.req = 0xD ∨ g.req = 0x0 → h.req = 0x0)))) ∧
  (h.req ≠ 0x5 → h.wtrEnd = none) ∧ h.cmd = (if g.cmd = 3 ∧ (h.req = 0xD ∨ h.req = 0xB ∨ h.req = 0x9) then 0 else g.cmd)

/-- The selection of a group as its request calls for, and of a bidirectional one as the higher of its request and the far end's does, where
FE_LOST makes the far end's NR, and RR counts as NR (R256, R257, R266). -/
def Group.Selects (g h : Group) : Prop :=
  ∀ fe, fe = (if g.bidir = false ∨ g.feLost = true ∨ g.feReq = 2 then 0 else g.feReq) →
    h.sel = [0xE, 0xB, 0x9, 0x7, 0x5, 0x1].contains (if h.req < fe then fe else h.req)

/-- The status register of a configuration table (R277). -/
def cfgStat (page : Nat) : Nat :=
  if page < 0x3A then R.HL_CIR_STAT (page - 0x38) else if page < 0x3C then R.RL_SET_STAT (page - 0x3A) else R.PL_GRP_STAT (page - 0x3C)

/-- RESULT of a configuration table (Table 10.1). -/
def Ctl.cfgRes (c : Ctl) (page : Nat) : Nat := wGet (c.reg (cfgStat page)) 31 28

/-- The data words of a configuration table. -/
def Ctl.cfgData (c : Ctl) (page : Nat) : List Nat := (cfgRegs page).map fun a => (c.reg a).toNat

/-- A store has been accepted: RESULT is 1, entry IDX holds the words, and every other entry is as before; nothing but the tables and
registers differs. -/
def State.CfgStored (page : Nat) (w : List Nat) (s t : State) : Prop :=
  (∃ hl rl pl r p, t = { s with ctl := { s.ctl with hl := hl, rl := rl, pl := pl, regs := r, pmc := p } }) ∧ t.ctl.cfgRes page = 1 ∧
  t.ctl.cfgWords page (s.ctl.cfgIdx page) = w ∧
  ∀ q i, 0x38 ≤ q → q < 0x3E → i < tableSize q → ¬ (q = page ∧ i = s.ctl.cfgIdx page) → t.ctl.cfgWords q i = s.ctl.cfgWords q i

/-- One bit enters a CRC-8 register: the generator x⁸ + x² + x + 1 is taken away where the bit that leaves differs from it (R97). -/
def crc8Bit (r : Byte) (b : Bool) : Byte := if r.msb != b then r <<< 1 ^^^ 0x07 else r <<< 1

/-- The CRC-8 of bytes, each with its most significant bit first, from a register of all ones and without a complement (R97). -/
def crc8Of (l : List Byte) : Byte := l.foldl (fun r b => [7, 6, 5, 4, 3, 2, 1, 0].foldl (fun r i => crc8Bit r (b.getLsbD i)) r) 0xFF

/-- A mailbox channel has a valid binding: two different endpoints among the cores and the host (R437). -/
abbrev Ctl.Bound (i : Nat) (c : Ctl) : Prop :=
  c.on (F.MBX_BIND_EN i) = true ∧ c.get (F.MBX_BIND_A i) ≤ 4 ∧ c.get (F.MBX_BIND_B i) ≤ 4 ∧ c.get (F.MBX_BIND_A i) ≠ c.get (F.MBX_BIND_B i)

/-- A master is an endpoint of a mailbox channel. -/
abbrev Ctl.EndpointOf (m i : Nat) (c : Ctl) : Prop := m = c.get (F.MBX_BIND_A i) ∨ m = c.get (F.MBX_BIND_B i)

/-- Bytes `[a, a + z)` have been written by another master than a core: the cores are as they were, but that a reservation on any of those
bytes has ended. -/
def Ctl.ResvBroken (a z : Nat) (c d : Ctl) : Prop :=
  ∀ n, n < 4 → d.hart n = { c.hart n with resv := (c.hart n).resv.filter fun r => !decide (0 < z ∧ a < r + 4 ∧ r < a + z) }

/-- Twice the ensemble median of a second (R307). -/
def Ctl.secondMedian (c : Ctl) (vals : List (Option (Int × Nat))) : Option Int :=
  med2Of ((allCands.map (c.candValues vals)).filterMap (·.map Prod.fst))

/-- How far the timing management unit reaches: its own state, its page and the events of its page; all else is as in `u`. -/
def State.TmuStep (s : State) (u : Ctl) (t : State) : Prop :=
  (∃ m f r e p, t = { s with ctl := { u with tmu := m, free := f, regs := r, ev := e, pmc := p } }) ∧
  (∀ a, eventReg [0x010] a = false → a / 0x1000 ≠ 0x010 → t.ctl.reg a = u.reg a) ∧ ∀ p b, u.evBit p b = true → t.ctl.evBit p b = true

/-- How far the timebase reaches: its own state, the stamps in MOBs that are to be sent, the registers listed and the events of its page; all
else is as in `u`. -/
def State.TbsStep (addrs : List Nat) (u : Ctl) (s t : State) : Prop :=
  (∃ b x r e p, t = { s with ctl := { u with tb := b, tx := x, regs := r, ev := e, pmc := p } }) ∧
  (∀ n, { t.ctl.ltx n with mob := [] } = { u.ltx n with mob := [] }) ∧
  (∀ a, eventReg [0x011] a = false → a ∉ addrs → t.ctl.reg a = u.reg a) ∧ ∀ p b, u.evBit p b = true → t.ctl.evBit p b = true

/-- A hand-over has been proposed for the fourth multiframe boundary that comes (R381); all else is as in `c`. -/
def State.Proposed (c : Ctl) (s t : State) : Prop :=
  State.IsRegs [R.UPR_STAT, R.UPR_HO] { s with ctl := { c with pair := { c.pair with
    ho := .proposed, hoH := (c.fnN / 32 + 4) * 32 % 2 ^ 32, hoSeen := false, wtrEnd := none, hoRetry := none } } } t ∧
  t.ctl.on F.UPR_STAT_HO_PEND = true ∧ t.ctl.get F.UPR_HO_FN = (c.fnN / 32 + 4) * 32 % 2 ^ 32 ∧ t.ctl.pstate = c.pstate

/-- The key on which a first segment runs: the staged key of its slot, or the one in force (R396). -/
def Ctl.jobKey (c : Ctl) : Option KeyVal :=
  let k := c.slot (c.get F.CIP_JOB_CTL_SLOT)
  match k.staged with
  | some v => some v
  | none => k.key

/-- A first segment of an operation has been accepted for a master with an IV (R385 to R387): it runs on the slot's key over the ranges
of the job registers, and nothing but the engine, its registers, and the slot's reservation in the life record differs, with the event of a
word that fails there (R467). -/
def State.JobStarted (m op : Nat) (iv : List Byte) (s t : State) : Prop :=
  (∃ q r e p f mem, t = { s with mem := { s.mem with mram := mem }, ctl := { s.ctl with cip := q, regs := r, ev := e, pmc := p, free := f } }) ∧
  t.ctl.on F.CIP_JOB_STAT_BUSY = true ∧ t.ctl.get F.CIP_JOB_STAT_RESULT = 0 ∧ t.ctl.get F.CIP_JOB_DONE_BYTES = 0 ∧ t.ctl.jobIv = iv ∧
  ∃ g, t.ctl.cip.seg = some g ∧ g.master = m ∧ g.aad = s.ctl.get F.CIP_JOB_AAD_VALUE ∧ g.aadLen = s.ctl.get F.CIP_JOB_AADLEN_VALUE ∧
    g.src = s.ctl.get F.CIP_JOB_SRC_VALUE ∧ g.dst = s.ctl.get F.CIP_JOB_DST_VALUE ∧ g.len = s.ctl.segLenOf op ∧ g.ctx.op = op ∧
    g.ctx.iv = iv ∧ g.ctx.key = (s.ctl.jobKey.getD ⟨[], 0, false⟩).bytes ∧ g.ctx.slot = s.ctl.get F.CIP_JOB_CTL_SLOT

/-- The arguments of a first segment are refused with RESULT 6: a length that is no multiple of 16 in a segment that is not the last, the
reserved TAGLEN, a held DEC of more than one segment or than 65,536 bytes, or output that partly overlaps what is read (R386, R387, R402). -/
abbrev Ctl.BadArguments (op : Nat) (c : Ctl) : Prop :=
  (c.on F.CIP_JOB_CTL_LAST = false ∧ (c.get F.CIP_JOB_AADLEN_VALUE % 16 ≠ 0 ∨ c.get F.CIP_JOB_LEN_VALUE % 16 ≠ 0)) ∨
  c.get F.CIP_JOB_CTL_TAGLEN = 3 ∨
  (op = 2 ∧ c.on F.CIP_JOB_CTL_POLICY = false ∧ (c.on F.CIP_JOB_CTL_LAST = false ∨ 65536 < c.get F.CIP_JOB_LEN_VALUE)) ∨
  ((op = 1 ∨ op = 2) ∧
    ((c.get F.CIP_JOB_DST_VALUE ≠ c.get F.CIP_JOB_SRC_VALUE ∧
      c.get F.CIP_JOB_DST_VALUE < c.get F.CIP_JOB_SRC_VALUE + c.get F.CIP_JOB_LEN_VALUE ∧
      c.get F.CIP_JOB_SRC_VALUE < c.get F.CIP_JOB_DST_VALUE + c.get F.CIP_JOB_LEN_VALUE) ∨
     (0 < c.get F.CIP_JOB_LEN_VALUE ∧ 0 < c.get F.CIP_JOB_AADLEN_VALUE ∧
      c.get F.CIP_JOB_DST_VALUE < c.get F.CIP_JOB_AAD_VALUE + c.get F.CIP_JOB_AADLEN_VALUE ∧
      c.get F.CIP_JOB_AAD_VALUE < c.get F.CIP_JOB_DST_VALUE + c.get F.CIP_JOB_LEN_VALUE)))

/-- The slot of a first segment may be used by the master: a software slot whose USE names it (Table 14.3, R395). -/
abbrev Ctl.SlotFor (m : Nat) (c : Ctl) : Prop :=
  24 ≤ c.get F.CIP_JOB_CTL_SLOT ∧ c.get F.CIP_JOB_CTL_SLOT < 47 ∧ c.onBit (F.CIP_SLOT_POL_USE (c.get F.CIP_JOB_CTL_SLOT)) m = true

/-- The tag of a job whose last segment takes these bytes of AAD and these of ciphertext (R386). -/
def Segment.tagOf (g : Segment) (aad text : List Byte) : List Byte :=
  let k := aesKey g.ctx.key
  let h := k.hashKey
  (k.tag g.ctx.iv h (ghash h (ghash h g.ctx.hash (padBlocks aad)) (padBlocks text)) (g.ctx.aadLen + g.aadLen)
    (g.ctx.dataLen + g.len)).take g.ctx.tagLen

/-- The output of the next block of a job from its input, of at most 16 bytes: the keystream of the IV (R386). -/
def Segment.blockOut (g : Segment) (l : List Byte) : List Byte := (aesKey g.ctx.key).ctr g.ctx.iv 1 (2 + g.ctx.dataLen / 16) l

/-- A load or zeroise is refused with a RESULT: event 6 of the CIP page, and nothing else but CIP_KEY_STAT. -/
def State.KeyRefused (result i : Nat) (s t : State) : Prop :=
  s.IsBut [0x040] [R.CIP_KEY_STAT] t ∧ t.ctl.get F.CIP_KEY_STAT_RESULT = result ∧ t.ctl.get F.CIP_KEY_STAT_SLOT = i ∧ t.ctl.evBit 0x040 6 = true

/-- A key has been staged in a slot under an epoch, which the life record stores with a fresh reservation (R396, R400), or raises MRAM_FAIL
where the word is worn (R467); the first transmit mask of a sealed lane is requested (R409). -/
def State.KeyLoaded (i epoch : Nat) (side : Bool) (key : List Byte) (s t : State) : Prop :=
  t.pending = s.pending ∧ (∃ l, t.mem = { s.mem with mram := l }) ∧ t.xc = s.xc ∧ t.dp = s.dp ∧
  (s.mem.mramWorn = [] → t.mem = (s.mem.putEpoch i epoch side).putResv i 65536) ∧
  (s.mem.mramWorn.contains (nonceArea i) = true → t.ctl.evBit 0x053 2 = true ∧ t.ctl.on F.LIF_STAT_WFAIL = true) ∧
  (t.ctl.slot i).staged = some ⟨key, epoch, side⟩ ∧ (t.ctl.slot i).key = (s.ctl.slot i).key ∧ (t.ctl.slot i).epoch = epoch ∧
  (t.ctl.slot i).exhausted = false ∧ (24 ≤ i → (t.ctl.slot i).ctr = 0) ∧ (∀ j, j ≠ i → t.ctl.slot j = s.ctl.slot j) ∧
  t.ctl.get F.CIP_KEY_STAT_RESULT = 1 ∧ t.ctl.get F.CIP_KEY_STAT_SLOT = i ∧ (∀ w, w < 8 → t.ctl.reg (R.CIP_KEY_W w) = 0) ∧
  (i < 24 → s.ctl.on (F.LOH_SEAL_TX_EN i) = true → t.ctl.cip.pend.contains ⟨i, 4, 1⟩ = true) ∧
  ∀ a, a ∉ R.CIP_KEY_STAT :: R.SLR_WAIT :: (List.range 8).map R.CIP_KEY_W → (s.mem.mramWorn = [] ∨ (eventReg [0x053] a = false ∧ a ≠ R.LIF_STAT)) →
    t.ctl.reg a = s.ctl.reg a

/-- A system reset that is not a power-on reset has taken effect. -/
def State.ResetFrom (src : ResetSource) (s t : State) : Prop :=
  s.ctl.AfterReset src t.ctl ∧ s.MemAfterReset t ∧ t.pending = s.pending ∧ t.xc = {} ∧ t.dp = {}

end Sys2Proof.Machine
end

