-- ==== Sys2Proof/Certificates/Slice0/Obligations.lean ====
section
/-! DEFINITION. The statements for the provers, from the spec's rules. -/

open Sys2Proof Sys2Proof.Machine

/-! ### Structure -/

/-- For every command and every state, a step with the command at the front of the queue is exec of that command on the state with the rest of the queue.
On an empty queue a step answers the same state (the model's choice, log entry 1). (98_reader.md; 95_what_each_step_holds.md) -/
def Obligations.StepRunsFrontCommand : Prop :=
  (∀ (c : Instr) (rest : List Instr) (s : State), step { s with pending := c :: rest } = exec c { s with pending := rest }) ∧
  (∀ s : State, s.pending = [] → step s = .next s)

/-- For every command and every state, exec answers a next state, which holds the same queue of waiting commands: nothing that may be asked of the block
stops the model. Operands out of their range and rows that are not due are commands too, and are answered with a next state. Its clauses keep the
model's own choices of log entries 2, 5, 6. (00_scope.md: Notation and conventions) -/
def Obligations.CommandsAnswerAndKeepQueue : Prop :=
  ∀ (i : Instr) (s : State), ∃ t, exec i s = .next t ∧ t.pending = s.pending

/-- From every state whose memories are in their canonical form (addresses strictly rising, no listed byte equal to what an unlisted one reads as,
poisoned lines strictly rising), every step that answers a next state answers one whose memories are in that form. (15_cores_and_memory.md: On-die
memories; 16_monitoring.md: The life record) -/
def Obligations.StepsKeepMemoryForm : Prop :=
  ∀ s t : State, s.MemCanonical → step s = .next t → t.MemCanonical

/-- Every message that is encoded for a transmit lane carries in byte 7 the CRC-8 with generator x^8 + x^2 + x + 1 of its bytes 0 to 6: from a register of
0xFF, each byte with its most significant bit first, without a final complement. A received message that passes carries it too, and a message of eight
zero bytes does not pass. (R97) -/
def Obligations.MessageCheckByte : Prop :=
  (∀ (m : ApsMsg) (q : Nat), (apsEncode m q).drop 7 = [crc8Of ((apsEncode m q).take 7)]) ∧
  (∀ (l : List Byte) (m : ApsMsg), apsDecode l = some m → l.drop 7 = [crc8Of (l.take 7)]) ∧
  apsDecode (List.replicate 8 0) = none

/-- State.reset is the device with the power-on reset in progress: mode BOOT, service role NONE, FN 0, system timing stopped, no record adopted, no
command waiting, both domains of the timebase at 0 and not set. HDR_CTL.ENABLE reads 1 on every page of Table 17.1, TOP_WDOG_CTL.TIMEOUT 2000 and EN
1, TOP_CORE_RUN.RUN 1, and every register holds the reset value of its map. The scratchpad, the working SRAM, the local memories, the LPDDR4X and the
life record list no byte, no line is poisoned, and the canonical form holds. Its clauses keep the model's own choices of log entries 2, 3, 10.
(02_modes_and_start.md: Resets; 17_host_and_registers.md: The common page header; 18_package_and_electrical.md: Power-on reset and sequencing) -/
def Obligations.ResetState : Prop :=
  State.reset.ctl.held = some .por ∧ State.reset.ctl.mode = .boot ∧ State.reset.ctl.svc = .none ∧ State.reset.ctl.fn = 0 ∧
  State.reset.ctl.timing = false ∧ State.reset.ctl.record = none ∧ State.reset.pending = [] ∧
  State.reset.ctl.tb.a.val = 0 ∧ State.reset.ctl.tb.b.val = 0 ∧ State.reset.ctl.tb.a.isSet = false ∧ State.reset.ctl.tb.b.isSet = false ∧
  (∀ p ∈ allPages, State.reset.ctl.on (F.HDR_CTL_ENABLE p) = true) ∧
  State.reset.ctl.get F.TOP_WDOG_CTL_TIMEOUT = 2000 ∧ State.reset.ctl.on F.TOP_WDOG_CTL_EN = true ∧
  State.reset.ctl.get F.TOP_CORE_RUN_RUN = 1 ∧ (∀ a, State.reset.ctl.reg a = resetValue a) ∧
  State.reset.MemCanonical ∧ State.reset.mem = {}

/-- For every command in every state: if the next state reaches the other memory set through the ACTIVE windows, then the command is the execution of a
swap, or one that can bring about a system reset: a reset source, the watchdog's expiry, a write of TOP_RESET, or a write on the bus (a core's atomic
operation among them) or of the host. (07_page_commit.md: The swap; 06_cross_connect.md: The frame pipeline) -/
def Obligations.ActiveSideMoves : Prop :=
  ∀ (i : Instr) (s t : State), exec i s = .next t → t.xc.act1 ≠ s.xc.act1 →
    i = .swapExecute ∨ i = .powerOnReset ∨ i = .resetNAssert ∨ (∃ v, i = .softwareReset v) ∨ (∃ c x, i = .tapInstructionUpdate c x) ∨
    (∃ k, i = .watchdogExpiry k) ∨ (∃ m v k, i = .registerWrite m R.TOP_RESET v k) ∨
    (∃ m a z w d k f q, i = .defaultTargetAccess m a z w d k f q ∧ (w = true ∨ q.instr ≠ none)) ∨ (∃ b o e d u k f, i = .hostWriteRequest b o e d u k f)

/-- For every command but POWER_ON_RESET, RESET_N_ASSERT, RESET_RELEASE, TAP_INSTRUCTION_UPDATE, TRST_ASSERT, PERST_ASSERT, PERST_DEASSERT and
GPIO_CHANGE: in a state in which a system reset is in progress, exec answers that very state. Its clauses keep the model's own choices of log entries
2, 21. (02_modes_and_start.md: Resets) -/
def Obligations.HeldDeviceIgnores : Prop :=
  ∀ (i : Instr) (s : State), s.ctl.held.isSome = true →
    i ≠ .powerOnReset → i ≠ .resetNAssert → (∀ b, i ≠ .resetRelease b) → (∀ c x, i ≠ .tapInstructionUpdate c x) → i ≠ .trstAssert →
    i ≠ .perstAssert → i ≠ .perstDeassert → (∀ n h, i ≠ .gpioChange n h) → exec i s = .next s

/-! ### Resets, balls and the watchdog -/

/-- For every state, POWER_ON_RESET answers a next state that keeps the queue, holds a power-on reset, has every register but TOP_STRAPS at its reset
value and all other control state as after power-up (but what the balls and the test port drive, the vendor identity and the model's counter of free
values), the life record's bytes and its worn words as before, IDCODE current, and nothing in the other memories, the pages and the data path. That
what is undefined reads 0 is the model's choice. Its clauses keep the model's own choices of log entries 3, 10, 20, 21, 24, 71.
(02_modes_and_start.md: Resets (Table 2.4, R46); 18_package_and_electrical.md: Power-on reset and sequencing (R511)) -/
def Obligations.PowerOnReset : Prop :=
  ∀ s : State, Completes .powerOnReset s fun t =>
    s.ctl.AfterReset .por t.ctl ∧ t.pending = s.pending ∧ t.mem = { mram := s.mem.mram, mramWorn := s.mem.mramWorn } ∧ t.xc = {} ∧ t.dp = {} ∧
      ∀ a, a ≠ R.TOP_STRAPS → t.ctl.reg a = resetValue a

/-- In every state that holds no power-on reset, RESET_N_ASSERT answers the state after a RESET_N reset. While the device is out of reset, SOFTWARE_RESET
with 0xD1E5 in bits 31 to 16 and bit 0 set answers the state after a software reset, and with any other value changes nothing. In every state that
holds neither a power-on nor a boundary-scan reset, TAP_INSTRUCTION_UPDATE to EXTEST, EXTEST_PULSE, EXTEST_TRAIN, CLAMP or HIGHZ answers the state
after a boundary-scan reset with that instruction current (after what came through the port under the one before). Nothing of the pages, the data path
and the key slots is left; the queue is kept; the count of RECOVERY entries is stored, and the power-on hour runs on. Its clauses keep the model's own
choices of log entries 20, 21, 24, 71, 80. (02_modes_and_start.md: Resets (Table 2.4, R45, R46); 18_package_and_electrical.md: Boundary scan) -/
def Obligations.SystemResets : Prop :=
  (∀ s : State, s.ctl.held ≠ some .por → Completes .resetNAssert s (s.ResetFrom .pin)) ∧
  (∀ (v : Word) (s : State), s.ctl.live = true → wGet v 31 16 = 0xD1E5 → bit v.toNat 0 = true →
    Completes (.softwareReset v) s (s.ResetFrom .software)) ∧
  (∀ (v : Word) (s : State), s.ctl.live = true → ¬ (wGet v 31 16 = 0xD1E5 ∧ bit v.toNat 0 = true) → Gives (.softwareReset v) s s) ∧
  (∀ (c : Nat) (s : State), c ∈ [0x00, 0x03, 0x04, 0x05, 0x06] → s.ctl.held ≠ some .por → s.ctl.held ≠ some .tap →
    ∀ x, Completes (.tapInstructionUpdate c x) s (State.ResetFrom .tap { s with ctl := { s.ctl.tapCame x with tapInstr := c } })) ∧
  (∀ (src : ResetSource) (s t : State), s.ResetFrom src t → ∀ a, a ≠ R.TOP_STRAPS → t.ctl.reg a = resetValue a)

/-- While the device is out of reset, for a core or the host that may make the access: WDOG_KICK_BEGIN by a master ends any sequence in progress and
begins one of that master. WDOG_KICK_COMPLETE by the master whose sequence is in progress ends it and is a kick: it restarts the countdown in full
from the timeout that is then in force. WDOG_KICK_COMPLETE by another master and WDOG_KICK_OTHER by any master end the sequence without a kick.
Nothing else changes. (R50) -/
def Obligations.WatchdogKickSequence : Prop :=
  (∀ (m : Nat) (s : State), s.ctl.live = true → m < 5 → s.ctl.MayReg m R.TOP_WDOG_KICK true → Gives (.wdogKickBegin m) s { s with ctl := { s.ctl with kick := some m } }) ∧
  (∀ (m : Nat) (s : State), s.ctl.live = true → m < 5 → s.ctl.MayReg m R.TOP_WDOG_KICK true → s.ctl.kick = some m →
    Completes (.wdogKickComplete m) s fun t => ∃ w, State.Is { s with ctl := { s.ctl with
      kick := none, wdTimeout := w, wdEnd := s.ctl.mtime + w * 204800 } } t) ∧
  (∀ (m : Nat) (s : State), s.ctl.live = true → m < 5 → s.ctl.MayReg m R.TOP_WDOG_KICK true → s.ctl.kick ≠ some m →
    Gives (.wdogKickComplete m) s { s with ctl := { s.ctl with kick := none } }) ∧
  (∀ (m : Nat) (s : State), s.ctl.live = true → m < 5 → s.ctl.MayReg m R.TOP_WDOG_KICK true → Gives (.wdogKickOther m) s { s with ctl := { s.ctl with kick := none } })

/-- While system timing runs and TOP_WDOG_CTL.EN is 1, outside the ROM's wait for the host: when the countdown has ended at the tick of WATCHDOG_EXPIRY,
then in ACTIVE, STANDBY and MAINTENANCE the device enters RECOVERY with CAUSE bit 1 set, raises RECOVERY, keeps its service role, and restarts the
countdown in full from the TIMEOUT in force, and the memories, the pages, the data path and the queue are unchanged; in any other mode the state after
a watchdog reset follows. Its clauses keep the model's own choices of log entries 19, 21, 24, 71. (02_modes_and_start.md: Watchdog (R49, R51);
02_modes_and_start.md: Requesting a mode (R39); 02_modes_and_start.md: RECOVERY (R41, R43); 07_page_commit.md: The swap (R217); 02_modes_and_start.md:
Resets (R46)) -/
def Obligations.WatchdogExpires : Prop :=
  (∀ (k : Nat) (s : State), s.ctl.timed = true → s.ctl.on F.TOP_WDOG_CTL_EN = true → s.ctl.romWaits = false →
    (s.ctl.advTo k).wdEnd ≤ (s.ctl.advTo k).mtime → (s.ctl.mode = .active ∨ s.ctl.mode = .standby ∨ s.ctl.mode = .maintenance) →
    Completes (.watchdogExpiry k) s fun t =>
      t.ctl.mode = .recovery ∧ t.ctl.svc = s.ctl.svc ∧ t.ctl.modePend = none ∧ t.ctl.swap = none ∧
      t.ctl.onBit F.TOP_RECOV_CAUSE_CAUSE 1 = true ∧ t.ctl.evBit 0x000 2 = true ∧
      t.ctl.wdEnd = (s.ctl.advTo k).mtime + s.ctl.wdTimeout * 204800 ∧ t.ctl.wdTimeout = s.ctl.wdTimeout ∧ s.DataKept t) ∧
  (∀ (k : Nat) (s : State), s.ctl.timed = true → s.ctl.on F.TOP_WDOG_CTL_EN = true → s.ctl.romWaits = false →
    (s.ctl.advTo k).wdEnd ≤ (s.ctl.advTo k).mtime → (s.ctl.mode = .boot ∨ s.ctl.mode = .commission ∨ s.ctl.mode = .recovery) →
    Completes (.watchdogExpiry k) s ((s.mapCtl (Ctl.advTo k)).ResetFrom .wdog))

/-- While the device is out of reset, WDOG_CTL_WRITE sets TIMEOUT to bits 15 to 0 of the value. Until BOOT has been left it sets EN to bit 31, and from
then on EN keeps its value. A write that sets EN from 0 to 1 restarts the countdown in full from the TIMEOUT in force. Nothing else changes. A kick
brings TIMEOUT into force, a value below 10 as 10 ms. A write of TOP_WDOG_KICK by a master that may not write registers is refused with CAUSE 3. Its
clauses keep the model's own choices of log entries 12, 19, 73. (02_modes_and_start.md: Watchdog (R49, R50); 17_host_and_registers.md: Register access
(R480); 15_cores_and_memory.md: The bus matrix (R530)) -/
def Obligations.WatchdogControl : Prop :=
  (∀ (v : Word) (s : State), s.ctl.live = true → s.ctl.leftBoot = true → Completes (.wdogCtlWrite v) s fun t =>
      s.IsRegs [R.TOP_WDOG_CTL] t ∧ t.ctl.get F.TOP_WDOG_CTL_TIMEOUT = wGet v 15 0 ∧
      t.ctl.get F.TOP_WDOG_CTL_EN = s.ctl.get F.TOP_WDOG_CTL_EN) ∧
  (∀ (v : Word) (s : State), s.ctl.live = true → s.ctl.leftBoot = false → Completes (.wdogCtlWrite v) s fun t =>
      State.IsRegs [R.TOP_WDOG_CTL] { s with ctl := { s.ctl with
        wdEnd := if bit v.toNat 31 && !s.ctl.on F.TOP_WDOG_CTL_EN then s.ctl.mtime + s.ctl.wdTimeout * 204800 else s.ctl.wdEnd } } t ∧
      t.ctl.get F.TOP_WDOG_CTL_TIMEOUT = wGet v 15 0 ∧ t.ctl.on F.TOP_WDOG_CTL_EN = bit v.toNat 31) ∧
  (∀ (m : Nat) (s : State), s.ctl.live = true → m < 5 → s.ctl.MayReg m R.TOP_WDOG_KICK true → s.ctl.kick = some m →
    Completes (.wdogKickComplete m) s fun t => t.ctl.wdTimeout = max 10 (s.ctl.get F.TOP_WDOG_CTL_TIMEOUT)) ∧
  (∀ (m : Nat) (s : State), s.ctl.live = true → 5 ≤ m → ∀ i ∈ [Instr.wdogKickBegin m, .wdogKickComplete m, .wdogKickOther m],
    Completes i s (State.Refused m (0x20000000 + R.TOP_WDOG_KICK) 3 [] [] s))

/-- PERST_ASSERT out of reset: the ball reads low and TOP_RST_CAUSE.PERST is recorded; HST_STAT, HST_APERTURE, the base address registers and the pending
bits read 0, each MSI-X vector's address and data read 0 and its control 1, PERST is raised, and nothing else changes; in reset only the ball's level
and the flag change. PERST_DEASSERT raises the ball. TRST_ASSERT makes IDCODE current. TAP_INSTRUCTION_UPDATE to an instruction that holds no reset
makes it current, after what came through the port: boundary cells under an instruction that selects the boundary register, debug accesses under DEBUG
out of reset with SEC_LOCK low, and else nothing. IDCODE reads 0x1243_04AB, and a code without a name selects BYPASS. During a reset the balls are in
the states of Table 18.7; in RECOVERY MAJOR_N is low. CORE_RUN_WRITE out of reset sets TOP_CORE_RUN.RUN to bits 3 to 0, a core that no longer runs is
neither in WFI nor halted, and a core that starts or stops has the state that a reset leaves: pc, mtvec and mcause 0, machine mode, interrupts off, no
PMP entry. Nothing else changes. Its clauses keep the model's own choices of log entries 8, 12, 21, 80. (02_modes_and_start.md: Resets (R47);
17_host_and_registers.md: PCI Express endpoint (R485); 18_package_and_electrical.md: Boundary scan (R525); 18_package_and_electrical.md: Ball types
and reset states (R507); 16_monitoring.md: Alarms (R458)) -/
def Obligations.BallEvents : Prop :=
  (∀ s : State, s.ctl.live = true → Completes .perstAssert s fun t =>
      State.IsBut [0x000] ([R.HST_STAT, R.HST_APERTURE, R.HST_MSIX_PBA_LO, R.HST_MSIX_PBA_HI] ++
        (List.range 64).flatMap fun v => [R.HST_MSIX_ADDR_LO v, R.HST_MSIX_ADDR_HI v, R.HST_MSIX_DATA v, R.HST_MSIX_CTL v])
        { s with ctl := { s.ctl with perstLow := true, perstSeen := true, bar0 := 0, bar2 := 0, aerStatus := 0 } } t ∧
      t.ctl.evBit 0x000 5 = true ∧ t.ctl.reg R.HST_STAT = 0 ∧ t.ctl.reg R.HST_APERTURE = 0 ∧
      t.ctl.reg R.HST_MSIX_PBA_LO = 0 ∧ t.ctl.reg R.HST_MSIX_PBA_HI = 0 ∧
      ∀ v, v < 64 → t.ctl.reg (R.HST_MSIX_ADDR_LO v) = 0 ∧ t.ctl.reg (R.HST_MSIX_ADDR_HI v) = 0 ∧
        t.ctl.reg (R.HST_MSIX_DATA v) = 0 ∧ t.ctl.reg (R.HST_MSIX_CTL v) = 1) ∧
  (∀ s : State, s.ctl.live = false → Gives .perstAssert s { s with ctl := { s.ctl with perstLow := true, perstSeen := true } }) ∧
  (∀ s : State, Gives .perstDeassert s { s with ctl := { s.ctl with perstLow := false } }) ∧
  (∀ s : State, Gives .trstAssert s { s with ctl := { s.ctl with tapInstr := 1 } }) ∧
  (∀ (c : Nat) (s : State), c % 32 ∉ [0x00, 0x03, 0x04, 0x05, 0x06] →
    ∀ x, Gives (.tapInstructionUpdate c x) s { s with ctl := { s.ctl.tapCame x with tapInstr := c % 32 } }) ∧
  (∀ (l : Option (List (Ball × BallState))) (d : List DebugOp) (c : Ctl),
    (c.tapInstr ∈ [0x00, 0x02, 0x03, 0x04] → c.tapCame ⟨l, d⟩ = { c with tapCells := l.getD c.tapCells }) ∧
    (c.tapInstr ∉ [0x00, 0x02, 0x03, 0x04, 0x10] → c.tapCame ⟨l, d⟩ = c) ∧
    (c.tapInstr = 0x10 → (c.live = false ∨ c.secLock = true) → c.tapCame ⟨l, d⟩ = c) ∧
    (c.tapInstr = 0x10 → c.live = true → c.secLock = false → c.tapCame ⟨l, d⟩ = d.foldl Ctl.debugOp c)) ∧
  (∀ (n r : Nat) (v : Word) (c : Ctl), n < 4 → c.coreRuns n = true →
    bit (c.debugOp (.halt n)).coreDbg n = true ∧ (c.debugOp (.halt n)).issues n = false ∧
    (0 < r → r < 32 → ((((c.debugOp (.halt n)).debugOp (.gpr n r v)).hart n).x r = v ∧
      (((c.debugOp (.halt n)).debugOp (.pc n v)).hart n).pc = v.toNat ∧ bit ((c.debugOp (.halt n)).debugOp (.resume n)).coreDbg n = false)) ∧
    (bit c.coreDbg n = false → c.debugOp (.gpr n r v) = c ∧ c.debugOp (.pc n v) = c ∧ c.debugOp (.resume n) = c)) ∧
  (∀ b : Bool, tapRegOf 0x01 b = .idcode ∧ TapReg.idcode.capture = some 0x124304AB ∧ tapRegOf 0x10 true = .bypass ∧
    ∀ k, k < 32 → k ∉ [0x00, 0x01, 0x02, 0x03, 0x04, 0x10] → tapRegOf k b = .bypass) ∧
  (∀ (src : ResetSource) (n : Nat) (c : Ctl), c.held = some src → src ≠ .tap →
    c.ball .majorN = some .released ∧ c.ball .minorN = some .released ∧ c.ball (.laneTx n) = some .idle ∧ c.ball (.pcieTx n) = some .idle ∧
    c.ball .ddrCke = some .low ∧ c.ball .hyTd = some .still ∧ c.ball (.ospClk n) = some .low ∧ c.ball .ppsOut = some .low ∧
    c.ball .fsyncOut = some .low ∧ c.ball .clkOut = some .low ∧ c.ball (.uartTx n) = some .high ∧ c.ball (.gpio n) = some .released ∧
    c.ball .qspiClk = some .low ∧ c.ball .qspiCsN = some .high ∧ c.ball (.qspiIo n) = some .released ∧ c.ball .avsClk = some .high ∧
    c.ball .avsMdata = some .high ∧ c.ball .tdo = some .released ∧ (src = .por → c.ball .ddrResetN = some .low)) ∧
  (∀ c : Ctl, c.held = none → c.mode = .recovery → c.ball .majorN = some .low) ∧
  (∀ (v : Word) (s : State), s.ctl.live = true → Completes (.coreRunWrite v) s fun t =>
      (∃ h, State.IsRegs [R.TOP_CORE_RUN] { s with ctl := { s.ctl with
        coreWfi := s.ctl.coreWfi &&& wGet v 3 0, coreDbg := s.ctl.coreDbg &&& wGet v 3 0
        romHalt := s.ctl.romHalt && bit (wGet v 3 0) 0, harts := h } } t) ∧
      t.ctl.get F.TOP_CORE_RUN_RUN = wGet v 3 0 ∧
      ∀ n, n < 4 → t.ctl.hart n = if bit (wGet v 3 0) n = s.ctl.coreRuns n then s.ctl.hart n else { cycleAt := s.ctl.mtime })

/-- While the device is out of reset and system timing runs, XO_LOST sets TMU_STAT.XO_LOST, clears MEM_STAT.READY, raises the TMU page's event 7, stops
system timing and empties the LPDDR4X; with the pair logic not running nothing else changes. With it running a BYE goes out through the clockless
path, a pennant with KIND.BYE that repeats COUNT. Its clauses keep the model's own choices of log entries 20, 55, 63. (11_reference_timing.md:
Oscillator and synthesis (R303); 02_modes_and_start.md: Resets; 13_unit_pair.md: Evidence and the decision (R376)) -/
def Obligations.OscillatorLost : Prop :=
  ∀ s : State, s.ctl.live = true → s.ctl.timing = true → s.ctl.xoLost = false →
    (s.ctl.pairRuns = false → Completes .xoLost s fun t =>
      State.IsBut [0x010] [R.TMU_STAT, R.MEM_STAT] { s with ctl := { s.ctl with xoLost := true }, mem := { s.mem with ddr := [], poison := [] } } t ∧
      t.ctl.on F.TMU_STAT_XO_LOST = true ∧ t.ctl.on F.MEM_STAT_READY = false ∧ t.ctl.evBit 0x010 7 = true ∧ t.ctl.timed = false) ∧
    (s.ctl.pairRuns = true → Completes .xoLost s fun t =>
      t.ctl.xoLost = true ∧ t.ctl.on F.TMU_STAT_XO_LOST = true ∧ t.ctl.on F.MEM_STAT_READY = false ∧ t.ctl.evBit 0x010 7 = true ∧
      t.ctl.timed = false ∧ t.mem = { s.mem with ddr := [], poison := [] } ∧ t.pending = s.pending ∧ t.xc = s.xc ∧ t.dp = s.dp ∧
      t.ctl.pair.out.length = 64 ∧ lget t.ctl.pair.out 1 0 = 0x18 ∧ beAt t.ctl.pair.out 12 4 = (s.ctl.reg R.UPR_COUNT).toNat ∧
      t.ctl.reg R.UPR_COUNT = s.ctl.reg R.UPR_COUNT ∧ t.ctl.mode = s.ctl.mode ∧ t.ctl.svc = s.ctl.svc)

/-! ### Modes and start-up -/

/-- With no transition pending: COMMISSION from BOOT with the COMMISSION_EN strap enters COMMISSION at once. SERVICE from BOOT with a valid record and no
recorded fault, and from MAINTENANCE, is accepted and waits; MAINTENANCE from ACTIVE or STANDBY with a non-empty TOP_MAINT_LANES is accepted and
waits. LAST_REQ takes the code and REFUSE 0. MODE_TRANSITION at the multiframe boundary then enters MAINTENANCE with the set TOP_MAINT_LANES, leaves
it for ACTIVE or STANDBY by the service role with the set and the injection arm cleared, or from BOOT and COMMISSION enters ACTIVE with the role
ACTIVE when PAIR_EN is low, and STANDBY with the role STANDBY when it is high, with the moment of entry held. MODE_CHANGE is raised. The frame is that
of a mode change and of the pair's judgement after it. Its clauses keep the model's own choices of log entries 22, 23. (02_modes_and_start.md:
Requesting a mode (R36 to R38, Table 2.2); 02_modes_and_start.md: The six modes) -/
def Obligations.ModeRequestsAccepted : Prop :=
  (∀ s : State, s.ctl.live = true → s.ctl.modePend = none → s.ctl.mode = .boot → s.ctl.on F.TOP_STRAPS_COMMISSION_EN = true →
    Completes .modeReqCommission s fun t => s.ModeStep .commission .none [R.TOP_MODE_STAT] t ∧
      t.ctl.get F.TOP_MODE_STAT_LAST_REQ = 1 ∧ t.ctl.get F.TOP_MODE_STAT_REFUSE = 0 ∧ t.ctl.evBit 0x000 0 = true) ∧
  (∀ s : State, s.ctl.live = true → s.ctl.modePend = none →
    (s.ctl.mode = .boot ∧ s.ctl.on F.TOP_COMM_STAT_VALID = true ∧ s.ctl.on (F.HDR_FAULT_RECORDED 0) = false ∨ s.ctl.mode = .maintenance) →
    Completes .modeReqService s fun t => State.IsRegs [R.TOP_MODE_STAT] { s with ctl := { s.ctl with modePend := some .active } } t ∧
      t.ctl.get F.TOP_MODE_STAT_LAST_REQ = 2 ∧ t.ctl.get F.TOP_MODE_STAT_REFUSE = 0) ∧
  (∀ s : State, s.ctl.live = true → s.ctl.modePend = none → (s.ctl.mode = .active ∨ s.ctl.mode = .standby) →
    s.ctl.get F.TOP_MAINT_LANES_LANES ≠ 0 →
    Completes .modeReqMaintenance s fun t => State.IsRegs [R.TOP_MODE_STAT] { s with ctl := { s.ctl with modePend := some .maintenance } } t ∧
      t.ctl.get F.TOP_MODE_STAT_LAST_REQ = 4 ∧ t.ctl.get F.TOP_MODE_STAT_REFUSE = 0) ∧
  (∀ s : State, s.ctl.timed = true → s.ctl.mfEdge = true → s.ctl.on F.TOP_COMM_STAT_SEAL_BUSY = false → s.ctl.modePend = some .maintenance →
    s.ctl.mode ≠ .maintenance →
    Completes .modeTransition s fun t => s.ModeMoved .maintenance s.ctl.svc [R.TOP_MAINT_SET] t ∧
      t.ctl.get F.TOP_MAINT_SET_LANES = s.ctl.get F.TOP_MAINT_LANES_LANES ∧ t.ctl.evBit 0x000 0 = true) ∧
  (∀ s : State, s.ctl.timed = true → s.ctl.mfEdge = true → s.ctl.on F.TOP_COMM_STAT_SEAL_BUSY = false → s.ctl.modePend = some .active →
    s.ctl.mode = .maintenance →
    Completes .modeTransition s fun t =>
      s.ModeMoved (if s.ctl.svc = .active then .active else .standby) s.ctl.svc [R.TOP_MAINT_SET, R.XCC_INJ] t ∧
      t.ctl.get F.TOP_MAINT_SET_LANES = 0 ∧ t.ctl.get F.XCC_INJ_ARM = 0 ∧ t.ctl.evBit 0x000 0 = true) ∧
  (∀ s : State, s.ctl.timed = true → s.ctl.mfEdge = true → s.ctl.on F.TOP_COMM_STAT_SEAL_BUSY = false → s.ctl.modePend = some .active →
    (s.ctl.mode = .boot ∨ s.ctl.mode = .commission) → s.ctl.pairEn = false →
    Completes .modeTransition s fun t => s.ModeMoved .active .active [] t ∧ t.ctl.evBit 0x000 0 = true) ∧
  (∀ s : State, s.ctl.timed = true → s.ctl.mfEdge = true → s.ctl.on F.TOP_COMM_STAT_SEAL_BUSY = false → s.ctl.modePend = some .active →
    (s.ctl.mode = .boot ∨ s.ctl.mode = .commission) → s.ctl.pairEn = true →
    Completes .modeTransition s fun t => t.ctl.mode = .standby ∧ t.ctl.svc = .standby ∧ t.ctl.modePend = none ∧
      t.ctl.pair.serviceAt = some s.ctl.boundaryAt ∧ t.ctl.evBit 0x000 0 = true ∧ s.DataKept t)

/-- While the device is out of reset: a request while a transition is pending is refused with code 3. With none pending, COMMISSION in BOOT without the
strap is refused with 2; SERVICE in BOOT without a valid record with 4; MAINTENANCE in ACTIVE or STANDBY with no lane named with 7; SERVICE in BOOT
with a valid record and a recorded fault with 8; COMMISSION, SERVICE or MAINTENANCE in a mode that Table 2.2 does not name for it with 1, and so every
other code than 1, 2 and 4. LAST_REQ takes the code requested, REFUSE the reason, event 1 of the TOP page is raised, and nothing else changes. Its
clauses keep the model's own choices of log entries 22, 23. (02_modes_and_start.md: Requesting a mode (R35, R38)) -/
def Obligations.ModeRequestsRefused : Prop :=
  (∀ s : State, s.ctl.live = true → s.ctl.modePend.isSome = true → ∀ i q, (i, q) ∈ [(Instr.modeReqCommission, 1), (.modeReqService, 2), (.modeReqMaintenance, 4), (.modeReqUnknown 7, 7)] →
    Completes i s fun t => s.IsBut [0x000] [R.TOP_MODE_STAT] t ∧
      t.ctl.get F.TOP_MODE_STAT_LAST_REQ = q ∧ t.ctl.get F.TOP_MODE_STAT_REFUSE = 3 ∧ t.ctl.evBit 0x000 1 = true) ∧
  (∀ s : State, s.ctl.live = true → s.ctl.modePend = none → s.ctl.mode = .boot → s.ctl.on F.TOP_STRAPS_COMMISSION_EN = false →
    Completes .modeReqCommission s fun t => s.IsBut [0x000] [R.TOP_MODE_STAT] t ∧
      t.ctl.get F.TOP_MODE_STAT_LAST_REQ = 1 ∧ t.ctl.get F.TOP_MODE_STAT_REFUSE = 2 ∧ t.ctl.evBit 0x000 1 = true) ∧
  (∀ s : State, s.ctl.live = true → s.ctl.modePend = none → s.ctl.mode = .boot → s.ctl.on F.TOP_COMM_STAT_VALID = false →
    Completes .modeReqService s fun t => s.IsBut [0x000] [R.TOP_MODE_STAT] t ∧
      t.ctl.get F.TOP_MODE_STAT_LAST_REQ = 2 ∧ t.ctl.get F.TOP_MODE_STAT_REFUSE = 4 ∧ t.ctl.evBit 0x000 1 = true) ∧
  (∀ s : State, s.ctl.live = true → s.ctl.modePend = none → (s.ctl.mode = .active ∨ s.ctl.mode = .standby) →
    s.ctl.get F.TOP_MAINT_LANES_LANES = 0 →
    Completes .modeReqMaintenance s fun t => s.IsBut [0x000] [R.TOP_MODE_STAT] t ∧
      t.ctl.get F.TOP_MODE_STAT_LAST_REQ = 4 ∧ t.ctl.get F.TOP_MODE_STAT_REFUSE = 7 ∧ t.ctl.evBit 0x000 1 = true) ∧
  (∀ s : State, s.ctl.live = true → s.ctl.modePend = none → s.ctl.mode = .boot → s.ctl.on F.TOP_COMM_STAT_VALID = true →
    s.ctl.on (F.HDR_FAULT_RECORDED 0) = true →
    Completes .modeReqService s fun t => s.IsBut [0x000] [R.TOP_MODE_STAT] t ∧
      t.ctl.get F.TOP_MODE_STAT_LAST_REQ = 2 ∧ t.ctl.get F.TOP_MODE_STAT_REFUSE = 8 ∧ t.ctl.evBit 0x000 1 = true) ∧
  (∀ s : State, s.ctl.live = true → s.ctl.modePend = none → ∀ i q, ((i, q) = (Instr.modeReqCommission, 1) ∧ s.ctl.mode ≠ .boot ∨
      (i, q) = (.modeReqService, 2) ∧ (s.ctl.mode = .active ∨ s.ctl.mode = .standby ∨ s.ctl.mode = .recovery) ∨
      (i, q) = (.modeReqMaintenance, 4) ∧ s.ctl.mode ≠ .active ∧ s.ctl.mode ≠ .standby) →
    Completes i s fun t => s.IsBut [0x000] [R.TOP_MODE_STAT] t ∧
      t.ctl.get F.TOP_MODE_STAT_LAST_REQ = q ∧ t.ctl.get F.TOP_MODE_STAT_REFUSE = 1 ∧ t.ctl.evBit 0x000 1 = true) ∧
  (∀ (q : Nat) (s : State), q < 8 → q ≠ 1 → q ≠ 2 → q ≠ 4 → s.ctl.live = true → s.ctl.modePend = none →
    Completes (.modeReqUnknown q) s fun t => s.IsBut [0x000] [R.TOP_MODE_STAT] t ∧
      t.ctl.get F.TOP_MODE_STAT_LAST_REQ = q ∧ t.ctl.get F.TOP_MODE_STAT_REFUSE = 1 ∧ t.ctl.evBit 0x000 1 = true) ∧
  (∀ (q : Nat) (s : State), q ∈ [0, 3, 5, 6, 7] → s.ctl.live = true →
    Completes (.modeReqUnknown q) s fun t => s.IsBut [0x000] [R.TOP_MODE_STAT] t ∧ t.ctl.mode = s.ctl.mode ∧ t.ctl.modePend = s.ctl.modePend ∧
      t.ctl.get F.TOP_MODE_STAT_LAST_REQ = q ∧ t.ctl.get F.TOP_MODE_STAT_REFUSE = (if s.ctl.modePend = none then 1 else 3) ∧ t.ctl.evBit 0x000 1 = true)

/-- In COMMISSION with no transition pending and no recorded fault, MODE_REQ_SERVICE is accepted: ACTIVE is pending, SEAL_BUSY is 1 and SEAL_FAIL 0, and a
record of 8,192 bytes is formed: MAGIC, FORMAT, the generation after the adopted one (1 after none and after 65535), LENGTH, the values of the CW
registers, zeros where Table 2.9 has them, the number of key entries, and the key entries sealed under the root key with the rest of the record as
associated data; with a recorded fault it is refused with code 8. COMMISSION_SEAL_DONE with a record formed and the write verified stores it in the
copy that is not adopted (copy 0 when none is), adopts it, and clears SEAL_BUSY; VALID reads 1 and GEN is the record's. After a failed write, the
bytes that it left stand in the copy, SEAL_FAIL is set, the pending transition is dropped with REFUSE 5, MODE_REFUSED and the TOP page's event 4 are
raised, MRAM_FAIL names the first word that differs, and the adopted record is kept. Its clauses keep the model's own choices of log entries 23, 71.
(02_modes_and_start.md: Commissioning (R60 to R63); 02_modes_and_start.md: Requesting a mode (R38)) -/
def Obligations.CommissioningSeal : Prop :=
  (∀ s : State, s.ctl.live = true → s.ctl.modePend = none → s.ctl.mode = .commission → s.ctl.on (F.HDR_FAULT_RECORDED 0) = false →
    Completes .modeReqService s fun t => t.ctl.modePend = some .active ∧ t.ctl.mode = .commission ∧
      t.ctl.on F.TOP_COMM_STAT_SEAL_BUSY = true ∧ t.ctl.on F.TOP_COMM_STAT_SEAL_FAIL = false ∧
      t.ctl.get F.TOP_MODE_STAT_LAST_REQ = 2 ∧ t.ctl.get F.TOP_MODE_STAT_REFUSE = 0 ∧
      t.ctl.record = s.ctl.record ∧ t.xc = s.xc ∧ t.dp = s.dp ∧
      ∃ b, t.ctl.sealRec = some b ∧ b.length = 8192 ∧ beAt b 0 4 = 0x53544352 ∧ beAt b 4 2 = 1 ∧
        beAt b 6 2 = (match s.ctl.record with | some r => if r.gen = 65535 then 1 else r.gen + 1 | none => 1) % 65536 ∧
        beAt b 8 4 = 356 + 36 * s.ctl.persistentKeys.length ∧ slice b 40 24 = List.replicate 24 0 ∧ beAt b 336 4 = 0 ∧
        (∀ q ∈ recordRegs, beAt b q.1 4 = (s.ctl.reg q.2).toNat) ∧ beAt b 352 4 = s.ctl.persistentKeys.length ∧
        (∃ v, slice b 12 12 = ivBytes 47 (s.ctl.slot 47).epoch v) ∧
        (slice b 356 (36 * s.ctl.persistentKeys.length), slice b 24 16) = gcmSeal Config.rootKey (slice b 12 12)
          (slice b 0 24 ++ List.replicate 16 0 ++ slice b 40 316) (s.ctl.persistentKeys.flatMap fun q => keyEntry q.1 q.2)) ∧
  (∀ s : State, s.ctl.live = true → s.ctl.modePend = none → s.ctl.mode = .commission → s.ctl.on (F.HDR_FAULT_RECORDED 0) = true →
    Completes .modeReqService s fun t => s.IsBut [0x000] [R.TOP_MODE_STAT] t ∧
      t.ctl.get F.TOP_MODE_STAT_LAST_REQ = 2 ∧ t.ctl.get F.TOP_MODE_STAT_REFUSE = 8 ∧ t.ctl.evBit 0x000 1 = true) ∧
  (∀ (b : List Byte) (s : State), s.ctl.live = true → s.ctl.sealRec = some b →
    Completes (.commissionSealDone none) s fun t =>
      t.mem = s.mem.mramWrite (if s.ctl.record.any (fun r => r.copy == 0) then 0x3000 else 0x1000) b ∧
      t.ctl.sealRec = none ∧ t.ctl.modePend = s.ctl.modePend ∧ t.ctl.mode = s.ctl.mode ∧ t.ctl.on F.TOP_COMM_STAT_SEAL_BUSY = false ∧
      t.ctl.on F.TOP_COMM_STAT_VALID = true ∧ t.ctl.get F.TOP_COMM_STAT_GEN = beAt b 6 2 % 65536 ∧
      (∃ r, t.ctl.record = some r ∧ r.gen = beAt b 6 2) ∧ t.xc = s.xc ∧ t.dp = s.dp) ∧
  (∀ (b l : List Byte) (s : State), s.ctl.live = true → s.ctl.sealRec = some b →
    Completes (.commissionSealDone (some l)) s fun t =>
      State.IsBut [0x000, 0x053] [R.TOP_COMM_STAT, R.TOP_MODE_STAT, R.LIF_STAT] { s with
        ctl := { s.ctl with sealRec := none, modePend := none }
        mem := s.mem.mramWrite (if s.ctl.record.any (fun r => r.copy == 0) then 0x3000 else 0x1000) (l.take 8192) } t ∧
      t.ctl.on F.TOP_COMM_STAT_SEAL_FAIL = true ∧ t.ctl.on F.TOP_COMM_STAT_SEAL_BUSY = false ∧
      t.ctl.get F.TOP_MODE_STAT_REFUSE = 5 ∧ t.ctl.evBit 0x000 1 = true ∧ t.ctl.evBit 0x000 4 = true ∧
      ∀ w, firstMiss l b = some w → t.ctl.on F.LIF_STAT_WFAIL = true ∧ t.ctl.evBit 0x053 2 = true ∧
        t.ctl.get F.LIF_STAT_OFS = ((if s.ctl.record.any (fun r => r.copy == 0) then 0x3000 else 0x1000) + 4 * w) % 2 ^ 21)

/-- While a reset is held by no JTAG instruction, RESET_RELEASE ends it: TOP_RST_CAUSE names its source alone, with bit 5 when it was taken under XO_LOST,
TOP_STRAPS holds the sampled straps after POR, RESET_N and boundary scan and is kept otherwise, and the pages are initialised. Without the oscillator
FAIL reports XO_ABSENT and nothing runs. With it, system timing runs. When BOOT_SRC is flash only and neither slot holds the magic number, the ROM
records both failures and halts in PHASE 15. When slot A, or with no image there slot B, holds a legal header that passes and a body whose tag
verifies, the device, whose engine and record are as a power-on leaves them, boots from it: SOURCE 1 or 2, its version, PHASE 5, REMAP, and the body
in working SRAM. Outside the ROM's wait HOST_BOOT_READY sets HB_READY and clears HB_FAIL alone; in the wait an image without the magic number sets
HB_FAIL, clears HB_READY and is recorded with reason 1; one whose header passes is booted from when its tag verifies under the root key, and else
refused with reason 4. Its clauses keep the model's own choices of log entries 17, 18, 19, 22. (02_modes_and_start.md: Resets (R48);
02_modes_and_start.md: Straps (R52); 02_modes_and_start.md: Boot (R54, R57, R58, Table 2.6)) -/
def Obligations.ResetReleaseStarts : Prop :=
  (∀ (b : BootIn) (s : State) (src : ResetSource), s.ctl.held = some src → tapHolds s.ctl.tapInstr = false → b.xo = false →
    Completes (.resetRelease b) s fun t => t.ctl.held = none ∧ t.ctl.timing = false ∧ t.ctl.romHalt = true ∧
      t.ctl.reg R.TOP_RST_CAUSE = BitVec.ofNat 32 (2 ^ src.bit + 32 * b2n s.ctl.heldXoLost) ∧
      t.ctl.reg R.TOP_STRAPS = (if src = .wdog ∨ src = .software then s.ctl.reg R.TOP_STRAPS else BitVec.ofNat 32 (b.straps % 64)) ∧
      t.ctl.onBit F.TOP_BOOT_STAT_FAIL 5 = true ∧ t.ctl.on F.CMP_STAT_INIT_DONE = true ∧ s.DataKept t) ∧
  (∀ (b : BootIn) (s : State) (src : ResetSource), s.ctl.held = some src → tapHolds s.ctl.tapInstr = false → b.xo = true →
    Completes (.resetRelease b) s fun t => t.ctl.held = none ∧ t.ctl.timing = true ∧
      t.ctl.reg R.TOP_RST_CAUSE = BitVec.ofNat 32 (2 ^ src.bit + 32 * b2n s.ctl.heldXoLost) ∧
      t.ctl.reg R.TOP_STRAPS = (if src = .wdog ∨ src = .software then s.ctl.reg R.TOP_STRAPS else BitVec.ofNat 32 (b.straps % 64)) ∧
      t.ctl.on F.CMP_STAT_INIT_DONE = true ∧ t.ctl.fn = s.ctl.fn ∧ t.pending = s.pending ∧ t.xc = s.xc ∧ t.dp = s.dp) ∧
  (∀ (b : BootIn) (s : State), s.ctl.held = some .por → tapHolds s.ctl.tapInstr = false → b.xo = true → bits b.straps 3 2 = 0 →
    beAt b.flashA 0 4 ≠ 0x53545849 → beAt b.flashB 0 4 ≠ 0x53545849 →
    Completes (.resetRelease b) s fun t => t.ctl.get F.TOP_BOOT_STAT_PHASE = 15 ∧ t.ctl.romHalt = true ∧
      t.ctl.onBit F.TOP_BOOT_STAT_FAIL 0 = true ∧ t.ctl.onBit F.TOP_BOOT_STAT_FAIL 1 = true ∧
      t.ctl.get F.TOP_BOOT_WHY_SLOT_A = 1 ∧ t.ctl.get F.TOP_BOOT_WHY_SLOT_B = 1 ∧ t.ctl.evBit 0x053 0 = true) ∧
  (∀ (b : BootIn) (s : State) (src : Nat) (h l f : List Byte), s.ctl.held = some .por → tapHolds s.ctl.tapInstr = false → b.xo = true →
    b.katOk = true → (bits b.straps 3 2 = 0 ∨ bits b.straps 3 2 = 2) → s.ctl.on F.CIP_STAT_LOCKED = false → s.ctl.record = none →
    (src = 1 ∧ f = b.flashA ∨ src = 2 ∧ f = b.flashB ∧ beAt b.flashA 0 4 ≠ 0x53545849) →
    slice f 0 64 = h → slice f 64 (beAt h 8 4) = l → headerLegal h = true → beAt h 18 2 % 2 = 0 → imageTagOk h l = true →
    (∀ p, chooseCopy (readCopy (s.mem.mramBytes 0x1000 8192)) (readCopy (s.mem.mramBytes 0x3000 8192)) = some p →
      (tget p.2.vals R.TOP_COMM_ROLLBACK 0).toNat % 65536 ≤ beAt h 6 2) →
    Completes (.resetRelease b) s fun t => t.ctl.get F.TOP_BOOT_STAT_SOURCE = src ∧ t.ctl.get F.TOP_BOOT_STAT_PHASE = 5 ∧
      t.ctl.get F.TOP_BOOT_STAT_IMAGE_VERSION = beAt h 16 2 ∧ t.ctl.on F.TOP_REMAP_REMAP = !s.ctl.leftBoot ∧
      tbytes t.mem.sram 0 l.length = l ∧ t.ctl.romHalt = s.ctl.romHalt ∧ t.ctl.mode = s.ctl.mode ∧
      t.ctl.onBit F.TOP_BOOT_STAT_FAIL 0 = (s.ctl.onBit F.TOP_BOOT_STAT_FAIL 0 || src == 2)) ∧
  (∀ s : State, s.ctl.live = true → s.ctl.romPolls = false → Completes .hostBootReady s fun t => s.IsRegs [R.TOP_HOSTBOOT] t ∧
      t.ctl.on F.TOP_HOSTBOOT_HB_READY = true ∧ t.ctl.on F.TOP_HOSTBOOT_HB_FAIL = false) ∧
  (∀ s : State, s.ctl.romPolls = true → beAt (tbytes s.mem.sram 0xFFFC0 64) 0 4 ≠ 0x53545849 →
    Completes .hostBootReady s fun t => s.IsRegs [R.TOP_HOSTBOOT, R.TOP_BOOT_STAT, R.TOP_BOOT_WHY] t ∧
      t.ctl.on F.TOP_HOSTBOOT_HB_READY = false ∧ t.ctl.on F.TOP_HOSTBOOT_HB_FAIL = true ∧
      t.ctl.onBit F.TOP_BOOT_STAT_FAIL 2 = true ∧ t.ctl.get F.TOP_BOOT_WHY_HOST = 1) ∧
  (∀ (h l : List Byte) (s : State), s.ctl.romPolls = true → tbytes s.mem.sram 0xFFFC0 64 = h → s.ctl.headerReason h = 0 →
    tbytes s.mem.sram 0 (beAt h 8 4) = l → s.ctl.on F.CIP_STAT_LOCKED = false →
    Completes .hostBootReady s fun t => s.IsRegs [R.TOP_HOSTBOOT, R.TOP_BOOT_STAT, R.TOP_BOOT_WHY, R.TOP_REMAP] t ∧
      (imageTagOk h l = true → t.ctl.get F.TOP_BOOT_STAT_PHASE = 5 ∧ t.ctl.get F.TOP_BOOT_STAT_SOURCE = 3 ∧
        t.ctl.get F.TOP_BOOT_STAT_IMAGE_VERSION = beAt h 16 2 ∧ t.ctl.on F.TOP_HOSTBOOT_HB_DONE = true ∧
        (s.ctl.leftBoot = false → t.ctl.on F.TOP_REMAP_REMAP = true)) ∧
      (imageTagOk h l = false → t.ctl.on F.TOP_HOSTBOOT_HB_FAIL = true ∧ t.ctl.on F.TOP_HOSTBOOT_HB_READY = false ∧
        t.ctl.onBit F.TOP_BOOT_STAT_FAIL 2 = true ∧ t.ctl.get F.TOP_BOOT_WHY_HOST = 4))

/-! ### Receive and transmit lanes -/

/-- For an external lane that is not in a terminal loop SIGNAL_RISE and SIGNAL_FALL record the presence of the input, enabled or not; in a loop a rise
acts while the lane's transmitter is lit, and a fall while it is not. For one whose receive side is enabled, CDR_LOCK and CDR_LOCK_LOSS record the
lock, EQ_CONVERGE with an input present and FREEZE 0 sets EQ_CONV and the measured eye, and EQ_RESTART clears EQ_CONV. Nothing else changes. For any
other lane number each of them leaves the state as it is, and for a lane whose receive side is disabled all but the first two, as do the declarations
and clearings of LOS and LOL. Its clauses keep the model's own choices of log entries 5, 26. (04_lane_receive.md: Rate, equaliser and CDR (R101,
R102); 04_lane_receive.md: Defects (R112)) -/
def Obligations.LaneInputs : Prop :=
  (∀ (n : Nat) (s : State), n < 24 → s.ctl.timed = true →
    ((s.ctl.lrx n).looped = false ∨ s.ctl.txLit n = true →
      Gives (.signalRise n) s { s with ctl := s.ctl.setRx n { s.ctl.lrx n with sig := true } }) ∧
    ((s.ctl.lrx n).looped = false ∨ s.ctl.txLit n = false →
      Gives (.signalFall n) s { s with ctl := s.ctl.setRx n { s.ctl.lrx n with sig := false } }) ∧
    ((s.ctl.lrx n).looped = true → s.ctl.txLit n = false → Gives (.signalRise n) s s) ∧
    ((s.ctl.lrx n).looped = true → s.ctl.txLit n = true → Gives (.signalFall n) s s)) ∧
  (∀ (n : Nat) (s : State), n < 24 → s.ctl.timed = true → s.ctl.rxEnabled n = true →
    Gives (.cdrLock n) s { s with ctl := s.ctl.setRx n { s.ctl.lrx n with cdr := true } } ∧
    Gives (.cdrLockLoss n) s { s with ctl := s.ctl.setRx n { s.ctl.lrx n with cdr := false } } ∧
    Gives (.eqRestart n) s { s with ctl := s.ctl.setRx n { s.ctl.lrx n with eqConv := false } }) ∧
  (∀ (n v h : Nat) (s : State), n < 24 → s.ctl.timed = true → s.ctl.rxEnabled n = true → (s.ctl.lrx n).sig = true →
    s.ctl.on (F.LRX_EQ_FREEZE n) = false →
    Gives (.eqConverge n v h) s { s with ctl := s.ctl.setRx n { s.ctl.lrx n with eqConv := true, eyeV := v, eyeH := h } }) ∧
  (∀ (n : Nat) (s : State), 24 ≤ n → Gives (.signalRise n) s s ∧ Gives (.signalFall n) s s) ∧
  (∀ (n v h : Nat) (s : State), (24 ≤ n ∨ s.ctl.rxEnabled n = false) → ∀ i ∈ [Instr.cdrLock n,
      .cdrLockLoss n, .eqConverge n v h, .eqRestart n, .losDeclare n, .losClear n, .lolDeclare n, .lolClear n], Gives i s s)

/-- For an enabled external lane: LOS_DECLARE without an input sets LOS with TOP 1, clears EQ_CONV, takes the lane out of frame and discards every
candidate; LOL_DECLARE without CDR lock sets LOL with TOP 1 or 2, and does the same to the hunt; LOS_CLEAR with an input and LOL_CLEAR with lock clear
their defect, keep the frame state, and TOP is the lowest defect that remains. When TOP begins or falls to a lower number, DEF_UP of the lane's page
is marked. With the input or the lock in the other state none of them does anything. Only the lane, its overhead, its PM second, its page's events,
the protection queue and the recorder's triggers may change. Its clauses keep the model's own choices of log entries 5, 26. (04_lane_receive.md:
Defects (R112, R113); 04_lane_receive.md: Consequent actions) -/
def Obligations.LaneDefects : Prop :=
  (∀ (n : Nat) (s : State), n < 24 → s.ctl.timed = true → s.ctl.rxEnabled n = true → (s.ctl.lrx n).sig = false →
    Completes (.losDeclare n) s fun t => s.LaneStep n [] t ∧ (t.ctl.lrx n).los = true ∧ (t.ctl.lrx n).eqConv = false ∧
      (t.ctl.lrx n).inFrame = false ∧ (t.ctl.lrx n).lof = true ∧ (t.ctl.lrx n).cands = [] ∧ (t.ctl.lrx n).top = 1 ∧
      ((s.ctl.lrx n).top ≠ 1 → t.ctl.evBit (0x100 + n) 0 = true)) ∧
  (∀ (n : Nat) (s : State), n < 24 → s.ctl.timed = true → s.ctl.rxEnabled n = true → (s.ctl.lrx n).cdr = false →
    Completes (.lolDeclare n) s fun t => s.LaneStep n [] t ∧ (t.ctl.lrx n).lol = true ∧ (t.ctl.lrx n).inFrame = false ∧
      (t.ctl.lrx n).lof = true ∧ (t.ctl.lrx n).cands = [] ∧ (t.ctl.lrx n).top = (if (s.ctl.lrx n).los then 1 else 2) ∧
      ((s.ctl.lrx n).top = 0 ∨ 2 < (s.ctl.lrx n).top → t.ctl.evBit (0x100 + n) 0 = true)) ∧
  (∀ (n : Nat) (s : State), n < 24 → s.ctl.timed = true → s.ctl.rxEnabled n = true → (s.ctl.lrx n).sig = true →
    Completes (.losClear n) s fun t => s.LaneStep n [] t ∧ (t.ctl.lrx n).los = false ∧ (t.ctl.lrx n).inFrame = (s.ctl.lrx n).inFrame ∧
      (t.ctl.lrx n).lol = (s.ctl.lrx n).lol ∧ (t.ctl.lrx n).top = { s.ctl.lrx n with los := false }.lowest) ∧
  (∀ (n : Nat) (s : State), n < 24 → s.ctl.timed = true → s.ctl.rxEnabled n = true → (s.ctl.lrx n).cdr = true →
    Completes (.lolClear n) s fun t => s.LaneStep n [] t ∧ (t.ctl.lrx n).lol = false ∧ (t.ctl.lrx n).inFrame = (s.ctl.lrx n).inFrame ∧
      (t.ctl.lrx n).los = (s.ctl.lrx n).los ∧ (t.ctl.lrx n).top = { s.ctl.lrx n with lol := false }.lowest) ∧
  (∀ (n : Nat) (s : State), (s.ctl.lrx n).sig = true → Gives (.losDeclare n) s s) ∧
  (∀ (n : Nat) (s : State), (s.ctl.lrx n).cdr = true → Gives (.lolDeclare n) s s) ∧
  (∀ (n : Nat) (s : State), (s.ctl.lrx n).sig = false → Gives (.losClear n) s s) ∧
  (∀ (n : Nat) (s : State), (s.ctl.lrx n).cdr = false → Gives (.lolClear n) s s)

/-- For an enabled lane with CDR lock that is not IN-FRAME : a position counts modulo the bits of a frame at the lane's rate; an exact FAW match at a
position with no candidate adds one with a first match while fewer than 8 are held, and otherwise only raises the lane page's event 6; an exact match
at a candidate's position raises its count and opens a decision window from the third on; a failed check discards the candidate. In a terminal loop a
position is judged on what the lane's own transmitter sends, and an idle one shows nothing. When a window closes with exactly one confirmed candidate,
the lane is IN-FRAME with no candidates and no window, its delay is the phase modulo 125 µs, and 125 µs more when that is below 2 µs, its arrival is
that of the position in the system multiframe, and event 3 is raised; with several of which exactly one qualifies (three MFI bytes below 32 that count
by one, at most one errored bit in each of the last two parities) it is IN-FRAME on that one; with several and none that qualifies all confirmed ones
are discarded; with two or more that qualify the others that are confirmed are discarded, the lane stays in hunt with ALIGN_AMBIG and event 2, and the
window stays open; with no confirmed candidate the window only closes. Its clauses keep the model's own choices of log entries 16, 26, 27.
(04_lane_receive.md: The alignment hunt (R104 to R109, Table 4.1); 04_lane_receive.md: The frame aligner and slips (R121)) -/
def Obligations.AlignmentHunt : Prop :=
  (∀ (n q pos mfi bip : Nat) (s : State), n < 24 → s.ctl.timed = true → s.ctl.rxEnabled n = true → (s.ctl.lrx n).inFrame = false →
    (s.ctl.lrx n).cdr = true → (s.ctl.lrx n).looped = false →
    pos = q % (if (s.ctl.lrx n).rate = 0 then 1280000 else 320000) → (s.ctl.lrx n).cands.find? (·.pos == pos) = none →
    ((s.ctl.lrx n).cands.length < 8 → Gives (.fawCandidateMatch n q true mfi bip) s
      { s with ctl := s.ctl.setRx n { s.ctl.lrx n with cands := (s.ctl.lrx n).cands ++ [⟨pos, 1, [mfi], []⟩] } }) ∧
    (8 ≤ (s.ctl.lrx n).cands.length → GivesEvent (.fawCandidateMatch n q true mfi bip) s (0x100 + n) 6 s) ∧
    Gives (.fawCandidateMatch n q false mfi bip) s s) ∧
  (∀ (n q pos mfi bip : Nat) (k : Cand) (s : State), n < 24 → s.ctl.timed = true → s.ctl.rxEnabled n = true → (s.ctl.lrx n).inFrame = false →
    (s.ctl.lrx n).cdr = true → (s.ctl.lrx n).looped = false →
    pos = q % (if (s.ctl.lrx n).rate = 0 then 1280000 else 320000) → (s.ctl.lrx n).cands.find? (·.pos == pos) = some k →
    Completes (.fawCandidateMatch n q true mfi bip) s (fun t => s.LaneStep n [] t ∧
      (∃ k' ∈ (t.ctl.lrx n).cands, k'.pos = pos ∧ k'.hits = k.hits + 1) ∧
      (t.ctl.lrx n).cands.length = (s.ctl.lrx n).cands.length ∧
      (∀ j ∈ (s.ctl.lrx n).cands, j.pos ≠ pos → j ∈ (t.ctl.lrx n).cands) ∧
      (t.ctl.lrx n).window = ((s.ctl.lrx n).window || decide (3 ≤ k.hits + 1))) ∧
    Gives (.fawCandidateMatch n q false mfi bip) s
      { s with ctl := s.ctl.setRx n { s.ctl.lrx n with cands := (s.ctl.lrx n).cands.filter (·.pos != pos) } }) ∧
  (∀ (n phase : Nat) (k : Cand) (s : State), n < 24 → s.ctl.timed = true → s.ctl.rxEnabled n = true → (s.ctl.lrx n).inFrame = false →
    (s.ctl.lrx n).window = true → (s.ctl.lrx n).cands.filter (fun k => decide (3 ≤ k.hits)) = [k] →
    Completes (.decisionWindowClose n phase) s fun t => s.LaneStep n [] t ∧ (t.ctl.lrx n).inFrame = true ∧ (t.ctl.lrx n).cands = [] ∧
      (t.ctl.lrx n).window = false ∧ (t.ctl.lrx n).mfAligned = false ∧
      (t.ctl.lrx n).dly = (if phase % 8000000 < 128000 then phase % 8000000 + 8000000 else phase % 8000000) ∧
      (t.ctl.lrx n).arr = s.ctl.arrivalOf (lget k.mfis (k.mfis.length - 1) 0xFF) phase ∧ t.ctl.evBit (0x100 + n) 3 = true) ∧
  (∀ (n phase : Nat) (s : State), n < 24 → s.ctl.timed = true → s.ctl.rxEnabled n = true → (s.ctl.lrx n).inFrame = false →
    (s.ctl.lrx n).window = true → (s.ctl.lrx n).cands.filter (fun k => decide (3 ≤ k.hits)) = [] →
    Gives (.decisionWindowClose n phase) s { s with ctl := s.ctl.setRx n { s.ctl.lrx n with window := false, ambig := false } }) ∧
  (∀ (n phase : Nat) (conf qual : List Cand) (s : State), n < 24 → s.ctl.timed = true → s.ctl.rxEnabled n = true →
    (s.ctl.lrx n).inFrame = false → (s.ctl.lrx n).window = true → (s.ctl.lrx n).cands.filter (fun k => decide (3 ≤ k.hits)) = conf →
    conf.filter (fun k => mfisCount k.mfis && k.bips.all (· ≤ 1)) = qual → 2 ≤ conf.length →
    (∀ k, qual = [k] → Completes (.decisionWindowClose n phase) s fun t => s.LaneStep n [] t ∧ (t.ctl.lrx n).inFrame = true ∧
      (t.ctl.lrx n).cands = [] ∧ (t.ctl.lrx n).window = false ∧ (t.ctl.lrx n).ambig = false ∧
      (t.ctl.lrx n).mfi = lget k.mfis (k.mfis.length - 1) 0xFF ∧ t.ctl.evBit (0x100 + n) 3 = true) ∧
    (qual = [] → Gives (.decisionWindowClose n phase) s { s with ctl := s.ctl.setRx n { s.ctl.lrx n with
      cands := (s.ctl.lrx n).cands.filter (fun k => !decide (3 ≤ k.hits)), window := false, ambig := false } }) ∧
    (2 ≤ qual.length → Completes (.decisionWindowClose n phase) s fun t => State.IsBut [0x100 + n] [R.LRX_CNT_HUNT n]
      { s with ctl := s.ctl.setRx n { s.ctl.lrx n with
        cands := (s.ctl.lrx n).cands.filter (fun k => !decide (3 ≤ k.hits) || (mfisCount k.mfis && k.bips.all (· ≤ 1))), ambig := true } } t ∧
      t.ctl.evBit (0x100 + n) 2 = true)) ∧
  (∀ (a b d : Nat), mfisCount [a, b, d] = decide (a < 32 ∧ b = (a + 1) % 32 ∧ d = (a + 2) % 32)) ∧
  (∀ (n q mfi bip : Nat) (e : Bool) (s : State), n < 24 → s.ctl.timed = true → (s.ctl.lrx n).looped = true → tfind s.dp.sent n = none →
    Gives (.fawCandidateMatch n q e mfi bip) s s) ∧
  (∀ (n q mfi bip : Nat) (e : Bool) (f g : RxFrame) (k : Bool × Nat × Nat) (s : State), n < 24 → s.ctl.timed = true →
    (s.ctl.lrx n).looped = true → tfind s.dp.sent n = some f → tfind s.dp.sentBefore n = some g →
    q % (8 * frameBytes (s.ctl.lrx n).rate) < 8 * (frameBytes (s.ctl.lrx n).rate - 6) →
    fawCheck (s.ctl.lrx n).rate (q % (8 * frameBytes (s.ctl.lrx n).rate)) g f = k →
    ∃ t, Gives (.fawCandidateMatch n q k.1 k.2.1 k.2.2) { s with ctl := s.ctl.setRx n { s.ctl.lrx n with looped := false } } t ∧
      Gives (.fawCandidateMatch n q e mfi bip) s { t with ctl := t.ctl.setRx n { t.ctl.lrx n with looped := true } })

/-- For an enabled IN-FRAME lane with LOF present: LOF_CLEAR clears LOF and records the arrival modulo 4 ms; the first member of a bond whose rate is the
bond's forms it on its own arrival with its delay plus GUARD and waits to join; a lane at another rate is out of bond, with event 5; a later member
waits to join when its delay in the bond would lie between 2 and 240 µs, and is out of bond otherwise. BOND_JOIN of a waiting member makes it a member
with the bond's delay plus its lead. BOND_REFORM_REQUEST sets REFORM. BOND_REFORM at the multiframe boundary with a request and no member IN-FRAME
ends the bond and clears every REFORM; with members IN-FRAME at the bond's rate, it reforms the bond on the arrival of the latest of them, the one
with the least lead over the old reference, with its delay under R121 plus GUARD; each of them joins with the new delay plus its lead when that lies
between 2 and 240 µs, and carries one blank frame when its delay changes. Its clauses keep the model's own choices of log entries 5, 27, 28.
(04_lane_receive.md: Defects (R112); 04_lane_receive.md: Lane bonds (R124 to R128)) -/
def Obligations.LossOfFrameAndBonds : Prop :=
  (∀ (n arr : Nat) (s : State), n < 24 → s.ctl.timed = true → s.ctl.rxEnabled n = true → (s.ctl.lrx n).inFrame = true →
    (s.ctl.lrx n).lof = true → s.ctl.bondOf n = 0 →
    Completes (.lofClear n arr) s fun t => s.LaneStep n [] t ∧ (t.ctl.lrx n).lof = false ∧ (t.ctl.lrx n).arr = arr % 256000000 ∧
      (t.ctl.lrx n).joining = (s.ctl.lrx n).joining ∧ (t.ctl.lrx n).top = { s.ctl.lrx n with lof := false }.lowest) ∧
  (∀ (n arr : Nat) (s : State), n < 24 → s.ctl.timed = true → s.ctl.rxEnabled n = true → (s.ctl.lrx n).inFrame = true →
    (s.ctl.lrx n).lof = true → s.ctl.bondOf n ≠ 0 → s.ctl.bondRateOk (s.ctl.bondOf n) n = true → tfind s.ctl.bonds (s.ctl.bondOf n) = none →
    Completes (.lofClear n arr) s fun t =>
      State.LaneStep n [] { s with ctl := { s.ctl with
        bonds := tput s.ctl.bonds (s.ctl.bondOf n) ⟨arr % 256000000, (s.ctl.lrx n).dly + s.ctl.bondGuard (s.ctl.bondOf n), n⟩ } } t ∧
      (t.ctl.lrx n).lof = false ∧ (t.ctl.lrx n).joining = true) ∧
  (∀ (n arr : Nat) (s : State), n < 24 → s.ctl.timed = true → s.ctl.rxEnabled n = true → (s.ctl.lrx n).inFrame = true →
    (s.ctl.lrx n).lof = true → s.ctl.bondOf n ≠ 0 → s.ctl.bondRateOk (s.ctl.bondOf n) n = false →
    Completes (.lofClear n arr) s fun t => s.LaneStep n [] t ∧ (t.ctl.lrx n).lof = false ∧ (t.ctl.lrx n).joined = false ∧
      (t.ctl.lrx n).joining = false ∧ (t.ctl.lrx n).bondOut = true ∧ t.ctl.evBit (0x100 + n) 5 = true) ∧
  (∀ (n arr : Nat) (d : Bond) (s : State), n < 24 → s.ctl.timed = true → s.ctl.rxEnabled n = true → (s.ctl.lrx n).inFrame = true →
    (s.ctl.lrx n).lof = true → s.ctl.bondOf n ≠ 0 → s.ctl.bondRateOk (s.ctl.bondOf n) n = true → tfind s.ctl.bonds (s.ctl.bondOf n) = some d →
    (128000 ≤ d.dly + leadOf d.refArr (arr % 256000000) ∧ d.dly + leadOf d.refArr (arr % 256000000) ≤ 15360000 →
      Completes (.lofClear n arr) s fun t => s.LaneStep n [] t ∧ (t.ctl.lrx n).lof = false ∧ (t.ctl.lrx n).joining = true) ∧
    (d.dly + leadOf d.refArr (arr % 256000000) < 128000 ∨ 15360000 < d.dly + leadOf d.refArr (arr % 256000000) →
      Completes (.lofClear n arr) s fun t => s.LaneStep n [] t ∧ (t.ctl.lrx n).lof = false ∧ (t.ctl.lrx n).joined = false ∧
        (t.ctl.lrx n).joining = false ∧ (t.ctl.lrx n).bondOut = true ∧ t.ctl.evBit (0x100 + n) 5 = true)) ∧
  (∀ (n : Nat) (d : Bond) (s : State), n < 24 → s.ctl.timed = true → s.ctl.rxEnabled n = true → (s.ctl.lrx n).joining = true →
    tfind s.ctl.bonds (s.ctl.bondOf n) = some d →
    Gives (.bondJoin n) s { s with ctl := s.ctl.setRx n { s.ctl.lrx n with
      joining := false, joined := true, bondOut := false, dly := (d.dly + leadOf d.refArr (s.ctl.lrx n).arr).toNat } }) ∧
  (∀ (n : Nat) (s : State), n < 24 → s.ctl.live = true →
    Completes (.bondReformRequest n) s fun t => s.IsRegs [R.LRX_BOND n] t ∧ t.ctl.on (F.LRX_BOND_REFORM n) = true ∧
      t.ctl.get (F.LRX_BOND_ID n) = s.ctl.get (F.LRX_BOND_ID n)) ∧
  (∀ (b : Nat) (s : State), 1 ≤ b → b ≤ 12 → s.ctl.timed = true → s.ctl.mfEdge = true →
    (s.ctl.bondMembers b).any (fun n => s.ctl.on (F.LRX_BOND_REFORM n)) = true →
    (s.ctl.bondMembers b).filter (fun n => (s.ctl.lrx n).inFrame) = [] →
    Completes (.bondReform b) s fun t =>
      State.IsRegs ((s.ctl.bondMembers b).map R.LRX_BOND) { s with ctl := { s.ctl with bonds := tdel s.ctl.bonds b } } t ∧
      ∀ n ∈ s.ctl.bondMembers b, t.ctl.on (F.LRX_BOND_REFORM n) = false) ∧
  (∀ (b ref : Nat) (up : List Nat) (s : State), 1 ≤ b → b ≤ 12 → s.ctl.timed = true → s.ctl.mfEdge = true →
    (s.ctl.bondMembers b).any (fun n => s.ctl.on (F.LRX_BOND_REFORM n)) = true →
    (s.ctl.bondMembers b).filter (fun n => (s.ctl.lrx n).inFrame && s.ctl.bondRateOk b n) = up → up ≠ [] →
    (match tfind s.ctl.bonds b with | some d => d.refArr | none => (s.ctl.lrx (up.headD 0)).arr) = ref →
    Completes (.bondReform b) s fun t => ∃ (d : Bond) (n : Nat), tfind t.ctl.bonds b = some d ∧ n ∈ up ∧
      (∀ m ∈ up, leadOf ref (s.ctl.lrx n).arr ≤ leadOf ref (s.ctl.lrx m).arr) ∧ d.refLane = n ∧ d.refArr = (s.ctl.lrx n).arr ∧
      d.dly = alignDelay (s.ctl.lrx n).dly + s.ctl.bondGuard b ∧
      (∀ m ∈ up, 128000 ≤ d.dly + leadOf d.refArr (s.ctl.lrx m).arr → d.dly + leadOf d.refArr (s.ctl.lrx m).arr ≤ 15360000 →
        (t.ctl.lrx m).joined = true ∧ (t.ctl.lrx m).bondOut = false ∧ (t.ctl.lrx m).dly = (d.dly + leadOf d.refArr (s.ctl.lrx m).arr).toNat ∧
        ((t.ctl.lrx m).dly ≠ (s.ctl.lrx m).dly → (t.ctl.lrx m).blank = true)) ∧
      (∀ m ∈ s.ctl.bondMembers b, t.ctl.on (F.LRX_BOND_REFORM m) = false) ∧ s.DataKept t)

/-- RATE_WRITE stores RATE alone. RATE_CHANGE at the multiframe boundary with another RATE puts it in force, out of frame and out of lock, with no
candidate, LOF present while the receive side is enabled, its overhead monitors afresh, and BOND_OUT kept. RX_ENABLE_WRITE of 0 clears ENABLE and
every monitor of the lane with TOP 0; of 1, on a lane that was off, it sets ENABLE with LOS, LOL and LOF present, TOP 1, and DEF_UP is marked.
TERM_LOOP_WRITE stores its bit, and the loop is made exactly in MAINTENANCE for a lane of the maintenance set. ERROR_WINDOW_END outside TOP 1 to 5,
once the window has run its length, starts the next without a gap at count 0 with the settings and length of now, and clears its defect when the count
did not exceed CLR; within TOP 1 to 5, and while the window has not run its length, it does nothing. Its clauses keep the model's own choices of log
entries 5, 26, 28. (04_lane_receive.md: Rate, equaliser and CDR (R100, R103); 04_lane_receive.md: Defects (R114); 04_lane_receive.md: Error-rate
defects (R116); 04_lane_receive.md: The transmit side (R131)) -/
def Obligations.LaneConfiguration : Prop :=
  (∀ (n r : Nat) (s : State), n < 24 → s.ctl.live = true →
    Completes (.rateWrite n r) s fun t => s.IsRegs [R.LRX_CTL n] t ∧ t.ctl.get (F.LRX_CTL_RATE n) = r % 2 ∧
      t.ctl.get (F.LRX_CTL_TERM_LOOP n) = s.ctl.get (F.LRX_CTL_TERM_LOOP n)) ∧
  (∀ (n : Nat) (s : State), n < 24 → s.ctl.timed = true → s.ctl.mfEdge = true → s.ctl.get (F.LRX_CTL_RATE n) ≠ (s.ctl.lrx n).rate →
    Completes (.rateChange n) s fun t => s.LaneStep n [] t ∧ (t.ctl.lrx n).rate = s.ctl.get (F.LRX_CTL_RATE n) ∧
      (t.ctl.lrx n).inFrame = false ∧ (t.ctl.lrx n).cdr = false ∧ (t.ctl.lrx n).lof = s.ctl.rxEnabled n ∧ (t.ctl.lrx n).cands = [] ∧
      (t.ctl.lrx n).bondOut = (s.ctl.lrx n).bondOut ∧ (t.ctl.loh n).timDiff = 0 ∧ (t.ctl.loh n).timSame = 0 ∧
      (t.ctl.lrx n).los = (s.ctl.lrx n).los ∧ (t.ctl.lrx n).lol = (s.ctl.lrx n).lol) ∧
  (∀ (n : Nat) (s : State), n < 24 → s.ctl.live = true →
    Completes (.rxEnableWrite n false) s fun t => s.LaneStep n [R.HDR_CTL (0x100 + n)] t ∧ t.ctl.rxEnabled n = false ∧
      t.ctl.lrx n = { (s.ctl.lrx n).powerUp with los := false, lol := false, lof := false, top := 0 } ∧
      t.ctl.loh n = (s.ctl.loh n).fresh) ∧
  (∀ (n : Nat) (s : State), n < 24 → s.ctl.live = true → s.ctl.rxEnabled n = false →
    Completes (.rxEnableWrite n true) s fun t => s.LaneStep n [R.HDR_CTL (0x100 + n)] t ∧ t.ctl.rxEnabled n = true ∧
      (t.ctl.lrx n).los = true ∧ (t.ctl.lrx n).lol = true ∧ (t.ctl.lrx n).lof = true ∧ (t.ctl.lrx n).top = 1 ∧
      (t.ctl.lrx n).inFrame = false ∧ t.ctl.evBit (0x100 + n) 0 = true) ∧
  (∀ (n : Nat) (b : Bool) (s : State), n < 24 → s.ctl.live = true →
    Completes (.termLoopWrite n b) s fun t => s.LaneStep n [R.LRX_CTL n] t ∧ t.ctl.on (F.LRX_CTL_TERM_LOOP n) = b ∧
      (t.ctl.lrx n).looped = (b && s.ctl.mode == .maintenance && s.ctl.onBit F.TOP_MAINT_SET_LANES n)) ∧
  (∀ (n : Nat) (s : State), n < 24 → s.ctl.timed = true → s.ctl.rxEnabled n = true → ((s.ctl.lrx n).top = 0 ∨ 5 < (s.ctl.lrx n).top) →
    (s.ctl.dueBy (s.ctl.lrx n).excEnd = true → Completes (.errorWindowEnd n false) s fun t =>
      State.LaneStep n [] { s with ctl := s.ctl.advMoment (s.ctl.lrx n).excEnd } t ∧ (t.ctl.lrx n).excCnt = 0 ∧
      (t.ctl.lrx n).excSet = s.ctl.excSetting n ∧ (t.ctl.lrx n).excLen = s.ctl.windowFrames n false ∧
      (t.ctl.lrx n).excEnd = (s.ctl.lrx n).excEnd + s.ctl.windowFrames n false * 25600 ∧
      ((s.ctl.lrx n).excCnt ≤ (s.ctl.lrx n).excSet.2 → (t.ctl.lrx n).exc = false)) ∧
    (s.ctl.dueBy (s.ctl.lrx n).degEnd = true → Completes (.errorWindowEnd n true) s fun t =>
      State.LaneStep n [] { s with ctl := s.ctl.advMoment (s.ctl.lrx n).degEnd } t ∧ (t.ctl.lrx n).degCnt = 0 ∧
      (t.ctl.lrx n).degSet = s.ctl.degSetting n ∧ (t.ctl.lrx n).degLen = s.ctl.windowFrames n true ∧
      (t.ctl.lrx n).degEnd = (s.ctl.lrx n).degEnd + s.ctl.windowFrames n true * 25600 ∧
      ((s.ctl.lrx n).degCnt ≤ (s.ctl.lrx n).degSet.2 → (t.ctl.lrx n).deg = false))) ∧
  (∀ (n : Nat) (d : Bool) (s : State), s.ctl.dueBy (if d then (s.ctl.lrx n).degEnd else (s.ctl.lrx n).excEnd) = false →
    Gives (.errorWindowEnd n d) s s) ∧
  (∀ (n : Nat) (d : Bool) (s : State), 1 ≤ (s.ctl.lrx n).top → (s.ctl.lrx n).top ≤ 5 → Gives (.errorWindowEnd n d) s s)

/-- TX_SOURCE_CHANGE of an external lane whose controls ask for another source than the one in force puts it in force and raises event 0 of the LTX page;
when they ask for the one in force nothing changes. A disabled transmitter is idle (3); an enabled one outside the traffic modes or with AIS_FORCE
sends lane AIS (1), else in MAINTENANCE for a lane of the maintenance set what LTX_TEST.MODE says, and otherwise the page output (0). FFE_WRITE stores
the three coefficients; when their sum is at most 63 and the main one exceeds the other two by at least 16 they take effect, and otherwise the last
permitted ones stay. Its clauses keep the model's own choices of log entry 29. (04_lane_receive.md: The transmit side (R129, R130, Table 4.5);
18_package_and_electrical.md: Lanes (R517)) -/
def Obligations.TransmitLanes : Prop :=
  (∀ (n : Nat) (s : State), n < 24 → s.ctl.timed = true → s.ctl.sourceWanted n ≠ (s.ctl.ltx n).source →
    GivesEvent (.txSourceChange n) s (0x120 + n) 0 { s with ctl := s.ctl.setTx n { s.ctl.ltx n with source := s.ctl.sourceWanted n } }) ∧
  (∀ (n : Nat) (s : State), s.ctl.sourceWanted n = (s.ctl.ltx n).source → Gives (.txSourceChange n) s s) ∧
  (∀ (n : Nat) (s : State), s.ctl.on (F.HDR_CTL_ENABLE (0x120 + n)) = false → s.ctl.sourceWanted n = 3) ∧
  (∀ (n : Nat) (s : State), s.ctl.on (F.HDR_CTL_ENABLE (0x120 + n)) = true →
    (s.ctl.mode = .boot ∨ s.ctl.mode = .commission ∨ s.ctl.on (F.LTX_CTL_AIS_FORCE n) = true) → s.ctl.sourceWanted n = 1) ∧
  (∀ (n : Nat) (s : State), s.ctl.on (F.HDR_CTL_ENABLE (0x120 + n)) = true → s.ctl.on (F.LTX_CTL_AIS_FORCE n) = false →
    (s.ctl.mode = .maintenance → s.ctl.onBit F.TOP_MAINT_SET_LANES n = true → s.ctl.sourceWanted n = s.ctl.get (F.LTX_TEST_MODE n)) ∧
    (s.ctl.mode = .maintenance → s.ctl.onBit F.TOP_MAINT_SET_LANES n = false → s.ctl.sourceWanted n = 0) ∧
    (s.ctl.mode = .active ∨ s.ctl.mode = .standby ∨ s.ctl.mode = .recovery → s.ctl.sourceWanted n = 0)) ∧
  (∀ (n : Nat) (v : Word) (s : State), n < 24 → s.ctl.live = true →
    wGet v 4 0 + wGet v 13 8 + wGet v 20 16 ≤ 63 → wGet v 4 0 + wGet v 20 16 + 16 ≤ wGet v 13 8 →
    Completes (.ffeWrite n v) s fun t =>
      State.IsRegs [R.LTX_FFE n] { s with ctl := s.ctl.setTx n { s.ctl.ltx n with ffe := (t.ctl.reg (R.LTX_FFE n)).toNat } } t ∧
      t.ctl.get (F.LTX_FFE_PRE n) = wGet v 4 0 ∧ t.ctl.get (F.LTX_FFE_MAIN n) = wGet v 13 8 ∧ t.ctl.get (F.LTX_FFE_POST n) = wGet v 20 16) ∧
  (∀ (n : Nat) (v : Word) (s : State), n < 24 → s.ctl.live = true →
    (63 < wGet v 4 0 + wGet v 13 8 + wGet v 20 16 ∨ wGet v 13 8 < wGet v 4 0 + wGet v 20 16 + 16) →
    Completes (.ffeWrite n v) s fun t => s.IsRegs [R.LTX_FFE n] t ∧
      t.ctl.get (F.LTX_FFE_PRE n) = wGet v 4 0 ∧ t.ctl.get (F.LTX_FFE_MAIN n) = wGet v 13 8 ∧ t.ctl.get (F.LTX_FFE_POST n) = wGet v 20 16)

/-- From every state in which both sides' connection entries and selectors are listed with strictly rising keys and none equal to its default (AIS for an
entry, 0 for a selector), and the marks of selectors and the held bytes rise strictly, every step that answers a next state answers one in which this
holds. (07_page_commit.md: Two pages and their windows; 06_cross_connect.md: Connection entries; 06_cross_connect.md: Selector entries) -/
def Obligations.StepsKeepPageForm : Prop :=
  ∀ s t : State, s.PagesCanonical → step s = .next t → t.PagesCanonical

/-! ### The frame and the overhead channels -/

/-- While system timing runs, FRAME_BOUNDARY makes FN one more modulo 2^48, begins the frame at tick 0 with the length that a phase step left for it,
moves the machine timer on by the rest of the frame, and starts an assembly. Without overrun, parity failures or an armed injection the output frame
is the one that was assembled. A lane in electrical idle sends no frame, one on lane AIS sends the AIS frame of its MFI, and any other sends FAW, its
MFI, the BIP-8 of the frame before and its REI, with the payload of its own output slots, of those of W_LANE while it is the P_LANE of a bridged lane
group, or of its line loopback. The boundary changes neither the adopted record, the mailboxes nor the peripherals, and it swaps no pages. Its clauses
keep the model's own choices of log entries 4, 37. (01_architecture.md: Clock domains and the clockless core (R20); 06_cross_connect.md: The frame
pipeline (R170 to R172); 11_reference_timing.md: The DPLL (R317)) -/
def Obligations.FrameBoundaryMovesTime : Prop :=
  ∀ (w : List (Nat × Int)) (f : List ParityFault) (o : Option (Nat × List Nat)) (l : List (Nat × Nat)) (h : Nat) (s : State), s.ctl.timed = true →
    Completes (.frameBoundary w f o l h) s fun t => t.ctl.fn = s.ctl.fn + 1 ∧ t.ctl.tick = 0 ∧ t.ctl.stretch = s.ctl.stretchNext ∧
      t.ctl.stretchNext = 0 ∧ t.ctl.mtime = (s.ctl.mtime + (s.ctl.frameTicks - s.ctl.tick)) % 2 ^ 64 ∧ t.ctl.assembling = true ∧
      (f = [] → o = none → s.ctl.on F.XCC_INJ_ARM = false → t.dp.output = s.dp.asm) ∧
      t.ctl.record = s.ctl.record ∧ t.ctl.mbx = s.ctl.mbx ∧ t.ctl.uart = s.ctl.uart ∧ t.ctl.i2c = s.ctl.i2c ∧
      t.ctl.held = none ∧ t.xc.act1 = s.xc.act1 ∧ t.xc.prot = s.xc.prot ∧ t.mem.sram = s.mem.sram ∧ t.mem.lmem = s.mem.lmem ∧
      ∀ n, n < 24 →
        ((s.ctl.ltx n).source = 3 → tfind t.dp.sent n = none) ∧
        ((s.ctl.ltx n).source = 1 → tfind t.dp.sent n = some (aisFrame ((s.ctl.fn + 1).toNat % 32))) ∧
        ((s.ctl.ltx n).source ≠ 3 → (s.ctl.ltx n).source ≠ 1 → ∃ f, tfind t.dp.sent n = some f ∧ f.faw = 0x1F4EB2C5 ∧
          f.mfi = (s.ctl.fn + 1).toNat % 32 ∧ f.bip = (s.ctl.ltx n).lastXor.getD 0 ∧ f.rei ≤ 8 ∧ (t.ctl.ltx n).rei = f.rei ∧
          ((s.ctl.ltx n).source = 2 → f.pay = lanePay t.dp.loopOut n) ∧
          ((s.ctl.ltx n).source = 0 →
            ((∀ q ∈ t.ctl.groups, lgBase ≤ q.1 → q.2.bridge = true → q.2.p ≠ n) → f.pay = lanePay t.dp.output n) ∧
            ∀ q, t.ctl.groups.find? (fun q => decide (lgBase ≤ q.1) && q.2.bridge && q.2.p == n) = some q →
              f.pay = lanePay t.dp.output q.2.w))

/-- While system timing runs and an assembly is in progress, ASSEMBLY_DONE ends it: XCC_ASM_TIME.LAST is the time in units of 10 ns, at most 65,535, and
MAX the greater of it and the MAX before; nothing else changes. With no assembly in progress nothing changes. Its clauses keep the model's own choices
of log entry 38. (06_cross_connect.md: The frame pipeline (R531); 06_cross_connect.md: XCC page) -/
def Obligations.AssemblyEnds : Prop :=
  (∀ (d : Nat) (s : State), s.ctl.timed = true → s.ctl.assembling = true →
    Completes (.assemblyDone d) s fun t => State.IsRegs [R.XCC_ASM_TIME] { s with ctl := { s.ctl with assembling := false } } t ∧
      t.ctl.get F.XCC_ASM_TIME_LAST = min 65535 d ∧ t.ctl.get F.XCC_ASM_TIME_MAX = max (min 65535 d) (s.ctl.get F.XCC_ASM_TIME_MAX)) ∧
  (∀ (d : Nat) (s : State), s.ctl.assembling = false → Gives (.assemblyDone d) s s)

/-- While system timing runs: a frame on an enabled IN-FRAME lane (in a terminal loop, the frame that its own transmitter sent before the present one)
whose FAW check is not the fourth errored one in a row leaves the lane IN-FRAME, adds its payload to the lane's aligner behind those that wait, leaves
every other lane's aligner and the pages alone, and keeps its BIP-8. A FAW of two or more errored bits that is the fourth in a row takes the lane out
of frame, with LOF present, no candidate and an empty aligner. On a lane that is not IN-FRAME or not enabled nothing changes. Its clauses keep the
model's own choices of log entries 16, 26, 30. (04_lane_receive.md: The alignment hunt (R109); 04_lane_receive.md: The frame aligner and slips (R121);
03_lane_frame.md: Scrambler and parity (R79)) -/
def Obligations.FramesReceived : Prop :=
  (∀ (n ago : Nat) (g f : RxFrame) (ms : List (Nat × Nat)) (s : State), n < 24 → s.ctl.timed = true → s.ctl.rxEnabled n = true →
    (s.ctl.lrx n).inFrame = true → f = (if (s.ctl.lrx n).looped then (tfind s.dp.sentBefore n).getD g else g) → ((s.ctl.lrx n).looped = true → (tfind s.dp.sentBefore n).isSome = true) →
    (popCount 32 (f.faw ^^^ 0x1F4EB2C5) ≤ 1 ∨ (s.ctl.lrx n).fawErr < 3) →
    Completes (.frameReceive n g ago ms) s fun t => (t.ctl.lrx n).inFrame = true ∧
      (t.ctl.lrx n).fawErr = (if popCount 32 (f.faw ^^^ 0x1F4EB2C5) ≤ 1 then 0 else (s.ctl.lrx n).fawErr + 1) ∧
      (t.ctl.lrx n).lastXor = some (lineXor (s.ctl.lrx n).rate f) ∧
      tget t.dp.fifo n [] = tget s.dp.fifo n [] ++ [f.pay] ∧ (∀ m, m ≠ n → tget t.dp.fifo m [] = tget s.dp.fifo m []) ∧
      (∀ m, m ≠ n → t.ctl.lrx m = s.ctl.lrx m) ∧ t.xc = s.xc ∧ t.pending = s.pending ∧ t.dp.output = s.dp.output ∧ t.dp.source = s.dp.source) ∧
  (∀ (n ago : Nat) (g f : RxFrame) (ms : List (Nat × Nat)) (s : State), n < 24 → s.ctl.timed = true → s.ctl.rxEnabled n = true →
    (s.ctl.lrx n).inFrame = true → f = (if (s.ctl.lrx n).looped then (tfind s.dp.sentBefore n).getD g else g) → ((s.ctl.lrx n).looped = true → (tfind s.dp.sentBefore n).isSome = true) →
    2 ≤ popCount 32 (f.faw ^^^ 0x1F4EB2C5) → (s.ctl.lrx n).fawErr = 3 →
    Completes (.frameReceive n g ago ms) s fun t =>
      State.LaneStep n [R.LRX_CNT_FAW n, R.LRX_CNT_HUNT n] { s with dp := { s.dp with fifo := tput s.dp.fifo n [] } } t ∧
      (t.ctl.lrx n).inFrame = false ∧ (t.ctl.lrx n).lof = true ∧ (t.ctl.lrx n).cands = []) ∧
  (∀ (n ago : Nat) (f : RxFrame) (ms : List (Nat × Nat)) (s : State), (s.ctl.lrx n).inFrame = false ∨ s.ctl.rxEnabled n = false →
    Gives (.frameReceive n f ago ms) s s)

/-- For an enabled lane with a complete MOB: where unsealed overhead is expected, MOB_RECEIVE accepts it when its CRC holds (MOB_SEQ rises, the trace
words are its own, the acceptance is marked unsealed), and otherwise counts garbage and raises event 0 of the LOH page. Where sealed overhead is
expected, MOB_SEAL_DECISION accepts one sealed throughout that is no replay, whose mask and hash key are at hand and whose tag is the first 8 bytes of
GMAC over bytes 0 to 243 and the held messages under its sequence, which becomes S_last; one of a multiframe that was not sealed throughout counts as
UNSEALED, and without a previous key a replay as REPLAY, one whose mask or hash key is not at hand as NOCHK, and one whose tag differs as TAGFAIL,
each with event 2. UNIT_CONFLICT_END clears the lane's conflict bit once 8 ms have passed, and FE_ACTIVE_EXPIRE at a multiframe boundary clears
FE_ACTIVE more than 2 multiframes after the last sealed acceptance. Its clauses keep the model's own choices of log entries 31, 32.
(05_overhead_channels.md: Received MOBs (R147, R148); 05_overhead_channels.md: Sealing on the line (R161, R162); 05_overhead_channels.md: Unit,
pennant and echo (R154, R156)) -/
def Obligations.MobsJudged : Prop :=
  (∀ (n k p : Nat) (b : List Byte) (a : Bool) (l : List (List Byte)) (s : State), n < 24 → s.ctl.timed = true → s.ctl.rxEnabled n = true →
    (s.ctl.loh n).mobDone = some (b, a, p, l) → s.ctl.on (F.LOH_SEAL_RX_EN n) = false → mobCrcOk b = true →
    Completes (.mobReceive n k) s fun t => s.DataKept t ∧ (t.ctl.loh n).mobDone = none ∧ (t.ctl.loh n).accAt = some (s.ctl.advTo k).mtime ∧
      (t.ctl.loh n).sealedAcc = false ∧ t.ctl.get (F.LOH_RX_STAT_MOB_SEQ n) = (s.ctl.get (F.LOH_RX_STAT_MOB_SEQ n) + 1) % 65536 ∧
      ∀ w, w < 16 → t.ctl.reg (R.LOH_TRACE_RX n w) = BitVec.ofNat 32 (beAt (slice b 0 64) (4 * w) 4)) ∧
  (∀ (n k p : Nat) (b : List Byte) (a : Bool) (l : List (List Byte)) (s : State), n < 24 → s.ctl.timed = true → s.ctl.rxEnabled n = true →
    (s.ctl.loh n).mobDone = some (b, a, p, l) → s.ctl.on (F.LOH_SEAL_RX_EN n) = false → mobCrcOk b = false →
    Completes (.mobReceive n k) s fun t =>
      State.IsBut [0x140 + n] [R.LOH_CNT_GARB n] { s with ctl := (s.ctl.advTo k).setOh n { s.ctl.loh n with mobDone := none } } t ∧
      t.ctl.get (F.LOH_CNT_GARB_GARB n) = min (2 ^ 32 - 1) (s.ctl.get (F.LOH_CNT_GARB_GARB n) + 1) ∧ t.ctl.evBit (0x140 + n) 0 = true) ∧
  (∀ (n k p q : Nat) (b tag : List Byte) (l : List (List Byte)) (key : KeyVal) (s : State), n < 24 → s.ctl.timed = true → s.ctl.rxEnabled n = true →
    (s.ctl.loh n).mobDone = some (b, true, p, l) → s.ctl.on (F.LOH_SEAL_RX_EN n) = true → (s.ctl.slot n).key = some key →
    SequenceOf (s.ctl.loh n).sLast (s.ctl.get (F.LOH_SEAL_RXHI_HI n)) (beAt b 240 4) q →
    (gmac key.bytes (ivBytes (0xA0 + b2n (!key.side)) key.epoch q) (b.take 244 ++ l.flatten)).take 8 = tag →
    (s.ctl.slrReady ⟨n, 1, q⟩ = true → s.ctl.slrReady ⟨n, 3, key.epoch⟩ = true → slice b 244 8 = tag →
      Completes (.mobSealDecision n k false) s fun t => s.DataKept t ∧ (t.ctl.loh n).mobDone = none ∧ (t.ctl.loh n).sLast = some q ∧
        (t.ctl.loh n).accAt = some (s.ctl.advTo k).mtime ∧ (t.ctl.loh n).sealedAcc = true ∧
        t.ctl.get (F.LOH_RX_STAT_MOB_SEQ n) = (s.ctl.get (F.LOH_RX_STAT_MOB_SEQ n) + 1) % 65536) ∧
    ((s.ctl.slot n).prev = none → s.ctl.slrReady ⟨n, 1, q⟩ = true → s.ctl.slrReady ⟨n, 3, key.epoch⟩ = true → slice b 244 8 ≠ tag →
      Completes (.mobSealDecision n k false) s fun t => s.DataKept t ∧ (t.ctl.loh n).mobDone = none ∧ (t.ctl.loh n).sLast = (s.ctl.loh n).sLast ∧
        t.ctl.get (F.LOH_CNT_AUTH_TAGFAIL n) = min 255 (s.ctl.get (F.LOH_CNT_AUTH_TAGFAIL n) + 1) ∧ t.ctl.evBit (0x140 + n) 2 = true) ∧
    ((s.ctl.slot n).prev = none → (s.ctl.slrReady ⟨n, 1, q⟩ = false ∨ s.ctl.slrReady ⟨n, 3, key.epoch⟩ = false) →
      Completes (.mobSealDecision n k false) s fun t => s.DataKept t ∧ (t.ctl.loh n).mobDone = none ∧ (t.ctl.loh n).sLast = (s.ctl.loh n).sLast ∧
        t.ctl.get (F.LOH_CNT_AUTH_NOCHK n) = min 255 (s.ctl.get (F.LOH_CNT_AUTH_NOCHK n) + 1) ∧ t.ctl.evBit (0x140 + n) 2 = true)) ∧
  (∀ (n k p : Nat) (b : List Byte) (l : List (List Byte)) (s : State), n < 24 → s.ctl.timed = true → s.ctl.rxEnabled n = true →
    (s.ctl.loh n).mobDone = some (b, false, p, l) → s.ctl.on (F.LOH_SEAL_RX_EN n) = true →
    Completes (.mobSealDecision n k false) s fun t => s.DataKept t ∧ (t.ctl.loh n).mobDone = none ∧ (t.ctl.loh n).sLast = (s.ctl.loh n).sLast ∧
      t.ctl.get (F.LOH_CNT_AUTH_UNSEALED n) = min 255 (s.ctl.get (F.LOH_CNT_AUTH_UNSEALED n) + 1) ∧ t.ctl.evBit (0x140 + n) 2 = true) ∧
  (∀ (n k p : Nat) (b : List Byte) (l : List (List Byte)) (s : State), n < 24 → s.ctl.timed = true → s.ctl.rxEnabled n = true →
    (s.ctl.loh n).mobDone = some (b, true, p, l) → s.ctl.on (F.LOH_SEAL_RX_EN n) = true → (s.ctl.slot n).prev = none →
    ∀ z, (s.ctl.loh n).sLast = some z → ((beAt b 240 4 + 2 ^ 32 - z % 2 ^ 32) % 2 ^ 32 = 0 ∨ 2 ^ 31 < (beAt b 240 4 + 2 ^ 32 - z % 2 ^ 32) % 2 ^ 32) →
    Completes (.mobSealDecision n k false) s fun t => s.DataKept t ∧ (t.ctl.loh n).mobDone = none ∧ (t.ctl.loh n).sLast = (s.ctl.loh n).sLast ∧
      t.ctl.get (F.LOH_CNT_AUTH_REPLAY n) = min 255 (s.ctl.get (F.LOH_CNT_AUTH_REPLAY n) + 1) ∧ t.ctl.evBit (0x140 + n) 2 = true) ∧
  (∀ (n k : Nat) (s : State), n < 24 → s.ctl.timed = true → 8 * 204800 ≤ (s.ctl.advTo k).mtime - (s.ctl.loh n).conflAt →
    Completes (.unitConflictEnd n k) s fun t => State.IsRegs [R.OHC_UNIT_CONFL] { s with ctl := s.ctl.advTo k } t ∧
      ∀ m, m < 24 → t.ctl.onBit F.OHC_UNIT_CONFL_LANES m = (s.ctl.onBit F.OHC_UNIT_CONFL_LANES m && m != n)) ∧
  (∀ (n a : Nat) (s : State), n < 24 → s.ctl.timed = true → s.ctl.mfEdge = true → (s.ctl.loh n).sealedAt = some a →
    64 * 25600 < s.ctl.mtime + (25600 - s.ctl.tick) - a →
    Completes (.feActiveExpire n) s fun t => (t.ctl.loh n).feActive = false ∧ s.ctl.GroupsKept t.ctl ∧
      ∃ o gs q p, t = { s with ctl := { s.ctl with oh := o, groups := gs, pgQueue := q, pmc := p } })

/-- For an enabled lane with messages waiting, APS_MESSAGE_RECEIVE takes the oldest: filler has no further effect, a malformed one is counted in MALF with
event 1 of the LOH page, a message that no group matches is counted in NOGRP, and a matched one gives its group REQ and SEL, restarts its 5 s and
queues it. SEAL_TX_EFFECT at the multiframe boundary puts TX_EN in effect. SEAL_TAG_DEADLINE in frame 30 of a sealed lane puts the tag in the MOB when
it can be made; when it cannot, the seal fields are zero, SEAL_LATE counts and event 4 of the LOH page and event 0 of the SLR page are raised.
OSP_BLOCK of an enabled port whose lane is extracted with 128 bytes stored passes them on; with its lane not extracted it passes idle bytes and holds
none, and a disabled port passes nothing. Its clauses keep the model's own choices of log entries 4, 32, 34, 35, 36. (05_overhead_channels.md: Sealing
on the line (R157, R159, R162); 03_lane_frame.md: The APS channel (R94, R98); 05_overhead_channels.md: Overhead serial ports (R141, R142)) -/
def Obligations.MessagesAndSealing : Prop :=
  (∀ (n : Nat) (m : List Byte) (r : List (List Byte)) (s : State), n < 24 → s.ctl.timed = true → s.ctl.rxEnabled n = true →
    (s.ctl.loh n).apsIn = m :: r → m.all (· == 0) = true →
    Gives (.apsMessageReceive n) s { s with ctl := s.ctl.setOh n { s.ctl.loh n with apsIn := r } }) ∧
  (∀ (n : Nat) (m : List Byte) (r : List (List Byte)) (s : State), n < 24 → s.ctl.timed = true → s.ctl.rxEnabled n = true →
    (s.ctl.loh n).apsIn = m :: r → m.all (· == 0) = false → apsDecode m = none →
    Completes (.apsMessageReceive n) s fun t =>
      State.IsBut [0x140 + n] [R.LOH_CNT_APS n] { s with ctl := s.ctl.setOh n { s.ctl.loh n with apsIn := r } } t ∧
      t.ctl.get (F.LOH_CNT_APS_MALF n) = min 65535 (s.ctl.get (F.LOH_CNT_APS_MALF n) + 1) ∧ t.ctl.evBit (0x140 + n) 1 = true) ∧
  (∀ (n : Nat) (m : List Byte) (r : List (List Byte)) (a : ApsMsg) (s : State), n < 24 → s.ctl.timed = true → s.ctl.rxEnabled n = true →
    (s.ctl.loh n).apsIn = m :: r → m.all (· == 0) = false → apsDecode m = some a →
    (s.ctl.apsMatch n a.pg = none → Completes (.apsMessageReceive n) s fun t =>
      State.IsRegs [R.LOH_CNT_APS n] { s with ctl := s.ctl.setOh n { s.ctl.loh n with apsIn := r } } t ∧
      t.ctl.get (F.LOH_CNT_APS_NOGRP n) = min 65535 (s.ctl.get (F.LOH_CNT_APS_NOGRP n) + 1)) ∧
    (∀ k, s.ctl.apsMatch n a.pg = some k → (s.ctl.group k).en = true → (s.ctl.group k).frozen = false → s.ctl.sourceFail n = false →
      Completes (.apsMessageReceive n) s fun t => s.DataKept t ∧ (∀ x, t.ctl.reg x = s.ctl.reg x) ∧ (t.ctl.loh n).apsIn = r ∧
        (t.ctl.group k).feReq = a.req ∧ (t.ctl.group k).feSel = a.sel ∧ (t.ctl.group k).feLost = false ∧
        (t.ctl.group k).lostAt = s.ctl.mtime + lostTicks ∧ (t.ctl.group k).sel = (s.ctl.group k).sel ∧
        (t.ctl.pgQueue.any fun q => q.1 == k) = true ∧ ∀ j, j ≠ k → t.ctl.group j = s.ctl.group j)) ∧
  (∀ (n : Nat) (s : State), n < 24 → s.ctl.timed = true → s.ctl.mfEdge = true →
    Gives (.sealTxEffect n) s { s with ctl := s.ctl.setTx n { s.ctl.ltx n with sealOn := s.ctl.on (F.LOH_SEAL_TX_EN n) } }) ∧
  (∀ (n q : Nat) (k : KeyVal) (s : State), n < 24 → s.ctl.timed = true → s.ctl.fnN % 32 = 30 → (s.ctl.ltx n).sealed = some (k, q) →
    s.ctl.tagReady n = true →
    Completes (.sealTagDeadline n false) s fun t => (t.ctl.ltx n).tagged = true ∧
      (t.ctl.ltx n).mob = sealedMob k q (s.ctl.ltx n).mob (s.ctl.ltx n).apsMf ∧ t.mem = s.mem ∧ t.xc = s.xc ∧
      (∀ m, m ≠ n → t.ctl.ltx m = s.ctl.ltx m) ∧ ∀ a, t.ctl.reg a = s.ctl.reg a) ∧
  (∀ (n : Nat) (s : State), n < 24 → s.ctl.timed = true → s.ctl.fnN % 32 = 30 → (s.ctl.ltx n).sealed.isSome = true →
    (s.ctl.ltx n).tagged = false → s.ctl.tagReady n = false →
    Completes (.sealTagDeadline n false) s fun t => (t.ctl.ltx n).tagged = false ∧
      (t.ctl.ltx n).mob = mobClose ((s.ctl.ltx n).mob.take 240 ++ List.replicate 12 0) ∧
      t.ctl.get (F.LOH_CNT_MISC_SEAL_LATE n) = min 65535 (s.ctl.get (F.LOH_CNT_MISC_SEAL_LATE n) + 1) ∧
      t.ctl.evBit (0x140 + n) 4 = true ∧ t.ctl.evBit 0x041 0 = true ∧ t.mem = s.mem ∧ t.xc = s.xc ∧ (∀ m, m ≠ n → t.ctl.ltx m = s.ctl.ltx m)) ∧
  (∀ (k : Nat) (d : List Byte) (s : State), k < 8 → s.ctl.timed = true → s.ctl.on (F.OHC_OSP_CTL_EN k) = true →
    s.ctl.extracted (s.ctl.get (F.OHC_OSP_CTL_LANE k)) = true → 128 ≤ (s.ctl.ospPort k).store.length →
    Gives (.ospBlock k d) s { s with ctl := s.ctl.setOsp k { s.ctl.ospPort k with
      di := slice d 0 128, running := true, out := (s.ctl.ospPort k).store.take 128, store := (s.ctl.ospPort k).store.drop 128 } }) ∧
  (∀ (k : Nat) (d : List Byte) (s : State), k < 8 → s.ctl.timed = true → s.ctl.on (F.OHC_OSP_CTL_EN k) = true →
    s.ctl.extracted (s.ctl.get (F.OHC_OSP_CTL_LANE k)) = false →
    Gives (.ospBlock k d) s { s with ctl := s.ctl.setOsp k { s.ctl.ospPort k with
      di := slice d 0 128, running := false, store := [], out := List.replicate 128 (BitVec.ofNat 8 (s.ctl.get (F.OHC_OSP_CTL_IDLE k))) } }) ∧
  (∀ (k : Nat) (d : List Byte) (s : State), s.ctl.on (F.OHC_OSP_CTL_EN k) = false → Gives (.ospBlock k d) s s)

/-- For rings 0 to 3 of an external lane: while the ring is enabled, RING_CFG_WRITE changes EN alone; while it is disabled, SIZE and BASE are stored, and
EN with a legal SIZE and BASE enables it with both pointers 0, and otherwise it stays disabled. RING_PTR_WRITE below the ring's size sets RD of rings
0 and 2 and WR of rings 1 and 3, and at or above the size does nothing. TRACE_EXP_WRITE stores the word and restarts the lane's TIM count. Nothing
else changes. Its clauses keep the model's own choices of log entries 33, 34. (05_overhead_channels.md: Overhead engine rings (R143, R144, R146);
05_overhead_channels.md: Lane trace and TIM (R151)) -/
def Obligations.RingsAndTrace : Prop :=
  (∀ (n i : Nat) (v : Word) (s : State), n < 24 → i < 4 → s.ctl.live = true → s.ctl.on (F.LOH_RING_CFG_EN n i) = true →
    Completes (.ringCfgWrite n i v) s fun t => s.IsRegs [R.LOH_RING_CFG n i] t ∧ t.ctl.on (F.LOH_RING_CFG_EN n i) = bit v.toNat 31 ∧
      t.ctl.get (F.LOH_RING_CFG_SIZE n i) = s.ctl.get (F.LOH_RING_CFG_SIZE n i) ∧ t.ctl.get (F.LOH_RING_CFG_BASE n i) = s.ctl.get (F.LOH_RING_CFG_BASE n i)) ∧
  (∀ (n i : Nat) (v : Word) (s : State), n < 24 → i < 4 → s.ctl.live = true → s.ctl.on (F.LOH_RING_CFG_EN n i) = false →
    ¬ (bit v.toNat 31 = true ∧ wGet v 27 24 ≤ 8 ∧ wGet v 21 0 % (256 * 2 ^ wGet v 27 24) = 0 ∧ wGet v 21 0 + 256 * 2 ^ wGet v 27 24 ≤ 0x400000) →
    Completes (.ringCfgWrite n i v) s fun t => s.IsRegs [R.LOH_RING_CFG n i] t ∧ t.ctl.on (F.LOH_RING_CFG_EN n i) = false ∧
      t.ctl.get (F.LOH_RING_CFG_SIZE n i) = wGet v 27 24 ∧ t.ctl.get (F.LOH_RING_CFG_BASE n i) = wGet v 21 0) ∧
  (∀ (n i : Nat) (v : Word) (s : State), n < 24 → i < 4 → s.ctl.live = true → s.ctl.on (F.LOH_RING_CFG_EN n i) = false →
    bit v.toNat 31 = true → wGet v 27 24 ≤ 8 → wGet v 21 0 % (256 * 2 ^ wGet v 27 24) = 0 → wGet v 21 0 + 256 * 2 ^ wGet v 27 24 ≤ 0x400000 →
    Completes (.ringCfgWrite n i v) s fun t =>
      (∃ o, State.IsRegs [R.LOH_RING_CFG n i, R.LOH_RING_WR n i, R.LOH_RING_RD n i] { s with ctl := s.ctl.setOh n o } t) ∧
      t.ctl.on (F.LOH_RING_CFG_EN n i) = true ∧ t.ctl.get (F.LOH_RING_CFG_SIZE n i) = wGet v 27 24 ∧
      t.ctl.get (F.LOH_RING_CFG_BASE n i) = wGet v 21 0 ∧ t.ctl.get (F.LOH_RING_WR_PTR n i) = 0 ∧ t.ctl.get (F.LOH_RING_RD_PTR n i) = 0) ∧
  (∀ (n i p : Nat) (s : State), n < 24 → i < 4 → s.ctl.live = true → p < s.ctl.dccSize n i → p < 65536 →
    Completes (.ringPtrWrite n i p) s fun t =>
      (i % 2 = 0 → s.IsRegs [R.LOH_RING_RD n i] t ∧ t.ctl.get (F.LOH_RING_RD_PTR n i) = p) ∧
      (i % 2 = 1 → s.IsRegs [R.LOH_RING_WR n i] t ∧ t.ctl.get (F.LOH_RING_WR_PTR n i) = p)) ∧
  (∀ (n i p : Nat) (s : State), s.ctl.dccSize n i ≤ p → Gives (.ringPtrWrite n i p) s s) ∧
  (∀ (n w : Nat) (v : Word) (s : State), n < 24 → w < 16 → s.ctl.live = true →
    Completes (.traceExpWrite n w v) s fun t =>
      State.IsRegs [R.LOH_TRACE_EXP n w] { s with ctl := s.ctl.setOh n { s.ctl.loh n with timDiff := 0, timSame := 0 } } t ∧
      t.ctl.reg (R.LOH_TRACE_EXP n w) = v)

/-! ### Pages, swaps and the ledger -/

/-- For a master that may make the access, with neither a copy nor a pending swap: a write through a STANDBY window stores one entry (32 bits), two
neighbouring entries (64 bits, no core), one half of a selector (32 bits) or a selector (64 bits), clears an entry's mark and a selector's once every
half that failed is written, abandons a running seal, ends a verdict, and changes nothing else of that side and nothing of the ACTIVE side; while a
copy or a pending swap stands it is answered with an error, CAUSE 1, and raises event 7 of the CMP page; a write through an ACTIVE window is answered
with an error, CAUSE 1, and a misaligned one, one of another size than 32 or 64 bits, and a 64-bit one of a core with CAUSE 2. A read without parity
failures answers the entry or the entries, the selector or its half, of its side; one that fails after replay answers an error, CAUSE 1, with event 6
of the XCC page and the failure counted, and marks an ACTIVE entry, or the failing halves of an ACTIVE selector, bad, with event 1 or 2 when the mark
is new, and nothing of the STANDBY side. Its clauses keep the model's own choices of log entries 12, 37, 73. (06_cross_connect.md: Slot space (R169);
07_page_commit.md: The STANDBY state (R200, R201); 06_cross_connect.md: Parity and replay (R189 to R191, R193); 15_cores_and_memory.md: The bus matrix
(R428, R530); 15_cores_and_memory.md: The cores (R416, R418)) -/
def Obligations.PageWindows : Prop :=
  (∀ (m a k d : Nat) (s : State), s.ctl.live = true → s.ctl.MayAct m a 4 true → s.PagesCanonical → pageLoc a = some (.entry false k) → a % 4 = 0 →
    s.ctl.standbyLocked = false →
    Completes (.standbyWindowWrite m a 4 d) s fun t => s.StandbyWritten t ∧ s.xc.standby.ButEntries [k] t.xc.standby ∧
      t.xc.standby.entry k = d % 2 ^ 32 ∧ t.xc.standby.badE.contains k = false) ∧
  (∀ (m a k d : Nat) (s : State), s.ctl.live = true → 4 ≤ m → s.ctl.MayAct m a 8 true → s.PagesCanonical → pageLoc a = some (.entry false k) →
    a % 8 = 0 → s.ctl.standbyLocked = false →
    Completes (.standbyWindowWrite m a 8 d) s fun t => s.StandbyWritten t ∧ s.xc.standby.ButEntries [k, k + 1] t.xc.standby ∧
      t.xc.standby.entry k = d % 2 ^ 32 ∧ t.xc.standby.entry (k + 1) = d / 2 ^ 32 % 2 ^ 32 ∧
      t.xc.standby.badE.contains k = false ∧ t.xc.standby.badE.contains (k + 1) = false) ∧
  (∀ (m a i h d : Nat) (s : State), s.ctl.live = true → s.ctl.MayAct m a 4 true → s.PagesCanonical → pageLoc a = some (.selector false i h) →
    a % 4 = 0 → s.ctl.standbyLocked = false →
    Completes (.standbyWindowWrite m a 4 d) s fun t => s.StandbyWritten t ∧ s.xc.standby.ButSelector i t.xc.standby ∧
      bits (t.xc.standby.selector i) 31 0 = (if h = 0 then d % 2 ^ 32 else bits (s.xc.standby.selector i) 31 0) ∧
      bits (t.xc.standby.selector i) 63 32 = (if h = 0 then bits (s.xc.standby.selector i) 63 32 else d % 2 ^ 32) ∧
      ∀ x, tfind s.xc.standby.badS i = some x → tfind t.xc.standby.badS i = if x - (x &&& 2 ^ h) = 0 then none else some (x - (x &&& 2 ^ h))) ∧
  (∀ (m a i h d : Nat) (s : State), s.ctl.live = true → 4 ≤ m → s.ctl.MayAct m a 8 true → s.PagesCanonical → pageLoc a = some (.selector false i h) →
    a % 8 = 0 → s.ctl.standbyLocked = false → (∀ x, tfind s.xc.standby.badS i = some x → x < 4) →
    Completes (.standbyWindowWrite m a 8 d) s fun t => s.StandbyWritten t ∧ s.xc.standby.ButSelector i t.xc.standby ∧
      t.xc.standby.selector i = d % 2 ^ 64 ∧ tfind t.xc.standby.badS i = none) ∧
  (∀ (m a z d : Nat) (q : PageLoc) (s : State), s.ctl.live = true → s.ctl.MayAct m a z true → pageLoc a = some q →
    (∃ k, q = .entry false k) ∨ (∃ i h, q = .selector false i h) → pageForm a z = true → (4 ≤ m ∨ z = 4) → s.ctl.standbyLocked = true →
    Completes (.standbyWindowWrite m a z d) s fun t => s.Refused m a 1 [0x021] [] t ∧ t.ctl.evBit 0x021 7 = true) ∧
  (∀ (m a z d : Nat) (q : PageLoc) (s : State), s.ctl.live = true → s.ctl.MayAct m a z true → pageLoc a = some q →
    (∃ k, q = .entry true k) ∨ (∃ i h, q = .selector true i h) → pageForm a z = true → (4 ≤ m ∨ z = 4) →
    Completes (.standbyWindowWrite m a z d) s (s.Refused m a 1 [] [])) ∧
  (∀ (m a z d : Nat) (q : PageLoc) (s : State), s.ctl.live = true → s.ctl.MayAct m a z true → pageLoc a = some q → q ≠ .hole →
    (pageForm a z = false ∨ m < 4 ∧ 4 < z) → Completes (.standbyWindowWrite m a z d) s (s.Refused m a 2 [] [])) ∧
  (∀ (m a k : Nat) (b : Bool) (s : State), s.ctl.live = true → pageLoc a = some (.entry b k) →
    (s.ctl.MayAct m a 4 false → a % 4 = 0 →
      Gives (.connWindowRead m a 4 0 0) s { s with ctl := { s.ctl with answer := .data ((s.xc.side b).entry k) } }) ∧
    (4 ≤ m → s.ctl.MayAct m a 8 false → a % 8 = 0 →
      Gives (.connWindowRead m a 8 0 0) s { s with ctl := { s.ctl with
        answer := .data ((s.xc.side b).entry k + (s.xc.side b).entry (k + 1) * 2 ^ 32) } })) ∧
  (∀ (m a i h : Nat) (b : Bool) (s : State), s.ctl.live = true → pageLoc a = some (.selector b i h) →
    (s.ctl.MayAct m a 4 false → a % 4 = 0 →
      Gives (.connWindowRead m a 4 0 0) s { s with ctl := { s.ctl with
        answer := .data (if h = 0 then bits ((s.xc.side b).selector i) 31 0 else bits ((s.xc.side b).selector i) 63 32) } }) ∧
    (4 ≤ m → s.ctl.MayAct m a 8 false → a % 8 = 0 →
      Gives (.connWindowRead m a 8 0 0) s { s with ctl := { s.ctl with answer := .data ((s.xc.side b).selector i) } })) ∧
  (∀ (m a k : Nat) (s : State), s.ctl.live = true → s.ctl.MayAct m a 4 false → pageLoc a = some (.entry false k) → a % 4 = 0 →
    Completes (.connWindowRead m a 4 0 1) s fun t => s.Refused m a 1 [0x020] [R.XCC_CNT_CM] t ∧ t.ctl.evBit 0x020 6 = true ∧
      t.ctl.get F.XCC_CNT_CM_FAIL = min 65535 (s.ctl.get F.XCC_CNT_CM_FAIL + 1)) ∧
  (∀ (m a k : Nat) (s : State), s.ctl.live = true → s.ctl.MayAct m a 4 false → pageLoc a = some (.entry true k) → a % 4 = 0 →
    Completes (.connWindowRead m a 4 0 1) s fun t => t.ctl.Logged m a 1 ∧ t.ctl.evBit 0x020 6 = true ∧
      t.ctl.get F.XCC_CNT_CM_FAIL = min 65535 (s.ctl.get F.XCC_CNT_CM_FAIL + 1) ∧ t.xc.active.badE.contains k = true ∧
      (s.xc.active.badE.contains k = false → t.ctl.evBit 0x020 1 = true ∧ t.ctl.get F.XCC_BAD_ENTRY = min 65535 (s.xc.active.badE.length + 1)) ∧
      (∀ j, j ≠ k → t.xc.active.badE.contains j = s.xc.active.badE.contains j) ∧ t.xc.active.entries = s.xc.active.entries ∧
      t.xc.active.sels = s.xc.active.sels ∧ t.xc.active.badS = s.xc.active.badS ∧ t.xc.standby = s.xc.standby ∧ t.mem = s.mem) ∧
  (∀ (m a i h : Nat) (s : State), s.ctl.live = true → s.ctl.MayAct m a 4 false → pageLoc a = some (.selector true i h) → a % 4 = 0 →
    Completes (.connWindowRead m a 4 0 1) s fun t => t.ctl.Logged m a 1 ∧ t.ctl.evBit 0x020 6 = true ∧
      t.ctl.get F.XCC_CNT_SEL_FAIL = min 65535 (s.ctl.get F.XCC_CNT_SEL_FAIL + 1) ∧
      tfind t.xc.active.badS i = some (tget s.xc.active.badS i 0 ||| 2 ^ h) ∧ ((tfind s.xc.active.badS i).isNone = true → t.ctl.evBit 0x020 2 = true) ∧
      (∀ j, j ≠ i → tfind t.xc.active.badS j = tfind s.xc.active.badS j) ∧ t.xc.active.entries = s.xc.active.entries ∧
      t.xc.active.sels = s.xc.active.sels ∧ t.xc.active.badE = s.xc.active.badE ∧ t.xc.standby = s.xc.standby ∧ t.mem = s.mem ∧ t.dp = s.dp)

/-- COPY_REQUEST and SEAL_REQUEST are refused with code 1 during a seal, a copy or a pending swap, and with 3 before initialisation; a seal in RECOVERY
with 2 whatever else holds; a refused seal raises event 1 of the CMP page. Accepted, STATE reads copying (3) or sealing (1), with no verdict, and a
seal records every lane's RATE. COPY_DONE, whatever reads fail, marks the ACTIVE entries and selectors whose reads fail and no other, gives the
STANDBY side the ACTIVE side's intact entries and selectors without marks, reports its fingerprint and raises event 6; without a failed read nothing
of the ACTIVE side changes. SEAL_VERDICT, whatever reads of its scan fail: a page with malformed entries ends with MALFORMED (3) and event 1; without
them, after the first evaluation, with ACCEPT (1) and event 0 when its assembly time does not exceed the ceiling, and otherwise with OVERLOAD (2) and
event 1; before the first evaluation the seal waits. Which failures mark both halves of a selector is the model's choice. Its clauses keep the model's
own choices of log entries 37, 39, 40. (07_page_commit.md: The STANDBY state (R202); 07_page_commit.md: The seal (R203 to R207);
08_capacity_and_margin.md: Assembly time of a page (R226, R227)) -/
def Obligations.CopiesAndSeals : Prop :=
  (∀ s : State, s.ctl.live = true → s.ctl.on F.CMP_STAT_INIT_DONE = true → s.ctl.on F.CMP_STAT_SWAP_PENDING = false →
    (s.ctl.get F.CMP_STAT_STATE = 0 ∨ s.ctl.get F.CMP_STAT_STATE = 2) → Completes .copyRequest s (fun t => t.ctl.get F.CMP_STAT_STATE = 3) ∧
    (s.ctl.mode ≠ .recovery → Completes .sealRequest s (fun t => t.ctl.get F.CMP_STAT_STATE = 1))) ∧
  (∀ s : State, s.ctl.live = true → s.ctl.get F.CMP_STAT_STATE = 3 → ∀ es ss, Completes (.copyDone es ss) s (fun t => t.ctl.get F.CMP_STAT_STATE = 0)) ∧
  (∀ (r a : Nat) (p : PageSet) (n sr dm hb hr : Nat) (s : State), s.ctl.live = true → s.ctl.get F.CMP_STAT_STATE = 1 → s.ctl.mgn.waiting = [] →
    s.ctl.on F.LGR_STAT_WAITING = false → s.xc.standby = p → s.ctl.get F.CMP_SEAL_RATES_RATES = r → p.counts r = (n, sr, dm, hb, hr) →
    asmTime (refTime n sr dm hr) (s.ctl.get F.MGN_PS_PS) = a →
    Completes (.sealVerdict []) s fun t => s.DataKept t ∧ t.ctl.get F.CMP_STAT_STATE = 2 ∧ t.ctl.get F.CMP_STAT_VERDICT =
      (if p.malformed r ≠ [] then 3 else if s.ctl.get F.LGR_ASM_CEIL_CEIL < a then 2 else 1)) ∧
  (∀ s : State, s.ctl.live = true → s.ctl.get F.CMP_STAT_STATE ≠ 1 → s.ctl.get F.CMP_STAT_STATE ≠ 3 → s.ctl.on F.CMP_STAT_SWAP_PENDING = false →
    s.ctl.on F.CMP_STAT_INIT_DONE = true → Completes .copyRequest s fun t => State.IsRegs [R.CMP_STAT, R.LGR_STAT] { s with ctl := { s.ctl with mgn := { s.ctl.mgn with refStby := none } } } t ∧
      t.ctl.get F.CMP_STAT_STATE = 3 ∧ t.ctl.get F.CMP_STAT_VERDICT = 0 ∧ t.ctl.get F.CMP_STAT_SEAL_REFUSE = 0) ∧
  (∀ s : State, s.ctl.live = true → (s.ctl.get F.CMP_STAT_STATE = 1 ∨ s.ctl.get F.CMP_STAT_STATE = 3 ∨ s.ctl.on F.CMP_STAT_SWAP_PENDING = true) →
    Completes .copyRequest s (fun t => s.IsRegs [R.CMP_STAT] t ∧ t.ctl.get F.CMP_STAT_SEAL_REFUSE = 1) ∧
    (s.ctl.mode ≠ .recovery → Completes .sealRequest s fun t => s.IsBut [0x021] [R.CMP_STAT] t ∧
      t.ctl.get F.CMP_STAT_SEAL_REFUSE = 1 ∧ t.ctl.evBit 0x021 1 = true)) ∧
  (∀ s : State, s.ctl.live = true → s.ctl.get F.CMP_STAT_STATE ≠ 1 → s.ctl.get F.CMP_STAT_STATE ≠ 3 → s.ctl.on F.CMP_STAT_SWAP_PENDING = false →
    s.ctl.on F.CMP_STAT_INIT_DONE = false →
    Completes .copyRequest s (fun t => s.IsRegs [R.CMP_STAT] t ∧ t.ctl.get F.CMP_STAT_SEAL_REFUSE = 3) ∧
    (s.ctl.mode ≠ .recovery → Completes .sealRequest s fun t => s.IsBut [0x021] [R.CMP_STAT] t ∧
      t.ctl.get F.CMP_STAT_SEAL_REFUSE = 3 ∧ t.ctl.evBit 0x021 1 = true)) ∧
  (∀ s : State, s.ctl.live = true → s.ctl.mode = .recovery →
    Completes .sealRequest s fun t => s.IsBut [0x021] [R.CMP_STAT] t ∧ t.ctl.get F.CMP_STAT_SEAL_REFUSE = 2 ∧ t.ctl.evBit 0x021 1 = true) ∧
  (∀ s : State, s.ctl.live = true → s.ctl.mode ≠ .recovery → s.ctl.get F.CMP_STAT_STATE ≠ 1 → s.ctl.get F.CMP_STAT_STATE ≠ 3 →
    s.ctl.on F.CMP_STAT_SWAP_PENDING = false → s.ctl.on F.CMP_STAT_INIT_DONE = true →
    Completes .sealRequest s fun t =>
      State.IsRegs [R.CMP_STAT, R.LGR_STAT, R.CMP_SEAL_RATES] { s with ctl := { s.ctl with mgn := { s.ctl.mgn with refStby := none } } } t ∧
      t.ctl.get F.CMP_STAT_STATE = 1 ∧ t.ctl.get F.CMP_STAT_VERDICT = 0 ∧ t.ctl.on F.CMP_STAT_SEAL_ABORTED = false ∧
      ∀ n, n < 24 → t.ctl.onBit F.CMP_SEAL_RATES_RATES n = s.ctl.on (F.LRX_CTL_RATE n)) ∧
  (∀ s : State, s.ctl.live = true → s.ctl.get F.CMP_STAT_STATE = 3 →
    Completes (.copyDone [] []) s fun t => t.xc.active = s.xc.active ∧ t.xc.act1 = s.xc.act1 ∧
      t.xc.standby.entries = s.xc.active.badE.foldl tdel s.xc.active.entries ∧
      t.xc.standby.sels = s.xc.active.badS.foldl (fun x q => tdel x q.1) s.xc.active.sels ∧ t.xc.standby.badE = [] ∧ t.xc.standby.badS = [] ∧
      t.ctl.get F.CMP_STAT_STATE = 0 ∧ t.ctl.get F.CMP_FP_STBY_FP = t.xc.standby.fingerprint % 2 ^ 32 ∧ t.ctl.evBit 0x021 6 = true ∧
      t.mem = s.mem ∧ t.dp = s.dp) ∧
  (∀ (es ss : List Nat) (s : State), s.ctl.live = true → s.ctl.get F.CMP_STAT_STATE = 3 →
    Completes (.copyDone es ss) s fun t => t.xc.act1 = s.xc.act1 ∧ t.xc.active.entries = s.xc.active.entries ∧ t.xc.active.sels = s.xc.active.sels ∧
      (∀ k, k ∈ t.xc.active.badE ↔ k ∈ s.xc.active.badE ∨ k ∈ es) ∧
      (∀ i, (tfind t.xc.active.badS i).isSome = true ↔ (tfind s.xc.active.badS i).isSome = true ∨ i ∈ ss) ∧
      t.xc.standby.entries = t.xc.active.badE.foldl tdel s.xc.active.entries ∧
      t.xc.standby.sels = t.xc.active.badS.foldl (fun x q => tdel x q.1) s.xc.active.sels ∧ t.xc.standby.badE = [] ∧ t.xc.standby.badS = [] ∧
      t.ctl.get F.CMP_STAT_STATE = 0 ∧ t.ctl.get F.CMP_FP_STBY_FP = t.xc.standby.fingerprint % 2 ^ 32 ∧ t.ctl.evBit 0x021 6 = true ∧ t.mem = s.mem) ∧
  (∀ (fs : List ParityFault) (u s : State), s.ctl.live = true → s.ctl.get F.CMP_STAT_STATE = 1 → s.ctl.mgn.waiting.any Waiting.isSeal = false →
    u = s.scanFaults fs → u.xc.standby.malformed (u.ctl.get F.CMP_SEAL_RATES_RATES) ≠ [] →
    Completes (.sealVerdict fs) s fun t => u.DataKept t ∧ t.ctl.get F.CMP_STAT_STATE = 2 ∧ t.ctl.get F.CMP_STAT_VERDICT = 3 ∧ t.ctl.evBit 0x021 1 = true ∧
      t.ctl.get F.CMP_SEAL_BAD_COUNT = min (2 ^ 23 - 1) (u.xc.standby.malformed (u.ctl.get F.CMP_SEAL_RATES_RATES)).length) ∧
  (∀ (fs : List ParityFault) (n sr dm hb hr : Nat) (u s : State), s.ctl.live = true → s.ctl.get F.CMP_STAT_STATE = 1 →
    s.ctl.mgn.waiting.any Waiting.isSeal = false → u = s.scanFaults fs →
    u.xc.standby.malformed (u.ctl.get F.CMP_SEAL_RATES_RATES) = [] →
    u.xc.standby.counts (u.ctl.get F.CMP_SEAL_RATES_RATES) = (n, sr, dm, hb, hr) →
    (u.ctl.on F.LGR_STAT_WAITING = true → Completes (.sealVerdict fs) s fun t => u.DataKept t ∧
      t.ctl.mgn.waiting = u.ctl.mgn.waiting ++ [.seal ⟨u.xc.standby.fingerprint, n, sr, dm, hb, hr⟩] ∧ ∀ a, t.ctl.reg a = u.ctl.reg a) ∧
    (u.ctl.on F.LGR_STAT_WAITING = false → Completes (.sealVerdict fs) s fun t => u.DataKept t ∧ t.ctl.get F.CMP_STAT_STATE = 2 ∧
      (asmTime (refTime n sr dm hr) (u.ctl.get F.MGN_PS_PS) ≤ u.ctl.get F.LGR_ASM_CEIL_CEIL →
        t.ctl.get F.CMP_STAT_VERDICT = 1 ∧ t.ctl.mgn.refStby = some (refTime n sr dm hr) ∧ t.ctl.mgn.evalDue = u.ctl.mgn.evalDue + 1 ∧
        t.ctl.evBit 0x021 0 = true) ∧
      (u.ctl.get F.LGR_ASM_CEIL_CEIL < asmTime (refTime n sr dm hr) (u.ctl.get F.MGN_PS_PS) →
        t.ctl.get F.CMP_STAT_VERDICT = 2 ∧ t.ctl.mgn = u.ctl.mgn ∧ t.ctl.evBit 0x021 1 = true)))

/-- SWAP_REQUEST without schedule and agreement, on a sealed page with verdict ACCEPT, no swap pending, outside RECOVERY and with every lane's rate as
recorded, is accepted for the next frame: pending, RESULT 1, CMP_SWAP_TGT the frame. A scheduled one is accepted for its frame T when that lies at or
after the next frame, and 16 frames after it for a swap agreed with the mate; one too late is refused with RESULT 7 when strict or agreed, and
otherwise accepted for the next multiframe, marked late with event 4. An agreed one without a schedule is refused with RESULT 4. Any other request is
refused in RECOVERY with RESULT 8, while a swap is pending or a seal or copy runs with 6, without an accepted seal with 5, and with a rate at its
target other than recorded with 10; a refusal changes RESULT alone and raises event 3 of the CMP page. SWAP_CANCEL ends a pending swap with RESULT 11.
AGREEMENT_CHECK at the check frame of an agreed swap leaves it when the last pennant reports an agreed swap for the same T, SEALED, ACCEPT and the
same STANDBY fingerprint and none has been missed since, and otherwise ends it with RESULT 9 and event 3; a swap that is not agreed it leaves alone.
Its clauses keep the model's own choices of log entries 4, 41. (07_page_commit.md: The swap (R209 to R212, R216); 07_page_commit.md: Agreement in a
pair (R218)) -/
def Obligations.SwapRequests : Prop :=
  (∀ (ag st la : Bool) (s : State), s.ctl.live = true → s.ctl.mode ≠ .recovery → s.ctl.on F.CMP_STAT_SWAP_PENDING = false →
    s.ctl.get F.CMP_STAT_STATE = 2 → s.ctl.get F.CMP_STAT_VERDICT = 1 → (ag && s.ctl.pairEn) = false →
    (s.ctl.ratesOk (s.ctl.fnNext la) = true → Completes (.swapRequest ag st false la) s fun t =>
      State.IsRegs [R.CMP_STAT, R.CMP_SWAP_STAT, R.CMP_SWAP_TGT] { s with ctl := { s.ctl with
        swap := some ⟨s.ctl.fnNext la % 2 ^ 48, false, false, false⟩ } } t ∧
      t.ctl.on F.CMP_STAT_SWAP_PENDING = true ∧ t.ctl.get F.CMP_SWAP_STAT_RESULT = 1 ∧ t.ctl.get F.CMP_SWAP_TGT_FN = s.ctl.fnNext la % 2 ^ 32 ∧
      t.ctl.get F.CMP_STAT_STATE = 2) ∧
    (s.ctl.ratesOk (s.ctl.fnNext la) = false → Completes (.swapRequest ag st false la) s fun t =>
      s.IsBut [0x021] [R.CMP_SWAP_STAT] t ∧ t.ctl.get F.CMP_SWAP_STAT_RESULT = 10 ∧ t.ctl.evBit 0x021 3 = true)) ∧
  (∀ (ag st la p : Bool) (d : Int) (s : State), s.ctl.live = true → s.ctl.mode ≠ .recovery → s.ctl.on F.CMP_STAT_SWAP_PENDING = false →
    s.ctl.get F.CMP_STAT_STATE = 2 → s.ctl.get F.CMP_STAT_VERDICT = 1 → p = (ag && s.ctl.pairEn) →
    d = sdiff 32 (s.ctl.get F.CMP_SWAP_FN_T) (s.ctl.fnNext la % 2 ^ 32) →
    ((if p then 16 else 0) ≤ d → s.ctl.ratesOk (s.ctl.fnNext la + d.toNat) = true →
      Completes (.swapRequest ag st true la) s fun t =>
        State.IsRegs [R.CMP_STAT, R.CMP_SWAP_STAT, R.CMP_SWAP_TGT] { s with ctl := { s.ctl with
          swap := some ⟨(s.ctl.fnNext la + d.toNat) % 2 ^ 48, p, false, false⟩ } } t ∧
        t.ctl.on F.CMP_STAT_SWAP_PENDING = true ∧ t.ctl.get F.CMP_SWAP_STAT_RESULT = 1 ∧
        t.ctl.get F.CMP_SWAP_TGT_FN = (s.ctl.fnNext la + d.toNat) % 2 ^ 32) ∧
    ((if p then 16 else 0) ≤ d → s.ctl.ratesOk (s.ctl.fnNext la + d.toNat) = false →
      Completes (.swapRequest ag st true la) s fun t => s.IsBut [0x021] [R.CMP_SWAP_STAT] t ∧ t.ctl.get F.CMP_SWAP_STAT_RESULT = 10 ∧
        t.ctl.evBit 0x021 3 = true) ∧
    (d < (if p then 16 else 0) → (st || p) = true →
      Completes (.swapRequest ag st true la) s fun t => s.IsBut [0x021] [R.CMP_SWAP_STAT] t ∧ t.ctl.get F.CMP_SWAP_STAT_RESULT = 7 ∧
        t.ctl.evBit 0x021 3 = true) ∧
    (d < 0 → st = false → p = false → s.ctl.ratesOk ((s.ctl.fnNext la + 31) / 32 * 32) = true →
      Completes (.swapRequest ag st true la) s fun t =>
        State.IsBut [0x021] [R.CMP_STAT, R.CMP_SWAP_STAT, R.CMP_SWAP_TGT] { s with ctl := { s.ctl with
          swap := some ⟨(s.ctl.fnNext la + 31) / 32 * 32 % 2 ^ 48, false, true, false⟩ } } t ∧
        t.ctl.on F.CMP_STAT_SWAP_PENDING = true ∧ t.ctl.on F.CMP_SWAP_STAT_SCHED_LATE = true ∧ t.ctl.evBit 0x021 4 = true)) ∧
  (∀ (st la : Bool) (s : State), s.ctl.live = true → s.ctl.pairEn = true →
    Completes (.swapRequest true st false la) s fun t => s.IsBut [0x021] [R.CMP_SWAP_STAT] t ∧ t.ctl.get F.CMP_SWAP_STAT_RESULT = 4 ∧
      t.ctl.evBit 0x021 3 = true) ∧
  (∀ (ag st sc la : Bool) (s : State), s.ctl.live = true → s.ctl.mode = .recovery → (ag = false ∨ sc = true ∨ s.ctl.pairEn = false) →
    Completes (.swapRequest ag st sc la) s fun t => s.IsBut [0x021] [R.CMP_SWAP_STAT] t ∧ t.ctl.get F.CMP_SWAP_STAT_RESULT = 8 ∧ t.ctl.evBit 0x021 3 = true) ∧
  (∀ (ag st sc la : Bool) (s : State), s.ctl.live = true → s.ctl.mode ≠ .recovery → (ag = false ∨ sc = true ∨ s.ctl.pairEn = false) →
    (s.ctl.on F.CMP_STAT_SWAP_PENDING = true ∨ s.ctl.get F.CMP_STAT_STATE = 1 ∨ s.ctl.get F.CMP_STAT_STATE = 3) →
    Completes (.swapRequest ag st sc la) s fun t => s.IsBut [0x021] [R.CMP_SWAP_STAT] t ∧ t.ctl.get F.CMP_SWAP_STAT_RESULT = 6 ∧ t.ctl.evBit 0x021 3 = true) ∧
  (∀ (ag st sc la : Bool) (s : State), s.ctl.live = true → s.ctl.mode ≠ .recovery → s.ctl.on F.CMP_STAT_SWAP_PENDING = false →
    (ag = false ∨ sc = true ∨ s.ctl.pairEn = false) →
    (s.ctl.get F.CMP_STAT_STATE = 0 ∨ s.ctl.get F.CMP_STAT_STATE = 2 ∧ s.ctl.get F.CMP_STAT_VERDICT ≠ 1) →
    Completes (.swapRequest ag st sc la) s fun t => s.IsBut [0x021] [R.CMP_SWAP_STAT] t ∧ t.ctl.get F.CMP_SWAP_STAT_RESULT = 5 ∧ t.ctl.evBit 0x021 3 = true) ∧
  (∀ (r : SwapReq) (s : State), s.ctl.live = true → s.ctl.swap = some r →
    Completes .swapCancel s fun t => State.IsRegs [R.CMP_STAT, R.CMP_SWAP_STAT] { s with ctl := { s.ctl with swap := none } } t ∧
      t.ctl.on F.CMP_STAT_SWAP_PENDING = false ∧ t.ctl.get F.CMP_SWAP_STAT_RESULT = 11) ∧
  (∀ s : State, s.ctl.swap = none → Gives .swapCancel s s ∧ Gives .agreementCheck s s) ∧
  (∀ (r : SwapReq) (s : State), s.ctl.timed = true → s.ctl.swap = some r → r.agree = true → s.ctl.nearFn (r.target + 2 ^ 48 - 8) = true →
    (s.ctl.pair.mate = none ∨ r.missed = true ∨ ∃ p, s.ctl.pair.mate = some p ∧
      (bit p.cmp 3 = false ∨ p.swapT ≠ r.target % 2 ^ 32 ∨ p.cmp / 64 ≠ 2 ∨ bits p.cmp 5 4 ≠ 1 ∨ p.fpStby ≠ (s.ctl.reg R.CMP_FP_STBY).toNat)) →
    Completes .agreementCheck s fun t => State.IsBut [0x021] [R.CMP_STAT, R.CMP_SWAP_STAT] { s with ctl := { s.ctl with swap := none } } t ∧
      t.ctl.on F.CMP_STAT_SWAP_PENDING = false ∧ t.ctl.get F.CMP_SWAP_STAT_RESULT = 9 ∧ t.ctl.evBit 0x021 3 = true) ∧
  (∀ (r : SwapReq) (p : Pennant) (s : State), s.ctl.timed = true → s.ctl.swap = some r → s.ctl.pair.mate = some p → r.missed = false →
    bit p.cmp 3 = true → p.swapT = r.target % 2 ^ 32 → p.cmp / 64 = 2 → bits p.cmp 5 4 = 1 → p.fpStby = (s.ctl.reg R.CMP_FP_STBY).toNat →
    Gives .agreementCheck s s) ∧
  (∀ (r : SwapReq) (s : State), s.ctl.swap = some r → r.agree = false → Gives .agreementCheck s s)

/-- SWAP_EXECUTE with a pending swap whose target frame begins next and every rate as recorded: the other memory set is reached through the ACTIVE
windows, both sets keep their contents, no swap is pending, RESULT is 2, or 3 for one scheduled late, the STANDBY side is unsealed, the fingerprints
are exchanged, SWAPS counts and event 2 of the CMP page is raised; held bytes are kept only for slots whose entry and named selector do not differ.
With a rate other than recorded the swap ends with RESULT 10 and event 3, and no side changes. Before the target frame nothing happens. Its clauses
keep the model's own choices of log entries 4, 41. (07_page_commit.md: The swap (R213, R215); 06_cross_connect.md: What an output slot carries (R185)) -/
def Obligations.SwapsExecute : Prop :=
  (∀ (r : SwapReq) (s : State), s.ctl.timed = true → s.ctl.swap = some r → r.target = (s.ctl.fnN + 1) % 2 ^ 48 → s.ctl.ratesOk (s.ctl.fnN + 1) = true →
    Completes .swapExecute s fun t => t.xc.act1 = !s.xc.act1 ∧ t.xc.set0 = s.xc.set0 ∧ t.xc.set1 = s.xc.set1 ∧ t.xc.prot = s.xc.prot ∧
      t.xc.heldBytes = heldAfter s.xc.active s.xc.standby s.xc.heldBytes ∧ t.ctl.swap = none ∧ t.ctl.on F.CMP_STAT_SWAP_PENDING = false ∧
      t.ctl.get F.CMP_SWAP_STAT_RESULT = (if r.late then 3 else 2) ∧ t.ctl.get F.CMP_STAT_STATE = 0 ∧
      t.ctl.get F.CMP_FP_ACTIVE_FP = s.ctl.get F.CMP_FP_STBY_FP ∧ t.ctl.get F.CMP_FP_STBY_FP = s.ctl.get F.CMP_FP_ACTIVE_FP ∧
      t.ctl.get F.CMP_CNT_SWAPS = (s.ctl.get F.CMP_CNT_SWAPS + 1) % 65536 ∧ t.ctl.evBit 0x021 2 = true ∧ t.mem = s.mem ∧ t.dp = s.dp) ∧
  (∀ (r : SwapReq) (s : State), s.ctl.timed = true → s.ctl.swap = some r → r.target = (s.ctl.fnN + 1) % 2 ^ 48 → s.ctl.ratesOk (s.ctl.fnN + 1) = false →
    Completes .swapExecute s fun t => State.IsBut [0x021] [R.CMP_STAT, R.CMP_SWAP_STAT] { s with ctl := { s.ctl with swap := none } } t ∧
      t.ctl.on F.CMP_STAT_SWAP_PENDING = false ∧ t.ctl.get F.CMP_SWAP_STAT_RESULT = 10 ∧ t.ctl.evBit 0x021 3 = true) ∧
  (∀ (r : SwapReq) (s : State), s.ctl.swap = some r → r.target ≠ (s.ctl.fnN + 1) % 2 ^ 48 → Gives .swapExecute s s)

/-- For accounts 1 to 4, when no evaluation is awaited for the account: LEDGER_CLAIM that fits adds its amount to USED and SW with RESULT 1 and changes
nothing else; one that does not fit leaves both, with RESULT 2, REFUSE_ACCT the account and event 0 of the LGR page. A write of LGR_CLAIM leaves
RESULT its own: a claim that waits from an earlier write does not overwrite it. A claim to accounts 2 and 3 before the first evaluation waits with
RESULT 4. LEDGER_RELEASE takes the lesser of its amount and SW from both, with RESULT 1. Any other account gives RESULT 3 alone. INJECT_ARM arms in
MAINTENANCE and does nothing elsewhere; BADLOG_CLEAR zeroes the log and its status alone. Its clauses keep the model's own choices of log entries 40,
44. (08_capacity_and_margin.md: Accounts (R221 to R225); 08_capacity_and_margin.md: Assembly time of a page (R228); 06_cross_connect.md: Parity and
replay (R195)) -/
def Obligations.LedgerAccounts : Prop :=
  (∀ (a x : Nat) (s : State), 1 ≤ a → a ≤ 4 → s.ctl.live = true → s.ctl.claimWaits a = false → s.ctl.acctUsed a + x % 2 ^ 24 ≤ s.ctl.acctLimit a →
    Completes (.ledgerClaim a x) s fun t =>
      State.IsRegs [R.LGR_ACCT_USED (a - 1), R.LGR_ACCT_SW (a - 1), R.LGR_CLAIM_STAT] (s.mapCtl Ctl.claimWritten) t ∧
      t.ctl.acctUsed a = (s.ctl.acctUsed a + x % 2 ^ 24) % 2 ^ 24 ∧
      t.ctl.get (F.LGR_ACCT_SW_VALUE (a - 1)) = (s.ctl.get (F.LGR_ACCT_SW_VALUE (a - 1)) + x % 2 ^ 24) % 2 ^ 24 ∧ t.ctl.get F.LGR_CLAIM_STAT_RESULT = 1) ∧
  (∀ (a x : Nat) (s : State), 1 ≤ a → a ≤ 4 → s.ctl.live = true → s.ctl.claimWaits a = false → s.ctl.acctLimit a < s.ctl.acctUsed a + x % 2 ^ 24 →
    Completes (.ledgerClaim a x) s fun t => State.IsBut [0x024] [R.LGR_STAT, R.LGR_CLAIM_STAT] (s.mapCtl Ctl.claimWritten) t ∧
      t.ctl.get F.LGR_STAT_REFUSE_ACCT = a ∧ t.ctl.get F.LGR_CLAIM_STAT_RESULT = 2 ∧ t.ctl.evBit 0x024 0 = true) ∧
  (∀ (a x : Nat) (s : State), (a = 2 ∨ a = 3) → s.ctl.live = true → s.ctl.on F.LGR_STAT_WAITING = true →
    Completes (.ledgerClaim a x) s fun t =>
      State.IsRegs [R.LGR_CLAIM_STAT] { s with ctl := { s.ctl with mgn := { s.ctl.mgn with waiting := s.ctl.mgn.waiting.map Waiting.passed ++ [.claim a (x % 2 ^ 24) true] } } } t ∧
      t.ctl.get F.LGR_CLAIM_STAT_RESULT = 4) ∧
  (∀ (a x : Nat) (s : State), 1 ≤ a → a ≤ 4 → s.ctl.live = true →
    Completes (.ledgerRelease a x) s fun t =>
      State.IsBut [0x024] [R.LGR_ACCT_USED (a - 1), R.LGR_ACCT_SW (a - 1), R.LGR_CLAIM_STAT, R.LGR_STAT] (s.mapCtl Ctl.claimWritten) t ∧
      t.ctl.acctUsed a = s.ctl.acctUsed a - min (x % 2 ^ 24) (s.ctl.get (F.LGR_ACCT_SW_VALUE (a - 1))) ∧
      t.ctl.get (F.LGR_ACCT_SW_VALUE (a - 1)) = s.ctl.get (F.LGR_ACCT_SW_VALUE (a - 1)) - min (x % 2 ^ 24) (s.ctl.get (F.LGR_ACCT_SW_VALUE (a - 1))) ∧
      t.ctl.get F.LGR_CLAIM_STAT_RESULT = 1) ∧
  (∀ (a x : Nat) (s : State), (a = 0 ∨ 5 ≤ a) → s.ctl.live = true → ∀ i ∈ [Instr.ledgerClaim a x, .ledgerRelease a x],
    Completes i s fun t => State.IsRegs [R.LGR_CLAIM_STAT] (s.mapCtl Ctl.claimWritten) t ∧ t.ctl.get F.LGR_CLAIM_STAT_RESULT = 3) ∧
  (∀ s : State, s.ctl.live = true → s.ctl.mode = .maintenance → Completes .injectArm s fun t => s.IsRegs [R.XCC_INJ] t ∧ t.ctl.on F.XCC_INJ_ARM = true ∧
      t.ctl.get F.XCC_INJ_LOC = s.ctl.get F.XCC_INJ_LOC ∧ t.ctl.get F.XCC_INJ_TARGET = s.ctl.get F.XCC_INJ_TARGET) ∧
  (∀ s : State, s.ctl.mode ≠ .maintenance → Gives .injectArm s s) ∧
  (∀ s : State, s.ctl.live = true → Completes .badlogClear s fun t => s.IsRegs (R.XCC_BADLOG_STAT :: (List.range 64).map R.XCC_BADLOG) t ∧
      t.ctl.reg R.XCC_BADLOG_STAT = 0 ∧ ∀ i, i < 64 → t.ctl.reg (R.XCC_BADLOG i) = 0)

/-- MEASUREMENT_SCHEDULED and MEAS_NOW start a measurement when none runs; while one runs MEAS_NOW is ignored and a scheduled one waits.
SPEED_MEASUREMENT_END of one that runs starts the next that waits; a ring reads its count over the reference count times 1,024, to a whole number;
with at least 40 valid rings SI is valid, MON_FAIL 0, DISCARDS 0 and an evaluation due; otherwise MON_FAIL is 1, DISCARDS one more up to 3, and event
4 of the MGN page is raised. EVALUATION when one is due makes one: after the first, it sets PS to the product of B and K(V) over 1024, at most 4,095,
and the ACTIVE page's assembly time by it, and the others stay due; the first ends the waiting of the ledger; with none due it does nothing.
TARGET_WRITE and LIMIT_WRITE store their value and make one evaluation more due. Its clauses keep the model's own choices of log entries 40, 45, 46.
(08_capacity_and_margin.md: Speed monitors (R229 to R231); 08_capacity_and_margin.md: Planning speed (R233, R234); 08_capacity_and_margin.md: When
margin shrinks (R236)) -/
def Obligations.MeasurementsAndPlanning : Prop :=
  (∀ s : State, s.ctl.timed = true → s.ctl.mgn.meas = none →
    Gives .measurementScheduled s { s with ctl := { s.ctl with mgn := { s.ctl.mgn with meas := some .scheduled } } } ∧
    Completes .measNow s (fun t => State.IsRegs [R.MGN_CTL] { s with ctl := { s.ctl with mgn := { s.ctl.mgn with meas := some .request } } } t ∧
      t.ctl.on F.MGN_CTL_MEAS_NOW = true ∧ t.ctl.get F.MGN_CTL_TARGET = s.ctl.get F.MGN_CTL_TARGET)) ∧
  (∀ s : State, s.ctl.timed = true → s.ctl.mgn.meas.isSome = true → Gives .measNow s s ∧
    (s.ctl.mgn.measWait.contains .scheduled = false →
      Gives .measurementScheduled s { s with ctl := { s.ctl with mgn := { s.ctl.mgn with measWait := s.ctl.mgn.measWait ++ [.scheduled] } } })) ∧
  (∀ (q : List (Nat × Nat × Int)) (r : List Ring) (k : MeasKind) (s : State), s.ctl.timed = true → s.ctl.mgn.meas = some k → (s.ctl.speedIndices q).1 = r →
    40 ≤ (r.filter (ringOk (median2 r))).length →
    Completes (.speedMeasurementEnd q) s fun t => t.ctl.on F.MGN_SI_VALID = true ∧ t.ctl.on F.MGN_STAT_MON_FAIL = false ∧
      t.ctl.get F.MGN_STAT_DISCARDS = 0 ∧ t.ctl.mgn.evalDue = s.ctl.mgn.evalDue + 1 ∧ t.ctl.mgn.measured = true ∧ t.ctl.mgn.meas = s.ctl.mgn.measWait.head? ∧
      t.xc = s.xc ∧ t.dp = s.dp) ∧
  (∀ (q : List (Nat × Nat × Int)) (r : List Ring) (k : MeasKind) (s : State), s.ctl.timed = true → s.ctl.mgn.meas = some k → (s.ctl.speedIndices q).1 = r →
    (r.filter (ringOk (median2 r))).length < 40 →
    Completes (.speedMeasurementEnd q) s fun t => t.ctl.on F.MGN_STAT_MON_FAIL = true ∧
      t.ctl.get F.MGN_STAT_DISCARDS = min 3 (s.ctl.get F.MGN_STAT_DISCARDS + 1) ∧ t.ctl.mgn.si = s.ctl.mgn.si ∧ t.ctl.mgn.measured = true ∧
      t.ctl.mgn.meas = s.ctl.mgn.measWait.head? ∧ t.ctl.evBit 0x025 4 = true ∧ s.DataKept t) ∧
  (∀ (q : List (Nat × Nat × Int)) (c : Ctl) (i : Nat) (x : Nat × Nat × Int), i < 48 → q[i]? = some x → 0 < x.2.1 →
    ∃ y, (c.speedIndices q).1[i]? = some (y, x.2.2, decide (0 < x.1)) ∧ y * x.2.1 < x.1 * 1024 + x.2.1 ∧ x.1 * 1024 < (y + 1) * x.2.1) ∧
  (∀ (v : Nat) (e n : Bool) (s : State), s.ctl.mgn.evalDue = 0 → Gives (.evaluation v e n) s s) ∧
  (∀ (v : Nat) (e n : Bool) (s : State), s.ctl.live = true → 0 < s.ctl.mgn.evalDue → s.ctl.on F.LGR_STAT_WAITING = true →
    Completes (.evaluation v e n) s fun t => t.ctl.on F.LGR_STAT_WAITING = false ∧ t.ctl.mgn.waiting = [] ∧
      (s.ctl.mgn.waiting = [] → t.ctl.mgn.evalDue = s.ctl.mgn.evalDue - 1) ∧ s.DataKept t) ∧
  (∀ (v k : Nat) (e n : Bool) (s : State), s.ctl.live = true → 0 < s.ctl.mgn.evalDue → s.ctl.on F.LGR_STAT_WAITING = false → kOf s.ctl.vNow = some k →
    Completes (.evaluation v e n) s fun t => t.ctl.get F.MGN_PS_PS = min 4095 (s.ctl.planB * k / 1024) ∧ t.ctl.mgn.evalDue = s.ctl.mgn.evalDue - 1 ∧
      t.ctl.get F.LGR_ASM_ACT_ASM = asmTime s.ctl.mgn.refAct (min 4095 (s.ctl.planB * k / 1024)) ∧ t.ctl.mgn.refAct = s.ctl.mgn.refAct ∧ s.DataKept t) ∧
  (∀ (x : Nat) (s : State), s.ctl.live = true →
    Completes (.targetWrite x) s (fun t => State.IsRegs [R.MGN_CTL] { s with ctl := { s.ctl with mgn := { s.ctl.mgn with evalDue := s.ctl.mgn.evalDue + 1 } } } t ∧
      t.ctl.get F.MGN_CTL_TARGET = x % 2048 ∧ t.ctl.get F.MGN_CTL_MEAS_NOW = s.ctl.get F.MGN_CTL_MEAS_NOW) ∧
    Completes (.limitWrite x) s (fun t => State.IsRegs [R.LGR_ASM_LIMIT] { s with ctl := { s.ctl with mgn := { s.ctl.mgn with evalDue := s.ctl.mgn.evalDue + 1 } } } t ∧
      t.ctl.get F.LGR_ASM_LIMIT_LIMIT = x % 65536))

/-- While a ramp runs and MGN_AVS_CFG.EN is 1: AVS_STEP without an alert whose readback lies within 10 mV of the step's value makes that value the
setpoint, clears the failure flags and raises event 2 of the MGN page, and a ramp that reaches its end stops and starts a measurement. Any other
AVS_STEP, and AVS_STEP_RETRY, is a failed attempt: fewer than four in a row only count, a fourth stops the ramp with FAIL and AVS_FAIL set and event
3. AVS_STEP_RETRY counts its AVSBus failure and raises event 5 of the PER page. With no ramp, or with EN 0, nothing happens, nor does an
AVS_STEP_RETRY that names no failure do anything. Its clauses keep the model's own choices of log entry 45. (08_capacity_and_margin.md: When margin
shrinks (R237); 17_host_and_registers.md: Peripherals (R497)) -/
def Obligations.VoltageRamp : Prop :=
  (∀ (v : Nat) (s : State), s.ctl.live = true → s.ctl.on F.MGN_AVS_CFG_EN = true → s.ctl.on F.MGN_AVS_STAT_RAMP = true → v ≤ s.ctl.rampStep + 10 → s.ctl.rampStep ≤ v + 10 →
    Completes (.avsStep v false) s fun t => s.DataKept t ∧ t.ctl.get F.MGN_AVS_STAT_SET_MV = s.ctl.rampStep % 4096 ∧
      t.ctl.on F.MGN_AVS_STAT_FAIL = false ∧ t.ctl.on F.MGN_STAT_AVS_FAIL = false ∧ t.ctl.evBit 0x025 2 = true ∧
      t.ctl.on F.MGN_AVS_STAT_RAMP = !decide (s.ctl.rampStep = s.ctl.mgn.rampTo) ∧
      (s.ctl.rampStep = s.ctl.mgn.rampTo → s.ctl.mgn.meas = none → t.ctl.mgn.meas = some .ramp) ∧
      ∀ a, eventReg [0x025] a = false → a ∉ [R.MGN_AVS_STAT, R.MGN_STAT] → t.ctl.reg a = s.ctl.reg a) ∧
  (∀ (v : Nat) (al : Bool) (s : State), s.ctl.live = true → s.ctl.on F.MGN_AVS_CFG_EN = true → s.ctl.on F.MGN_AVS_STAT_RAMP = true →
    (al = true ∨ s.ctl.rampStep + 10 < v ∨ v + 10 < s.ctl.rampStep) → s.ctl.mgn.fails < 3 →
    Gives (.avsStep v al) s { s with ctl := { s.ctl with mgn := { s.ctl.mgn with fails := s.ctl.mgn.fails + 1 } } }) ∧
  (∀ (v : Nat) (al : Bool) (s : State), s.ctl.live = true → s.ctl.on F.MGN_AVS_CFG_EN = true → s.ctl.on F.MGN_AVS_STAT_RAMP = true →
    (al = true ∨ s.ctl.rampStep + 10 < v ∨ v + 10 < s.ctl.rampStep) → s.ctl.mgn.fails = 3 →
    Completes (.avsStep v al) s fun t =>
      State.IsBut [0x025] [R.MGN_AVS_STAT, R.MGN_STAT] { s with ctl := { s.ctl with mgn := { s.ctl.mgn with fails := 0 } } } t ∧
      t.ctl.on F.MGN_AVS_STAT_RAMP = false ∧ t.ctl.on F.MGN_AVS_STAT_FAIL = true ∧ t.ctl.on F.MGN_STAT_AVS_FAIL = true ∧ t.ctl.evBit 0x025 3 = true) ∧
  (∀ (nr : Bool) (s : State), s.ctl.live = true → s.ctl.on F.MGN_AVS_CFG_EN = true → s.ctl.on F.MGN_AVS_STAT_RAMP = true → s.ctl.mgn.fails < 3 →
    Completes (.avsStepRetry true nr) s fun t =>
      State.IsBut [0x058] [R.PER_AVS_STAT] { s with ctl := { s.ctl with mgn := { s.ctl.mgn with fails := s.ctl.mgn.fails + 1 } } } t ∧
      t.ctl.get F.PER_AVS_STAT_CRC_ERR = min 65535 (s.ctl.get F.PER_AVS_STAT_CRC_ERR + 1) ∧ t.ctl.evBit 0x058 5 = true) ∧
  (∀ s : State, s.ctl.live = true → s.ctl.on F.MGN_AVS_CFG_EN = true → s.ctl.on F.MGN_AVS_STAT_RAMP = true → s.ctl.mgn.fails < 3 →
    Completes (.avsStepRetry false true) s fun t =>
      State.IsBut [0x058] [R.PER_AVS_STAT] { s with ctl := { s.ctl with mgn := { s.ctl.mgn with fails := s.ctl.mgn.fails + 1 } } } t ∧
      t.ctl.get F.PER_AVS_STAT_NO_RESP = min 65535 (s.ctl.get F.PER_AVS_STAT_NO_RESP + 1) ∧ t.ctl.evBit 0x058 5 = true) ∧
  (∀ (ce nr : Bool) (s : State), s.ctl.live = true → s.ctl.on F.MGN_AVS_CFG_EN = true → s.ctl.on F.MGN_AVS_STAT_RAMP = true →
    s.ctl.mgn.fails = 3 → (ce = true ∧ nr = false ∨ ce = false ∧ nr = true) →
    Completes (.avsStepRetry ce nr) s fun t =>
      State.IsBut [0x025, 0x058] [R.MGN_AVS_STAT, R.MGN_STAT, R.PER_AVS_STAT] { s with ctl := { s.ctl with mgn := { s.ctl.mgn with fails := 0 } } } t ∧
      t.ctl.on F.MGN_AVS_STAT_RAMP = false ∧ t.ctl.on F.MGN_AVS_STAT_FAIL = true ∧ t.ctl.on F.MGN_STAT_AVS_FAIL = true ∧
      t.ctl.evBit 0x025 3 = true ∧ t.ctl.evBit 0x058 5 = true ∧
      (ce = true → t.ctl.get F.PER_AVS_STAT_CRC_ERR = min 65535 (s.ctl.get F.PER_AVS_STAT_CRC_ERR + 1)) ∧
      (nr = true → t.ctl.get F.PER_AVS_STAT_NO_RESP = min 65535 (s.ctl.get F.PER_AVS_STAT_NO_RESP + 1))) ∧
  (∀ s : State, Gives (.avsStepRetry false false) s s) ∧
  (∀ (v : Nat) (al ce nr : Bool) (s : State), (s.ctl.on F.MGN_AVS_STAT_RAMP = false ∨ s.ctl.on F.MGN_AVS_CFG_EN = false) → Gives (.avsStep v al) s s ∧ Gives (.avsStepRetry ce nr) s s)

/-! ### Protection -/

/-- Outside reset, for a slot group or a lane group and a core or the host that may make the access: an OP that Table 9.4 does not name, and any OP for a
lane group above 11, gives RESULT 7; LO, FS, MS and CLEAR give 4 for an unconfigured group and 5 for a frozen one; FS under LO gives 3, as does MS
that Table 9.4 does not accept. Each refusal changes nothing but PGS_CMD_STAT and raises event 1 of the PGS page. An accepted LO, FS or MS sets CMD,
CLEAR sets CMD to none and stops a running wait-to-restore; the group is queued, RESULT is 1, and nothing else changes. APPLY in RECOVERY gives 6,
with a reserved bit set or an illegal configuration 2, and of a lane group that names a lane of another 8; APPLY of a slot group whose words fail to
read freezes it and is refused. An accepted APPLY queues its group. Of a group that was not configured it takes the stored configuration, with a
change of its message pending when it is bidirectional; of disabled words it unconfigures the group, which selects working from then on, a change of
selection that counts; of one that was configured, it keeps SEL, CMD and the far-end state, and a revertive one in DNR starts its wait-to-restore. Its
clauses keep the model's own choices of log entries 12, 42, 43. (09_protection.md: Commands (R260, R262 to R264, Table 9.4); 09_protection.md: PGS
page (R275)) -/
def Obligations.ProtectionCommands : Prop :=
  (∀ (m op g : Nat) (lg : Bool) (s : State), s.ctl.live = true → m < 5 → s.ctl.MayReg m R.PGS_CMD true →
    Completes (.pgCmdUnknown m op lg g) s (fun t => s.IsBut [0x022] [R.PGS_CMD_STAT] t ∧ t.ctl.CmdStat 7 op lg m g ∧ t.ctl.evBit 0x022 1 = true)) ∧
  (∀ (m g : Nat) (f : Bool) (s : State), s.ctl.live = true → m < 5 → s.ctl.MayReg m R.PGS_CMD true → 11 < g →
    ∀ i ∈ [Instr.pgApply m true g f, .pgLockout m true g, .pgForcedSwitch m true g, .pgManualSwitch m true g, .pgClear m true g],
    Completes i s (fun t => s.IsBut [0x022] [R.PGS_CMD_STAT] t ∧ t.ctl.get F.PGS_CMD_STAT_RESULT = 7 ∧ t.ctl.evBit 0x022 1 = true)) ∧
  (∀ (m g : Nat) (lg : Bool) (s : State), s.ctl.live = true → m < 5 → s.ctl.MayReg m R.PGS_CMD true → (lg = true → g ≤ 11) →
    ((s.ctl.group (groupKey lg g)).en = false ∨ (s.ctl.group (groupKey lg g)).frozen = true) →
    ∀ i ∈ [Instr.pgLockout m lg g, .pgForcedSwitch m lg g, .pgManualSwitch m lg g, .pgClear m lg g],
    Completes i s (fun t => s.IsBut [0x022] [R.PGS_CMD_STAT] t ∧ t.ctl.evBit 0x022 1 = true ∧
      t.ctl.get F.PGS_CMD_STAT_RESULT = (if (s.ctl.group (groupKey lg g)).en = false then 4 else 5))) ∧
  (∀ (m g : Nat) (lg : Bool) (o : Group) (s : State), s.ctl.live = true → m < 5 → s.ctl.MayReg m R.PGS_CMD true → (lg = true → g ≤ 11) → s.ctl.group (groupKey lg g) = o →
    o.en = true → o.frozen = false →
    Completes (.pgLockout m lg g) s (fun t => State.IsRegs [R.PGS_CMD_STAT] { s with
      ctl := (s.ctl.setGroup (groupKey lg g) { o with cmd := 1 }).queueGroup (groupKey lg g) 31 } t ∧ t.ctl.CmdStat 1 2 lg m g) ∧
    (o.cmd ≠ 1 → Completes (.pgForcedSwitch m lg g) s (fun t => State.IsRegs [R.PGS_CMD_STAT] { s with
      ctl := (s.ctl.setGroup (groupKey lg g) { o with cmd := 2 }).queueGroup (groupKey lg g) 31 } t ∧ t.ctl.CmdStat 1 3 lg m g)) ∧
    (o.cmd = 1 → Completes (.pgForcedSwitch m lg g) s (fun t => s.IsBut [0x022] [R.PGS_CMD_STAT] t ∧ t.ctl.CmdStat 3 3 lg m g ∧
      t.ctl.evBit 0x022 1 = true)) ∧
    ((o.cmd = 0 ∨ o.cmd = 3) ∧ o.effReq o.req < 0x7 →
      Completes (.pgManualSwitch m lg g) s (fun t => State.IsRegs [R.PGS_CMD_STAT] { s with
        ctl := (s.ctl.setGroup (groupKey lg g) { o with cmd := 3 }).queueGroup (groupKey lg g) 31 } t ∧ t.ctl.CmdStat 1 4 lg m g)) ∧
    (¬ ((o.cmd = 0 ∨ o.cmd = 3) ∧ o.effReq o.req < 0x7) →
      Completes (.pgManualSwitch m lg g) s (fun t => s.IsBut [0x022] [R.PGS_CMD_STAT] t ∧ t.ctl.CmdStat 3 4 lg m g ∧ t.ctl.evBit 0x022 1 = true)) ∧
    Completes (.pgClear m lg g) s (fun t => State.IsRegs [R.PGS_CMD_STAT] { s with
      ctl := (s.ctl.setGroup (groupKey lg g) { o with cmd := 0, wtrEnd := none }).queueGroup (groupKey lg g) 31 } t ∧ t.ctl.CmdStat 1 5 lg m g)) ∧
  (∀ (m g : Nat) (lg : Bool) (s : State), s.ctl.live = true → m < 5 → s.ctl.MayReg m R.PGS_CMD true → (lg = true → g ≤ 11) → s.ctl.mode = .recovery →
    Completes (.pgApply m lg g false) s (fun t => s.IsBut [0x022] [R.PGS_CMD_STAT] t ∧ t.ctl.CmdStat 6 1 lg m g ∧ t.ctl.evBit 0x022 1 = true)) ∧
  (∀ (m g : Nat) (lg rs : Bool) (new : Group) (s : State), s.ctl.live = true → m < 5 → s.ctl.MayReg m R.PGS_CMD true → (lg = true → g ≤ 11) →
    s.ctl.mode ≠ .recovery → s.groupWords lg g = (new, rs) →
    (rs = true ∨ new.en = true ∧ ¬ new.Legal lg →
      Completes (.pgApply m lg g false) s (fun t => s.IsBut [0x022] [R.PGS_CMD_STAT] t ∧ t.ctl.CmdStat 2 1 lg m g ∧ t.ctl.evBit 0x022 1 = true)) ∧
    (rs = false → new.en = true → new.Legal lg → lg = true → s.ctl.LaneTaken (groupKey lg g) new →
      Completes (.pgApply m lg g false) s (fun t => s.IsBut [0x022] [R.PGS_CMD_STAT] t ∧ t.ctl.CmdStat 8 1 lg m g ∧ t.ctl.evBit 0x022 1 = true))) ∧
  (∀ (m g : Nat) (s : State), s.ctl.live = true → m < 5 → s.ctl.MayReg m R.PGS_CMD true → Completes (.pgApply m false g true) s (fun t => (t.ctl.group g).frozen = true ∧
    (∀ j, (t.ctl.group j).sel = (s.ctl.group j).sel) ∧ t.xc = s.xc ∧ t.dp = s.dp ∧
    t.ctl.CmdStat (if t.ctl.mode = .recovery then 6 else 5) 1 false m g ∧ t.ctl.evBit 0x022 1 = true)) ∧
  (∀ (m g : Nat) (lg : Bool) (new : Group) (s : State), s.ctl.live = true → m < 5 → s.ctl.MayReg m R.PGS_CMD true → (lg = true → g ≤ 11) → s.groupWords lg g = (new, false) →
    s.ctl.mode ≠ .recovery → (new.en = true → new.Legal lg ∧ (lg = true → ¬ s.ctl.LaneTaken (groupKey lg g) new)) →
    (new.en = true → (s.ctl.group (groupKey lg g)).en = false →
      Completes (.pgApply m lg g false) s (fun t => State.IsRegs [R.PGS_CMD_STAT] { s with
        ctl := (s.ctl.setGroup (groupKey lg g) { new with
          apsPend := new.bidir, bridge := (s.ctl.group (groupKey lg g)).bridge, lostAt := s.ctl.mtime + lostTicks }).queueGroup (groupKey lg g) 31 } t ∧
        t.ctl.CmdStat 1 1 lg m g)) ∧
    (new.en = false → (lg = false → g < 65536) →
      ((s.ctl.group (groupKey lg g)).en = false ∨ (s.ctl.group (groupKey lg g)).sel = false →
        Completes (.pgApply m lg g false) s (fun t => State.IsRegs [R.PGS_CMD_STAT] { s with ctl := { s.ctl with
          groups := if lg then tput s.ctl.groups (groupKey lg g) { bridge := (s.ctl.group (groupKey lg g)).bridge } else tdel s.ctl.groups g
          pgQueue := if s.ctl.pgQueue.any (fun q => q.1 == groupKey lg g) then s.ctl.pgQueue else s.ctl.pgQueue ++ [(groupKey lg g, 31)] } } t ∧
          t.ctl.CmdStat 1 1 lg m g)) ∧
      ((s.ctl.group (groupKey lg g)).en = true → (s.ctl.group (groupKey lg g)).sel = true →
        Completes (.pgApply m lg g false) s (fun t => s.DataKept t ∧ t.ctl.CmdStat 1 1 lg m g ∧ t.ctl.evBit 0x022 0 = true ∧
          t.ctl.get F.PGS_CNT_SW_SWITCHES = min (2 ^ 32 - 1) (s.ctl.get F.PGS_CNT_SW_SWITCHES + 1) ∧
          (tfind t.ctl.ev.swPend (groupKey lg g)).isSome = true ∧ ∀ j, j ≠ groupKey lg g → t.ctl.group j = s.ctl.group j))) ∧
    (new.en = true → (s.ctl.group (groupKey lg g)).en = true → Completes (.pgApply m lg g false) s (fun t => s.DataKept t ∧ t.ctl.CmdStat 1 1 lg m g ∧
      (∀ k, k ≠ groupKey lg g → t.ctl.group k = s.ctl.group k) ∧ (t.ctl.group (groupKey lg g)).w = new.w ∧ (t.ctl.group (groupKey lg g)).p = new.p ∧
      (t.ctl.group (groupKey lg g)).revert = new.revert ∧ (t.ctl.group (groupKey lg g)).bidir = new.bidir ∧
      (t.ctl.group (groupKey lg g)).sel = (s.ctl.group (groupKey lg g)).sel ∧ (t.ctl.group (groupKey lg g)).cmd = (s.ctl.group (groupKey lg g)).cmd ∧
      (t.ctl.group (groupKey lg g)).feReq = (s.ctl.group (groupKey lg g)).feReq ∧ (t.ctl.group (groupKey lg g)).frozen = false ∧
      (t.ctl.pgQueue.any fun q => q.1 == groupKey lg g) = true ∧
      ((s.ctl.group (groupKey lg g)).req = 1 → (s.ctl.group (groupKey lg g)).revert = false → new.revert = true →
        (t.ctl.group (groupKey lg g)).req = 5 ∧ (t.ctl.group (groupKey lg g)).wtrEnd = some (s.ctl.mtime + new.wtr * secondTicks)))))

/-- While system timing runs: GROUP_EVALUATION with an empty queue does nothing; otherwise it takes the head of the queue. A configured group that is not
frozen and whose messages' lane is not newly failed stands as the evaluation rules give on its raw conditions, each effective once its hold-off has
passed: its request is the first row of Table 9.2 that applies and else what Table 9.3 gives, MS is cancelled by SF-P, SF and SD, a running
wait-to-restore stops with WTR, and SEL is what the request, or the far end's higher one, calls for; while SEL does not change nothing else does; when
SEL changes, PGS_CNT_SW counts and the group is pending for its switch record. With FAIL for a slot group, the group is frozen with its
wait-to-restore held, leaves the queue, and event 4 of the PGS page is raised. The time that the last group of an event took is shown as LAST and MAX,
with event 5 above 1,000 µs. A timer that has run out by the end of the present frame has its effect, one that has not has none: a hold-off queues the
group; a wait-to-restore timer stops; FE_LOST is declared with event 3 and FE_MISM with event 2; each queues the group. LG_BRIDGE_EFFECT puts
TX_BRIDGE of an enabled lane group in effect. A group that is not configured, or is frozen, is left alone. Its clauses keep the model's own choices of
log entries 4, 5, 25, 42. (09_protection.md: Conditions (R254, R255); 09_protection.md: Requests and selection (R256 to R259); 09_protection.md:
Timing and mass failures (R269); 09_protection.md: Faults and modes (R272); 09_protection.md: Bidirectional operation (R266); 09_protection.md: Lane
groups (R250)) -/
def Obligations.ProtectionEvaluation : Prop :=
  (∀ (f : Bool) (u : Option Nat) (s : State), s.ctl.pgQueue = [] → Gives (.groupEvaluation f u) s s) ∧
  (∀ (k c : Nat) (r : List (Nat × Nat)) (g : Group) (s : State), s.ctl.timed = true → s.ctl.pgQueue = (k, c) :: r → s.ctl.group k = g → g.en = true →
    g.frozen = false → (g.bidir = true → g.feLost = false → s.ctl.sourceFail g.apsLane = false) →
    Completes (.groupEvaluation false none) s (fun t => s.DataKept t ∧
      t.ctl.group k = g.evaluated s.ctl.mtime (decide (lgBase ≤ k)) (s.ctl.rawConditions k g) ∧ (∀ j, j ≠ k → t.ctl.group j = s.ctl.group j) ∧
      t.ctl.pgQueue = r ∧ g.Requests (t.ctl.group k) s.ctl.mtime ∧ g.Selects (t.ctl.group k) ∧
      (g.hold.length = 4 → ∀ i, i < 4 → ((t.ctl.group k).cond i = true ↔ lget (s.ctl.rawConditions k g) i false = true ∧
        (g.holdoff = 0 ∨ ∃ x, lget g.hold i none = some x ∧ x ≤ s.ctl.mtime))) ∧
      ((t.ctl.group k).sel = g.sel → State.Is { s with ctl := { s.ctl.setGroup k (t.ctl.group k) with pgQueue := r } } t) ∧
      ((t.ctl.group k).sel ≠ g.sel → t.ctl.get F.PGS_CNT_SW_SWITCHES = min (2 ^ 32 - 1) (s.ctl.get F.PGS_CNT_SW_SWITCHES + 1) ∧
        (tfind t.ctl.ev.swPend k).isSome = true ∧ t.ctl.evBit 0x022 0 = true))) ∧
  (∀ (k c : Nat) (r : List (Nat × Nat)) (s : State), s.ctl.timed = true → s.ctl.pgQueue = (k, c) :: r → k < lgBase →
    Completes (.groupEvaluation true none) s (fun t => (t.ctl.group k).frozen = true ∧ (t.ctl.group k).wtrEnd = none ∧
      (t.ctl.group k).wtrHeld = (s.ctl.group k).wtrEnd.map (· - s.ctl.mtime) ∧
      (twfFrom none s.ctl.groups = true → ∀ q ∈ t.ctl.pgQueue, q.1 ≠ k) ∧
      (∀ j, (t.ctl.group j).sel = (s.ctl.group j).sel) ∧ t.ctl.evBit 0x022 4 = true ∧ t.xc = s.xc ∧ t.mem = s.mem)) ∧
  (∀ (k c x : Nat) (f : Bool) (r : List (Nat × Nat)) (s : State), s.ctl.timed = true → s.ctl.pgQueue = (k, c) :: r →
    Completes (.groupEvaluation f (some x)) s (fun t => t.ctl.get F.PGS_EVAL_TIME_LAST = min x 65535 ∧
      t.ctl.get F.PGS_EVAL_TIME_MAX = max (min x 65535) (s.ctl.get F.PGS_EVAL_TIME_MAX) ∧ (1000 < x → t.ctl.evBit 0x022 5 = true))) ∧
  (∀ (k i x : Nat) (g : Group) (s : State), s.ctl.timed = true → s.ctl.group k = g → g.en = true → g.frozen = false →
    lget g.hold i none = some x → g.cond i = false →
    (s.ctl.dueBy x = true → Gives (.holdoffExpiry k i) s { s with ctl := (s.ctl.advMoment x).queueGroup k 31 }) ∧
    (s.ctl.dueBy x = false → Gives (.holdoffExpiry k i) s s)) ∧
  (∀ (k x : Nat) (g : Group) (s : State), s.ctl.timed = true → s.ctl.group k = g → g.en = true → g.frozen = false → g.wtrEnd = some x →
    (s.ctl.dueBy x = true → Gives (.wtrExpiry k) s { s with ctl := ((s.ctl.advMoment x).setGroup k { g with wtrEnd := none }).queueGroup k 31 }) ∧
    (s.ctl.dueBy x = false → Gives (.wtrExpiry k) s s)) ∧
  (∀ (k : Nat) (g : Group) (s : State), s.ctl.timed = true → s.ctl.group k = g → g.en = true → g.bidir = true → g.frozen = false → g.feLost = false →
    (s.ctl.dueBy g.lostAt = true → GivesEvent (.feLostExpiry k) s 0x022 3 { s with ctl := ((s.ctl.advMoment g.lostAt).setGroup k
      { g with feLost := true, mismAt := none, feMism := g.feMism && g.feSel != g.sel }).queueGroup k 31 }) ∧
    (s.ctl.dueBy g.lostAt = false → Gives (.feLostExpiry k) s s)) ∧
  (∀ (k x : Nat) (g : Group) (s : State), s.ctl.timed = true → s.ctl.group k = g → g.en = true → g.bidir = true → g.frozen = false → g.feLost = false →
    g.feMism = false → g.feSel ≠ g.sel → g.mismAt = some x →
    (s.ctl.dueBy x = true → GivesEvent (.feMismExpiry k) s 0x022 2 { s with
      ctl := ((s.ctl.advMoment x).setGroup k { g with feMism := true }).queueGroup k 31 }) ∧
    (s.ctl.dueBy x = false → Gives (.feMismExpiry k) s s)) ∧
  (∀ (j : Nat) (s : State), s.ctl.timed = true → j < 12 → Gives (.lgBridgeEffect j) s { s with
    ctl := s.ctl.setGroup (lgBase + j) { s.ctl.group (lgBase + j) with bridge := (s.ctl.group (lgBase + j)).en && (s.ctl.group (lgBase + j)).txBridge } }) ∧
  (∀ (k i : Nat) (s : State), ((s.ctl.group k).en = false ∨ (s.ctl.group k).frozen = true) →
    Gives (.holdoffExpiry k i) s s ∧ Gives (.wtrExpiry k) s s ∧ Gives (.feLostExpiry k) s s ∧ Gives (.feMismExpiry k) s s)

/-- Outside reset, for an address of the table's window and a master that may make the access: an access that is no aligned 32- or 64-bit one, or that a
core makes with 64 bits, is refused with CAUSE 2. A write that reaches a state word is refused with CAUSE 1 and stores nothing; any other write stores
its one or two words, and nothing else changes. A good read answers the words, the state word as it stands now, and changes nothing. A read that fails
parity after replay is refused with CAUSE 1 and freezes the group. Its clauses keep the model's own choices of log entries 37, 43, 73.
(09_protection.md: Groups (R245, R247); 09_protection.md: Faults and modes (R272); 15_cores_and_memory.md: The bus matrix (R428, R530);
15_cores_and_memory.md: The cores (R416, R418)) -/
def Obligations.ProtectionTable : Prop :=
  (∀ (m a z d : Nat) (w f : Bool) (s : State), s.ctl.live = true → s.ctl.MayAct m a z w → 0x38000000 ≤ a → a < 0x38100000 → protForm (a - 0x38000000) z = false ∨ m < 4 ∧ z = 8 →
    Completes (.protTableAccess m a z w d f) s (State.Refused m a 2 [] [] s)) ∧
  (∀ (m a z d : Nat) (f : Bool) (s : State), s.ctl.live = true → s.ctl.MayAct m a z true → 0x38000000 ≤ a → a < 0x38100000 → protForm (a - 0x38000000) z = true → 4 ≤ m ∨ z = 4 →
    ((a - 0x38000000) / 4 + z / 4 - 1) % 4 = 3 → Completes (.protTableAccess m a z true d f) s (State.Refused m a 1 [] [] s)) ∧
  (∀ (m a d : Nat) (f : Bool) (s : State), s.ctl.live = true → 0x38000000 ≤ a → a < 0x38100000 →
    (s.ctl.MayAct m a 4 true → a % 4 = 0 → a / 4 % 4 ≠ 3 → Gives (.protTableAccess m a 4 true d f) s { s with
      ctl := { s.ctl with answer := .data 0 }, xc := { s.xc with prot := tputD s.xc.prot ((a - 0x38000000) / 4) (d % 2 ^ 32) 0 } }) ∧
    (4 ≤ m → s.ctl.MayAct m a 8 true → a % 16 = 0 → Gives (.protTableAccess m a 8 true d f) s { s with
      ctl := { s.ctl with answer := .data 0 }
      xc := { s.xc with prot := tputD (tputD s.xc.prot ((a - 0x38000000) / 4) (d % 2 ^ 32) 0) ((a - 0x38000000) / 4 + 1) (d / 2 ^ 32 % 2 ^ 32) 0 } })) ∧
  (∀ (m a d : Nat) (s : State), s.ctl.live = true → 0x38000000 ≤ a → a < 0x38100000 →
    (s.ctl.MayAct m a 4 false → a % 4 = 0 → Gives (.protTableAccess m a 4 false d false) s { s with ctl := { s.ctl with answer := .data (s.protWord ((a - 0x38000000) / 4)) } }) ∧
    (4 ≤ m → s.ctl.MayAct m a 8 false → a % 8 = 0 → Gives (.protTableAccess m a 8 false d false) s { s with ctl := { s.ctl with
      answer := .data (s.protWord ((a - 0x38000000) / 4) + s.protWord ((a - 0x38000000) / 4 + 1) * 2 ^ 32) } })) ∧
  (∀ (m a z d : Nat) (s : State), s.ctl.live = true → s.ctl.MayAct m a z false → 0x38000000 ≤ a → a < 0x38100000 → z = 4 ∧ a % 4 = 0 ∨ 4 ≤ m ∧ z = 8 ∧ a % 8 = 0 →
    Completes (.protTableAccess m a z false d true) s (fun t => t.ctl.answer = .error ∧ t.xc = s.xc ∧ t.mem = s.mem ∧ t.dp = s.dp ∧
      (t.ctl.group ((a - 0x38000000) / 16)).frozen = true ∧ t.ctl.reg R.MTX_DT_LAST_ADDR = BitVec.ofNat 32 a ∧
      t.ctl.get F.MTX_DT_LAST_INFO_CAUSE = 1)) ∧
  (∀ (i : Nat) (s : State), i % 4 ≠ 3 → s.protWord i = tget s.xc.prot i 0) ∧
  (∀ (k : Nat) (s : State), (s.ctl.group k).en = false → s.protWord (4 * k + 3) = 0)

/-! ### Internal lanes -/

/-- For an internal-lane page with no store waiting, outside reset: a load puts the words of entry IDX into the data registers with RESULT 1; another OP
gives RESULT 6; a store of disabled words is accepted; a store into an enabled entry gives 5, with invalid fields 2, with overlap 3, with a DDR or an
HLE claim that does not fit 4 and event 0 of the LGR page, neither account keeping a claim; one whose HLE claim must wait for the first evaluation
gives 7 and waits; one whose claims fit is accepted, with USED of the HLE and DDR accounts greater by its claims. A refused store changes no entry.
While a store waits, the page's operations do nothing. CFG_ENTRY_EFFECT of an accepted store puts its words in effect, or none of a disabled circuit
or set; a circuit that is enabled, none having ended there at this boundary, has both its pointers zeroed; without an accepted store it does nothing.
Its clauses keep the model's own choices of log entries 4, 47, 51. (10_internal_lanes.md: Common rules (R277, R278); 10_internal_lanes.md: Host lanes
HL0 and HL1 (R279, R280, R284); 10_internal_lanes.md: Recorder lanes RL0 and RL1 (R285, R290); 10_internal_lanes.md: Pattern lanes PL0 and PL1 (R291)) -/
def Obligations.ConfigurationTables : Prop :=
  (∀ (p : Nat) (s : State), s.ctl.live = true → s.ctl.cfgOpen p = true →
    Completes (.cfgTableLoad p) s fun t => s.IsRegs (cfgStat p :: (if 0x3A ≤ p ∧ p < 0x3C then [R.RL_SET_W5 (p - 0x3A)] else []) ++ cfgRegs p) t ∧
      t.ctl.cfgRes p = 1 ∧ ∀ j, j < (cfgRegs p).length →
        t.ctl.reg (lget (cfgRegs p) j 0) = BitVec.ofNat 32 (lget (s.ctl.cfgWords p (s.ctl.cfgIdx p)) j 0)) ∧
  (∀ (p op : Nat) (s : State), s.ctl.live = true → s.ctl.cfgOpen p = true → op ≠ 1 → op ≠ 2 →
    Completes (.cfgTableOpUnknown p op) s fun t => s.IsRegs [cfgStat p] t ∧ t.ctl.cfgRes p = 6) ∧
  (∀ (p : Nat) (w : List Nat) (s : State), s.ctl.live = true → s.ctl.cfgOpen p = true → s.ctl.cfgData p = w → cfgEnables p w = false →
    Completes (.cfgTableStore p) s fun t => State.CfgStored p w s t ∧ ∀ a, a ≠ cfgStat p → t.ctl.reg a = s.ctl.reg a) ∧
  (∀ (p : Nat) (w : List Nat) (s : State), s.ctl.live = true → s.ctl.cfgOpen p = true → s.ctl.cfgData p = w → cfgEnables p w = true →
    (cfgEnables p (s.ctl.cfgWords p (s.ctl.cfgIdx p)) = true →
      Completes (.cfgTableStore p) s (fun t => s.IsRegs [cfgStat p] t ∧ t.ctl.cfgRes p = 5)) ∧
    (cfgEnables p (s.ctl.cfgWords p (s.ctl.cfgIdx p)) = false →
      (s.ctl.cfgOk p w = false → Completes (.cfgTableStore p) s (fun t => s.IsRegs [cfgStat p] t ∧ t.ctl.cfgRes p = 2)) ∧
      (s.ctl.cfgOk p w = true → s.ctl.cfgOverlap p (s.ctl.cfgIdx p) w = true →
        Completes (.cfgTableStore p) s (fun t => s.IsRegs [cfgStat p] t ∧ t.ctl.cfgRes p = 3)) ∧
      (s.ctl.cfgOk p w = true → s.ctl.cfgOverlap p (s.ctl.cfgIdx p) w = false → (cfgClaims p w).2 ≠ 0 → s.ctl.claimFits 1 (cfgClaims p w).2 = false →
        Completes (.cfgTableStore p) s (fun t => s.IsBut [0x024] [cfgStat p, R.LGR_STAT] t ∧ t.ctl.cfgRes p = 4 ∧ t.ctl.evBit 0x024 0 = true)) ∧
      (s.ctl.cfgOk p w = true → s.ctl.cfgOverlap p (s.ctl.cfgIdx p) w = false → (cfgClaims p w).2 = 0 → (cfgClaims p w).1 ≠ 0 →
        s.ctl.on F.LGR_STAT_WAITING = true →
        Completes (.cfgTableStore p) s (fun t => State.IsRegs [cfgStat p] { s with ctl := { s.ctl with
          cfgWait := tput s.ctl.cfgWait p (s.ctl.cfgIdx p, w)
          mgn := { s.ctl.mgn with waiting := s.ctl.mgn.waiting ++ [.store p (cfgClaims p w).1] } } } t ∧ t.ctl.cfgRes p = 7)) ∧
      (s.ctl.cfgOk p w = true → s.ctl.cfgOverlap p (s.ctl.cfgIdx p) w = false → s.ctl.on F.LGR_STAT_WAITING = false →
        s.ctl.claimFits 1 (cfgClaims p w).2 = true → s.ctl.claimFits 3 (cfgClaims p w).1 = true →
        Completes (.cfgTableStore p) s (fun t => State.CfgStored p w s t ∧ t.ctl.acctUsed 3 = s.ctl.acctUsed 3 + (cfgClaims p w).1 ∧
          t.ctl.acctUsed 1 = s.ctl.acctUsed 1 + (cfgClaims p w).2 ∧
          ∀ a, a ∉ [cfgStat p, R.LGR_ACCT_USED 2, R.LGR_ACCT_USED 0] → t.ctl.reg a = s.ctl.reg a)))) ∧
  (∀ (p : Nat) (w : List Nat) (s : State), s.ctl.live = true → s.ctl.cfgOpen p = true → s.ctl.cfgData p = w → cfgEnables p w = true →
    cfgEnables p (s.ctl.cfgWords p (s.ctl.cfgIdx p)) = false → s.ctl.cfgOk p w = true → s.ctl.cfgOverlap p (s.ctl.cfgIdx p) w = false →
    s.ctl.on F.LGR_STAT_WAITING = false → s.ctl.claimFits 1 (cfgClaims p w).2 = true → (cfgClaims p w).1 ≠ 0 →
    s.ctl.claimFits 3 (cfgClaims p w).1 = false →
    Completes (.cfgTableStore p) s fun t => s.IsBut [0x024] [cfgStat p, R.LGR_STAT, R.LGR_ACCT_USED 0] t ∧ t.ctl.cfgRes p = 4 ∧
      t.ctl.get F.LGR_STAT_REFUSE_ACCT = 3 ∧ t.ctl.evBit 0x024 0 = true ∧ t.ctl.acctUsed 1 = s.ctl.acctUsed 1) ∧
  (∀ (p op : Nat) (s : State), (tfind s.ctl.cfgWait p).isSome = true →
    Gives (.cfgTableLoad p) s s ∧ Gives (.cfgTableStore p) s s ∧ Gives (.cfgTableOpUnknown p op) s s) ∧
  (∀ (h i : Nat) (e : CfgEntry) (s : State), s.ctl.timed = true → h < 2 → i < 1024 → s.ctl.hlEntry h i = e → e.due = true →
    Completes (.cfgEntryEffect (0x38 + h) i) s fun t => (t.ctl.hlEntry h i).due = false ∧ (t.ctl.hlEntry h i).words = e.words ∧
      (t.ctl.hlEntry h i).eff = (if bit (lget e.words 0 0) 31 then e.words else []) ∧
      (bit (lget e.words 0 0) 31 = false → t.mem = s.mem) ∧
      (bit (lget e.words 0 0) 31 = true → e.eff = [] → tfind s.ctl.hlLast (h * 1024 + i) = none →
        t.mem = s.mem.spadWrite (s.ctl.hlPtr h i) (List.replicate 8 0)) ∧
      t.xc = s.xc ∧ t.dp = s.dp ∧ t.ctl.rl = s.ctl.rl ∧ t.ctl.pl = s.ctl.pl) ∧
  (∀ (r i : Nat) (e : CfgEntry) (s : State), s.ctl.timed = true → r < 2 → i < 256 → s.ctl.rlEntry r i = e → e.due = true →
    Completes (.cfgEntryEffect (0x3A + r) i) s fun t => (t.ctl.rlEntry r i).due = false ∧ (t.ctl.rlEntry r i).words = e.words ∧
      (t.ctl.rlEntry r i).eff = (if bit (lget e.words 0 0) 31 then e.words else []) ∧ s.DataKept t ∧ t.ctl.hl = s.ctl.hl ∧ t.ctl.pl = s.ctl.pl) ∧
  (∀ (p i : Nat) (g : PlGroup) (s : State), s.ctl.timed = true → p < 2 → i < 64 → s.ctl.plEntry p i = g → g.due = true →
    Completes (.cfgEntryEffect (0x3C + p) i) s fun t => (t.ctl.plEntry p i).due = false ∧ (t.ctl.plEntry p i).words = g.words ∧
      (t.ctl.plEntry p i).eff = g.words ∧ (t.ctl.plEntry p i).snap = g.snap ∧ ∃ l, State.Is { s with ctl := { s.ctl with pl := l } } t) ∧
  (∀ (h i : Nat) (s : State), h < 2 → (s.ctl.hlEntry h i).due = false → Gives (.cfgEntryEffect (0x38 + h) i) s s)

/-- Outside reset, for a recorder or pattern lane: FREEZE_NOW and ARM read 1 until taken; an edge on TRIG_IN marks the lanes whose PIN_EN is 1. While
system timing runs, RL_TRIGGER_TAKEN clears them: ARM in state 2 returns to state 0 with CAUSE 0 and ARM_FN the frame that begins; a trigger in state
0 leads to state 1 with TRIG_FN and CAUSE; one in state 1, or in state 2 without ARM, counts and raises event 1; in state 2 with ARM the lane is armed
first and the trigger then leads to state 1. RL_POST_END in state 1 once POST frames are recorded leads to state 2 with FRZ_FN and event 0, and
otherwise does nothing. PL_SNAPSHOT_REQUEST sets GO, and CLR when asked for or already set; PL_SNAPSHOT_TAKE copies the counters of the lane's groups,
zeroes them with CLR, and clears both bits. PL_ERROR_INJECT stores GROUP, and arms only while that group's generator is enabled. Its clauses keep the
model's own choices of log entries 4, 49, 50. (10_internal_lanes.md: Recorder lanes RL0 and RL1 (R288, R289); 10_internal_lanes.md: Pattern lanes PL0
and PL1 (R294, R295)) -/
def Obligations.RecorderAndPatternLanes : Prop :=
  (∀ (r : Nat) (s : State), r < 2 → s.ctl.live = true →
    Completes (.rlFreezeNow r) s (fun t => State.IsRegs [R.RL_CTL r] { s with ctl := { s.ctl with
      rlTrig := tput s.ctl.rlTrig r (putBit (tget s.ctl.rlTrig r 0) 0 true) } } t ∧ t.ctl.on (F.RL_CTL_FREEZE_NOW r) = true ∧
      t.ctl.get (F.RL_CTL_ARM r) = s.ctl.get (F.RL_CTL_ARM r)) ∧
    Completes (.rlArm r) s (fun t => s.IsRegs [R.RL_CTL r] t ∧ t.ctl.on (F.RL_CTL_ARM r) = true ∧
      t.ctl.get (F.RL_CTL_FREEZE_NOW r) = s.ctl.get (F.RL_CTL_FREEZE_NOW r))) ∧
  (∀ s : State, s.ctl.live = true → Completes .trigInEdge s fun t => (∃ q, State.Is { s with ctl := { s.ctl with rlTrig := q } } t) ∧
    ∀ r, r < 2 → tget t.ctl.rlTrig r 0 = if s.ctl.on (F.RL_TRIG_PIN_EN r) then putBit (tget s.ctl.rlTrig r 0) 1 true else tget s.ctl.rlTrig r 0) ∧
  (∀ (r : Nat) (s : State), r < 2 → s.ctl.timed = true → tget s.ctl.rlTrig r 0 = 0 →
    (s.ctl.on (F.RL_CTL_ARM r) = true → s.ctl.get (F.RL_STAT_STATE r) = 2 →
      Completes (.rlTriggerTaken r) s (fun t => State.IsRegs [R.RL_CTL r, R.RL_STAT r, R.RL_ARM_FN r]
        { s with ctl := { s.ctl with rlTrig := tdel s.ctl.rlTrig r } } t ∧ t.ctl.get (F.RL_STAT_STATE r) = 0 ∧ t.ctl.get (F.RL_STAT_CAUSE r) = 0 ∧
        t.ctl.get (F.RL_ARM_FN_FN r) = (s.ctl.fnN + 1) % 2 ^ 32 ∧ t.ctl.on (F.RL_CTL_ARM r) = false)) ∧
    ((s.ctl.on (F.RL_CTL_ARM r) = false ∨ s.ctl.get (F.RL_STAT_STATE r) ≠ 2) →
      Completes (.rlTriggerTaken r) s (fun t => State.IsRegs [R.RL_CTL r] { s with ctl := { s.ctl with rlTrig := tdel s.ctl.rlTrig r } } t ∧
        t.ctl.on (F.RL_CTL_ARM r) = false ∧ t.ctl.on (F.RL_CTL_FREEZE_NOW r) = false))) ∧
  (∀ (r src : Nat) (s : State), r < 2 → s.ctl.timed = true → tget s.ctl.rlTrig r 0 = src → src ≠ 0 → src < 16 →
    (s.ctl.get (F.RL_STAT_STATE r) = 0 →
      Completes (.rlTriggerTaken r) s (fun t => State.IsRegs [R.RL_CTL r, R.RL_STAT r, R.RL_TRIG_FN r]
        { s with ctl := { s.ctl with rlTrig := tdel s.ctl.rlTrig r } } t ∧ t.ctl.get (F.RL_STAT_STATE r) = 1 ∧ t.ctl.get (F.RL_STAT_CAUSE r) = src ∧
        t.ctl.get (F.RL_TRIG_FN_FN r) = (s.ctl.fnN + 1) % 2 ^ 32)) ∧
    ((s.ctl.get (F.RL_STAT_STATE r) = 1 ∨ s.ctl.get (F.RL_STAT_STATE r) = 2 ∧ s.ctl.on (F.RL_CTL_ARM r) = false) →
      Completes (.rlTriggerTaken r) s (fun t => State.IsBut [0x03A + r] [R.RL_CTL r, R.RL_CNT r]
        { s with ctl := { s.ctl with rlTrig := tdel s.ctl.rlTrig r } } t ∧ t.ctl.evBit (0x03A + r) 1 = true ∧
        t.ctl.get (F.RL_CNT_COUNT r) = min 65535 (s.ctl.get (F.RL_CNT_COUNT r) + popCount 4 src))) ∧
    (s.ctl.get (F.RL_STAT_STATE r) = 2 → s.ctl.on (F.RL_CTL_ARM r) = true →
      Completes (.rlTriggerTaken r) s (fun t => State.IsRegs [R.RL_CTL r, R.RL_STAT r, R.RL_TRIG_FN r, R.RL_ARM_FN r]
        { s with ctl := { s.ctl with rlTrig := tdel s.ctl.rlTrig r } } t ∧ t.ctl.get (F.RL_STAT_STATE r) = 1 ∧ t.ctl.get (F.RL_STAT_CAUSE r) = src ∧
        t.ctl.get (F.RL_TRIG_FN_FN r) = (s.ctl.fnN + 1) % 2 ^ 32 ∧ t.ctl.get (F.RL_ARM_FN_FN r) = (s.ctl.fnN + 1) % 2 ^ 32 ∧
        t.ctl.on (F.RL_CTL_ARM r) = false))) ∧
  (∀ (r : Nat) (s : State), r < 2 → s.ctl.timed = true → s.ctl.get (F.RL_STAT_STATE r) = 1 →
    (s.ctl.get (F.RL_POST_POST r) < s.ctl.rlSince r ((s.ctl.fnN + 1) % 2 ^ 32) →
      Completes (.rlPostEnd r) s (fun t => s.IsBut [0x03A + r] [R.RL_STAT r, R.RL_FRZ_FN r] t ∧ t.ctl.get (F.RL_STAT_STATE r) = 2 ∧
        t.ctl.get (F.RL_FRZ_FN_FN r) = (s.ctl.get (F.RL_TRIG_FN_FN r) + s.ctl.get (F.RL_POST_POST r)) % 2 ^ 32 ∧ t.ctl.evBit (0x03A + r) 0 = true)) ∧
    (s.ctl.rlSince r ((s.ctl.fnN + 1) % 2 ^ 32) ≤ s.ctl.get (F.RL_POST_POST r) → Gives (.rlPostEnd r) s s)) ∧
  (∀ (r : Nat) (s : State), s.ctl.get (F.RL_STAT_STATE r) ≠ 1 → Gives (.rlPostEnd r) s s) ∧
  (∀ (p : Nat) (b : Bool) (s : State), p < 2 → s.ctl.live = true →
    Completes (.plSnapshotRequest p b) s fun t => s.IsRegs [R.PL_SNAP p] t ∧ t.ctl.on (F.PL_SNAP_GO p) = true ∧
      t.ctl.on (F.PL_SNAP_CLR p) = (b || s.ctl.on (F.PL_SNAP_CLR p))) ∧
  (∀ (p : Nat) (s : State), p < 2 → s.ctl.timed = true → s.ctl.on (F.PL_SNAP_GO p) = true →
    Completes (.plSnapshotTake p) s fun t => (∃ l, State.IsRegs [R.PL_SNAP p] { s with ctl := { s.ctl with pl := l } } t) ∧
      t.ctl.on (F.PL_SNAP_GO p) = false ∧ t.ctl.on (F.PL_SNAP_CLR p) = false ∧
      ∀ q ∈ s.ctl.pl, (q.1 / 64 = p → (q.1, { q.2 with
        snap := q.2.now, now := if s.ctl.on (F.PL_SNAP_CLR p) then { sync := q.2.now.sync } else q.2.now }) ∈ t.ctl.pl) ∧ (q.1 / 64 ≠ p → q ∈ t.ctl.pl)) ∧
  (∀ (p : Nat) (s : State), s.ctl.on (F.PL_SNAP_GO p) = false → Gives (.plSnapshotTake p) s s) ∧
  (∀ (p g : Nat) (s : State), p < 2 → g < 64 → s.ctl.live = true →
    Completes (.plErrorInject p g) s fun t => s.IsRegs [R.PL_INJ p] t ∧ t.ctl.get (F.PL_INJ_GROUP p) = g ∧
      t.ctl.on (F.PL_INJ_ARM p) = (bit (lget (s.ctl.plEntry p g).eff 0 0) 31 || s.ctl.on (F.PL_INJ_ARM p)))

/-! ### Reference timing and the timebase -/

/-- While system timing runs: MEASUREMENT_SECOND_END forms y and TIE from the phases, of a constant offset without TIE and of 1PPS edges by the line of
ten, and sets MEDIAN_SET and, for a median that is a register value, MEDIAN_Y; for a candidate with values it reports y and the failures; while the
DPLL follows, TMU_FREQ and the centred phase error; a present candidate that is not beyond 1,000 ppm goes as Table 11.3 says: ten good seconds in SEEN
lead to its wait-to-restore or, with WTR 0, to QUALIFIED, a good second counts the wait down, and ten bad ones leave QUALIFIED. CANDIDATE_WTR_EXPIRY
of an ended wait leads to QUALIFIED with event 4, and CANDIDATE_ABSENT of a configured candidate, absent when it is a lane, to ABSENT, with event 5
out of its later states. ACQUIRE_DONE and PULL_DONE lead from ACQUIRING and PULLING on; PHASE_STEP at the multiframe boundary makes the next frame
longer or shorter by the phase error with event 6, locks after a plain step, and takes the mate's FN. Only the TMU, its page and, at a phase step, FN
and the frame's length may change. Its clauses keep the model's own choices of log entries 4, 52, 53. (11_reference_timing.md: Candidates (R305 to
R307); 11_reference_timing.md: Qualification (R308, R309, Table 11.3); 11_reference_timing.md: The DPLL (R314, R317, Table 11.4);
11_reference_timing.md: Pair-mode following (R321)) -/
def Obligations.ReferenceTiming : Prop :=
  (∀ (o : List (Option (List Int))) (k : Nat) (l : List Int) (s : State), k < 8 → lget o k none = some l →
    (¬ (k < 4 ∧ s.ctl.candKind k = 5) → lget (s.ctl.formValues o).1 k none = phaseValues l) ∧
    (k < 4 → s.ctl.candKind k = 5 → 10 ≤ (s.ctl.cand k).edges.length → 2 ≤ l.length → lget (s.ctl.formValues o).1 k none =
      some ((lget l (l.length - 1) 0 - lget l 0 0) * 10, edgeDeviation (s.ctl.cand k).edges (lget l (l.length - 1) 0)))) ∧
  (∀ (n : Nat) (a d e : Int), (0 < n → phaseValues ((List.range (n + 1)).map fun i : Nat => a + (i : Int) * d) = some (d * 80000, 0)) ∧
    edgeDeviation ((List.range 10).map fun i : Nat => a + (i : Int) * d) e = (e - (a + 10 * d)).natAbs) ∧
  (∀ (x : Int) (p : Nat), 0 < p → 2 * centred x p < p ∧ -(p : Int) ≤ 2 * centred x p ∧ (x - centred x p) % p = 0) ∧
  (∀ (o : List (Option (List Int))) (v : List (Option (Int × Nat))) (m : Option Int) (f e : Int) (s : State), s.ctl.timed = true →
    (s.ctl.formValues o).1 = v →
    Completes (.measurementSecondEnd o m f e) s fun t => s.TmuStep s.ctl t ∧
      (s.ctl.dpll ∈ [1, 2, 3] → t.ctl.dpll ∈ [1, 2, 3] → t.ctl.get F.TMU_PHASE_ERR = unsgn 32 (s.ctl.phaseErr e) ∧ t.ctl.get F.TMU_FREQ_Y =
        unsgn 32 (s.ctl.outputFreq (if s.ctl.tmuSel = 8 then m else (lget v s.ctl.tmuSel none).map Prod.fst) (s.ctl.phaseErr e) f)) ∧
      t.ctl.get F.TMU_CAND_MAP_MEDIAN_SET = maskOf 8 (fun k => (s.ctl.candValues v k).isSome) ∧
      (∀ z : Int, s.ctl.secondMedian v = some (2 * z) → t.ctl.get F.TMU_MEDIAN_Y = unsgn 32 z) ∧
      ∀ k y x, k < 8 → s.ctl.candValues v k = some (y, x) → t.ctl.get (F.TMU_CAND_FREQ_Y k) = unsgn 32 y ∧ t.ctl.on (F.TMU_CAND_TIE_VALID k) = true ∧
        t.ctl.on (F.TMU_CAND_STAT_FAIL_TIE k) = decide (1000 ≤ x) ∧ t.ctl.on (F.TMU_CAND_STAT_FAIL_XO k) = decide (200000 < y.natAbs)) ∧
  (∀ (o : List (Option (List Int))) (v : List (Option (Int × Nat))) (m : Option Int) (f e y : Int) (k x : Nat) (j : SecondKind) (s : State),
    s.ctl.timed = true → k < 8 → (s.ctl.formValues o).1 = v →
    s.ctl.candValues v k = some (y, x) → judgeSecond y x ((s.ctl.secondMedian v).getD 0) = j → y.natAbs ≤ 10000000 →
    Completes (.measurementSecondEnd o m f e) s fun t =>
      ((s.ctl.cand k).state = 1 → j = .good → (s.ctl.cand k).count = 9 → s.ctl.candWtr k = 0 → (t.ctl.cand k).state = 3 ∧ t.ctl.evBit 0x010 4 = true) ∧
      ((s.ctl.cand k).state = 1 → j = .good → (s.ctl.cand k).count = 9 → s.ctl.candWtr k ≠ 0 →
        (t.ctl.cand k).state = 2 ∧ (t.ctl.cand k).left = s.ctl.candWtr k) ∧
      ((s.ctl.cand k).state = 1 → j = .good → (s.ctl.cand k).count < 9 → (t.ctl.cand k).state = 1 ∧ (t.ctl.cand k).count = (s.ctl.cand k).count + 1) ∧
      ((s.ctl.cand k).state = 1 → j ≠ .good → (t.ctl.cand k).state = 1 ∧ (t.ctl.cand k).count = 0) ∧
      ((s.ctl.cand k).state = 2 → j = .good → (t.ctl.cand k).state = 2 ∧ (t.ctl.cand k).left = (s.ctl.cand k).left - 1) ∧
      ((s.ctl.cand k).state = 2 → j ≠ .good → (t.ctl.cand k).state = 1 ∧ t.ctl.evBit 0x010 5 = true) ∧
      ((s.ctl.cand k).state = 3 → j = .bad → (s.ctl.cand k).count = 9 → (t.ctl.cand k).state = 1 ∧ t.ctl.evBit 0x010 5 = true) ∧
      ((s.ctl.cand k).state = 3 → j ≠ .bad → (t.ctl.cand k).state = 3 ∧ (t.ctl.cand k).count = 0)) ∧
  (∀ (k : Nat) (s : State), s.ctl.timed = true → k < 8 → (s.ctl.cand k).state = 2 → (s.ctl.cand k).left = 0 →
    Completes (.candidateWtrExpiry k) s fun t => s.TmuStep s.ctl t ∧ (t.ctl.cand k).state = 3 ∧ t.ctl.evBit 0x010 4 = true ∧
      ∀ j, j ≠ k → t.ctl.cand j = s.ctl.cand j) ∧
  (∀ (k : Nat) (s : State), ((s.ctl.cand k).state ≠ 2 ∨ (s.ctl.cand k).left ≠ 0) → Gives (.candidateWtrExpiry k) s s) ∧
  (∀ (k : Nat) (s : State), s.ctl.timed = true → k < 8 → s.ctl.candConfigured k = true → (4 ≤ k → s.ctl.laneAbsent k = true) → (s.ctl.cand k).state ≠ 0 →
    Completes (.candidateAbsent k) s fun t => s.TmuStep s.ctl t ∧ (t.ctl.cand k).state = 0 ∧ (t.ctl.cand k).left = 0 ∧
      (2 ≤ (s.ctl.cand k).state → t.ctl.evBit 0x010 5 = true) ∧ ∀ j, j ≠ k → t.ctl.cand j = s.ctl.cand j) ∧
  (∀ (k : Nat) (s : State), s.ctl.candConfigured k = false → Gives (.candidateAbsent k) s s) ∧
  (∀ s : State, s.ctl.timed = true → s.ctl.dpll = 1 →
    (s.ctl.mayStep = true → Gives .acquireDone s { s with ctl := { s.ctl with tmu := { s.ctl.tmu with step := some .plain } } }) ∧
    (s.ctl.mayStep = false → Completes .acquireDone s (fun t => s.IsRegs [R.TMU_STAT] t ∧ t.ctl.dpll = 3 ∧ t.ctl.tmuSel = s.ctl.tmuSel))) ∧
  (∀ s : State, s.ctl.dpll ≠ 1 → Gives .acquireDone s s) ∧
  (∀ s : State, s.ctl.timed = true → s.ctl.dpll = 3 → s.ctl.tmu.step = none →
    Completes .pullDone s fun t => s.IsBut [0x010] [R.TMU_STAT, R.TMU_PHASE] t ∧ (sgn 32 (t.ctl.get F.TMU_PHASE_ERR)).natAbs ≤ 100 ∧ t.ctl.dpll = 2 ∧ t.ctl.tmuSel = s.ctl.tmuSel ∧ t.ctl.evBit 0x010 2 = true) ∧
  (∀ s : State, s.ctl.dpll ≠ 3 → Gives .pullDone s s) ∧
  (∀ (x : Int) (s : State), s.ctl.timed = true → s.ctl.mfEdge = true →
    (s.ctl.tmu.step = some .plain → Completes (.phaseStep x) s (fun t =>
      s.TmuStep { s.ctl with stretchNext := nsTicks (s.ctl.phaseErr x) } t ∧ t.ctl.tmu.step = none ∧
      t.ctl.dpll = 2 ∧ t.ctl.evBit 0x010 6 = true ∧ t.ctl.evBit 0x010 2 = true)) ∧
    (s.ctl.tmu.step = some .mate → s.ctl.on F.CMP_STAT_SWAP_PENDING = false → Completes (.phaseStep x) s (fun t =>
      s.TmuStep { s.ctl with stretchNext := nsTicks (s.ctl.theta - s.ctl.mateFrames * 8000000) / 64, fn := BitVec.ofNat 48 (s.ctl.mateFn + 2 ^ 48 - 1) } t ∧
      t.ctl.tmu.step = none ∧ t.ctl.evBit 0x010 6 = true)) ∧
    (s.ctl.tmu.step = some .mate → s.ctl.on F.CMP_STAT_SWAP_PENDING = true → Gives (.phaseStep x) s s)) ∧
  (∀ (x : Int) (s : State), (s.ctl.tmu.step = none ∨ s.ctl.mfEdge = false) → Gives (.phaseStep x) s s)

/-- Outside reset, with time moved on to the tick of the command: STEP without an allowance gives RESULT 2 and event 3; with one it adds the 96-bit step
to its domain alone, sets it, ends its slew, clears SUSPECT, uses the allowance, with RESULT 1 and event 0. ARM gives the allowance in COMMISSION and
MAINTENANCE, and RESULT 3 and event 3 elsewhere. INC_WRITE applies both parts of the increment within the range of R330. SLEW_WRITE gives its domain
the slew, and SUSPECT exactly when it exceeds the jump threshold. SLEW_END and OFFSET_REDUCED move time on while there is a rest, SUSPECT_CLEAR clears
SUSPECT of a rest within the threshold. SEL_GO of the selected domain gives RESULT 1, of a healthy one selects it with S unbroken and event 2, and of
another RESULT 2. After a write of VALID the selected domain is healthy or the other is not, and a selection that is still healthy stays. Its clauses
keep the model's own choices of log entry 54. (12_timebase.md: Domain counters (R330); 12_timebase.md: Steps (R333, R334); 12_timebase.md: Slew and
SUSPECT (R336 to R338); 12_timebase.md: Selected time (R339 to R341, Table 12.1)) -/
def Obligations.TimebaseDomains : Prop :=
  (∀ (b : Bool) (k : Nat) (c : Ctl) (s : State), s.ctl.live = true → s.ctl.advTo k = c → (c.tb.dom b).first = false → (c.tb.dom b).armed = false →
    GivesEvent (.tbsStep b k) s 0x011 3 { s with ctl := c.modDom b fun d => { d with result := 2 } }) ∧
  (∀ (b : Bool) (k : Nat) (c : Ctl) (s : State), s.ctl.live = true → s.ctl.advTo k = c → ((c.tb.dom b).first = true ∨ (c.tb.dom b).armed = true) →
    Completes (.tbsStep b k) s fun t => s.DataKept t ∧ t.ctl.fn = s.ctl.fn ∧ t.ctl.tb.dom (!b) = c.tb.dom (!b) ∧ t.ctl.evBit 0x011 0 = true ∧
      t.ctl.tb.dom b = { c.tb.dom b with val := unsgn 96 ((c.tb.dom b).val + sgn 96 ((c.reg (R.TBS_STEP_HI (b2n b))).toNat * 2 ^ 64 +
        (c.reg (R.TBS_STEP_LO (b2n b))).toNat * 2 ^ 32 + (c.reg (R.TBS_STEP_FRAC (b2n b))).toNat)),
                                         first := false, armed := false, isSet := true, slew := 0, suspect := false, result := 1 }) ∧
  (∀ (b : Bool) (s : State), s.ctl.live = true → (s.ctl.mode = .commission ∨ s.ctl.mode = .maintenance) → (s.ctl.tb.dom b).armed = false →
    Gives (.tbsArm b) s { s with ctl := s.ctl.modDom b fun d => { d with armed := true, armMode := s.ctl.mode, result := 1 } }) ∧
  (∀ (b : Bool) (s : State), s.ctl.live = true → s.ctl.mode ≠ .commission → s.ctl.mode ≠ .maintenance →
    GivesEvent (.tbsArm b) s 0x011 3 { s with ctl := s.ctl.modDom b fun d => { d with result := 3 } }) ∧
  (∀ (b : Bool) (w : Word) (k : Nat) (s : State), s.ctl.live = true →
    Gives (.incWrite b w k) s { s with ctl := ((s.ctl.advTo k).modDom b fun d => { d with
      inc := min 0x4E2200000 (max 0x4E1E00000 (d.incInt.getD (d.inc / 2 ^ 32) * 2 ^ 32 + w.toNat)), incInt := none }).domainMoved }) ∧
  (∀ (b : Bool) (w : Word) (k : Nat) (c : Ctl) (z : Int) (s : State), s.ctl.live = true → s.ctl.advTo k = c →
    sgn 64 ((c.reg (R.TBS_SLEW_HI (b2n b))).toNat * 2 ^ 32 + w.toNat) * 2 ^ 32 = z →
    Completes (.slewWrite b w k) s fun t => State.TbsStep [R.TBS_SLEW_LO (b2n b)] c s t ∧ t.ctl.reg (R.TBS_SLEW_LO (b2n b)) = w ∧
      t.ctl.tb.dom b = { c.tb.dom b with slew := z, suspect := decide (c.jumpUnits b < z.natAbs) } ∧ t.ctl.tb.dom (!b) = c.tb.dom (!b) ∧
      (c.jumpUnits b < z.natAbs → t.ctl.evBit 0x011 1 = true)) ∧
  (∀ (b : Bool) (k : Nat) (c : Ctl) (s : State), s.ctl.timed = true → s.ctl.advTo k = c →
    ((c.tb.dom b).suspect = true → (c.tb.dom b).slew.natAbs ≤ c.jumpUnits b →
      Completes (.suspectClear b k) s (fun t => State.TbsStep [] c s t ∧ t.ctl.tb.dom b = { c.tb.dom b with suspect := false } ∧
        t.ctl.tb.dom (!b) = c.tb.dom (!b))) ∧
    (((c.tb.dom b).suspect = false ∨ c.jumpUnits b < (c.tb.dom b).slew.natAbs) → Gives (.suspectClear b k) s { s with ctl := c }) ∧
    ((s.ctl.tb.dom b).slew ≠ 0 → Gives (.slewEnd b k) s { s with ctl := c }) ∧ (s.ctl.tb.ofs ≠ 0 → Gives (.offsetReduced k) s { s with ctl := c })) ∧
  (∀ (b : Bool) (k : Nat) (s : State), ((s.ctl.tb.dom b).slew = 0 → Gives (.slewEnd b k) s s) ∧ (s.ctl.tb.ofs = 0 → Gives (.offsetReduced k) s s)) ∧
  (∀ (b : Bool) (k : Nat) (c : Ctl) (s : State), s.ctl.live = true → s.ctl.advTo k = c →
    (c.tb.selB = b → Gives (.selGo b k) s { s with ctl := { c with tb := { c.tb with selResult := 1 } } }) ∧
    (c.tb.selB ≠ b → c.healthy b = false → Gives (.selGo b k) s { s with ctl := { c with tb := { c.tb with selResult := 2 } } }) ∧
    (c.tb.selB ≠ b → c.healthy b = true → Completes (.selGo b k) s (fun t => State.TbsStep [] c s t ∧ t.ctl.tb.selB = b ∧ t.ctl.tb.selResult = 1 ∧
      t.ctl.tb.a = c.tb.a ∧ t.ctl.tb.b = c.tb.b ∧ (c.tb.untimed = false → t.ctl.tb.sel = c.tb.sel) ∧ t.ctl.evBit 0x011 2 = true))) ∧
  (∀ (b v : Bool) (k : Nat) (s : State), s.ctl.live = true →
    Completes (.domainValidWrite b v k) s fun t => State.TbsStep [R.TBS_CTL (b2n b)] (s.ctl.advTo k) s t ∧ t.ctl.on (F.TBS_CTL_VALID (b2n b)) = v ∧
      t.ctl.tb.a = (s.ctl.advTo k).tb.a ∧ t.ctl.tb.b = (s.ctl.advTo k).tb.b ∧
      (t.ctl.healthy t.ctl.tb.selB = true ∨ t.ctl.healthy (!t.ctl.tb.selB) = false) ∧
      (t.ctl.healthy s.ctl.tb.selB = true → t.ctl.tb.selB = s.ctl.tb.selB))

/-- Outside reset, with time moved on to the tick of the command, for a master that may make the access: CAPTURE_READ of a capturing register captures its
group for the reading master and answers its first word, and of any other register captures nothing. TXQ_POP takes the head of its queue and captures
its time, or answers 0 of an empty queue; TXQ_PUSH takes the oldest stamp whose instant comes by the end of the present frame at that instant into its
queue, or drops and counts it with event 4 when 16 wait. PPS_IN_EDGE keeps its time with event 6. PPS_OUT rises once per second while enabled, low and
not squelched, for WIDTH ms, a second that passes otherwise gives no edge afterwards, and it falls when its width has passed. COMPARE_ARM with EN arms
a unit whose condition does not hold, and fires one whose condition holds with LATE; COMPARE_FIRE fires an armed unit whose condition holds; each
firing raises its event and clears EN. FRAME_CONVERSION gives the frame number of T, and MFS_SELECT captures a lane's stamps for the writing master.
Its clauses keep the model's own choices of log entries 5, 54. (12_timebase.md: Domain counters (R332); 12_timebase.md: Multiframe stamps and link
time transfer (R346); 12_timebase.md: Message stamps (R350, R351); 12_timebase.md: PPS_IN and PPS_OUT (R353, R354); 12_timebase.md: Compares, frame
conversion and wrap (R355, R356)) -/
def Obligations.TimebaseStamps : Prop :=
  (∀ (m a k : Nat) (c : Ctl) (s : State), s.ctl.live = true → m < 5 → s.ctl.MayReg m a false → s.ctl.advTo k = c →
    (∀ g l, c.captureOf a = some (g, l) → Gives (.captureRead m a k) s { s with ctl := { c.putCapture g m l with answer := .data (lget l 0 0) } }) ∧
    (c.captureOf a = none → Gives (.captureRead m a k) s { s with ctl := c })) ∧
  (∀ (m q : Nat) (s : State), s.ctl.live = true → m < 5 → s.ctl.MayReg m (R.TBS_TXQ_W0 q) false → q < 3 →
    ((s.ctl.txq q).items = [] → Gives (.txqPop m q) s { s with ctl := { s.ctl.putCapture (11 + q) m [0, 0, 0] with answer := .data 0 } }) ∧
    (∀ e l, (s.ctl.txq q).items = e :: l → Gives (.txqPop m q) s { s with ctl := {
      (s.ctl.setTxq q { s.ctl.txq q with items := l }).putCapture (11 + q) m (words96 e.stamp) with
      answer := .data (2 ^ 31 + b2n e.domB * 2 ^ 30 + e.src % 1024 * 2 ^ 16 + e.id % 65536) } })) ∧
  (∀ (q : Nat) (w : StampWant) (r : List (Nat × StampWant)) (c : Ctl) (s : State), s.ctl.timed = true → s.ctl.tb.txPend = (q, w) :: r →
    s.ctl.dueBy w.tick = true → s.ctl.advMoment w.tick = c →
    ((s.ctl.txq q).items.length < 16 → Gives .txqPush s { s with ctl := { c with tb := { c.tb with
      txPend := r, txq := tput s.ctl.tb.txq q { s.ctl.txq q with items := (s.ctl.txq q).items ++ [⟨w.id, w.domB, w.src, c.domAt w.domB w.due⟩] } } } }) ∧
    (16 ≤ (s.ctl.txq q).items.length → GivesEvent .txqPush s 0x011 4 { s with ctl := { c with tb := { c.tb with
      txPend := r, txq := tput s.ctl.tb.txq q { s.ctl.txq q with ovf := true, drop := min 65535 ((s.ctl.txq q).drop + 1) } } } })) ∧
  (∀ s : State, (∀ p ∈ s.ctl.tb.txPend, s.ctl.dueBy p.2.tick = false) → Gives .txqPush s s) ∧
  (∀ (k : Nat) (c : Ctl) (s : State), s.ctl.timed = true → s.ctl.advTo k = c →
    GivesEvent (.ppsInEdge k) s 0x011 6 { s with ctl := { c with tb := { c.tb with
      ppsSeq := (c.tb.ppsSeq + 1) % 65536, ppsFn := c.fn32, pps := ⟨c.tb.a.val, c.tb.b.val⟩ } } } ∧
    (c.ppsSecond ≠ c.tb.ppsLast → c.ppsOut = false → c.on F.TMU_OUT_CTL_PPS_EN = true → c.tb.squelched = false →
      Gives (.ppsOutEdge k) s { s with ctl := { c with tb := { c.tb with
        ppsLast := c.ppsSecond, ppsHigh := true, ppsEnd := c.mtime + min 500 (max 1 (c.get F.TBS_PPS_CTL_WIDTH)) * 204800 } } }) ∧
    (c.ppsSecond ≠ c.tb.ppsLast → (c.ppsOut = true ∨ c.on F.TMU_OUT_CTL_PPS_EN = false ∨ c.tb.squelched = true) →
      Gives (.ppsOutEdge k) s { s with ctl := { c with tb := { c.tb with ppsLast := c.ppsSecond } } }) ∧
    (c.ppsSecond = c.tb.ppsLast → Gives (.ppsOutEdge k) s { s with ctl := c })) ∧
  (∀ (c : Ctl) (s : State), s.ctl.timed = true → s.ctl.advMoment s.ctl.tb.ppsEnd = c →
    (s.ctl.tb.ppsHigh = true → s.ctl.dueBy s.ctl.tb.ppsEnd = true → Gives .ppsOutFall s { s with ctl := { c with tb := { c.tb with ppsHigh := false } } }) ∧
    ((s.ctl.tb.ppsHigh = false ∨ s.ctl.dueBy s.ctl.tb.ppsEnd = false) → Gives .ppsOutFall s s)) ∧
  (∀ (k x : Nat) (v : Word) (s : State), s.ctl.live = true → k < 4 →
    Completes (.compareArm k v x) s fun t => State.IsBut [0x011] [R.TBS_CMP_CTL k] { s with ctl := s.ctl.advTo x } t ∧
      t.ctl.get (F.TBS_CMP_CTL_SRC k) = wGet v 29 28 ∧
      (wGet v 31 31 = 1 → t.ctl.compareHolds k = true → t.ctl.on (F.TBS_CMP_CTL_EN k) = false ∧ t.ctl.on (F.TBS_CMP_CTL_LATE k) = true ∧
        t.ctl.evBit 0x011 (8 + k) = true) ∧
      (wGet v 31 31 = 1 → t.ctl.compareHolds k = false → t.ctl.on (F.TBS_CMP_CTL_EN k) = true ∧ t.ctl.on (F.TBS_CMP_CTL_LATE k) = false) ∧
      (wGet v 31 31 = 0 → t.ctl.on (F.TBS_CMP_CTL_EN k) = false)) ∧
  (∀ (k x : Nat) (c : Ctl) (s : State), s.ctl.timed = true → k < 4 → s.ctl.advTo x = c →
    (c.on (F.TBS_CMP_CTL_EN k) = true → c.compareHolds k = true → Completes (.compareFire k x) s (fun t =>
      State.IsBut [0x011] [R.TBS_CMP_CTL k] { s with ctl := c } t ∧ t.ctl.on (F.TBS_CMP_CTL_EN k) = false ∧
      t.ctl.on (F.TBS_CMP_CTL_LATE k) = false ∧ t.ctl.evBit 0x011 (8 + k) = true)) ∧
    ((c.on (F.TBS_CMP_CTL_EN k) = false ∨ c.compareHolds k = false) → Gives (.compareFire k x) s { s with ctl := c })) ∧
  (∀ (w : Word) (n : Int) (s : State), s.ctl.live = true →
    -(-sdiff 64 ((s.ctl.reg R.TBS_CONV_T_HI).toNat * 2 ^ 32 + w.toNat) (nsOf s.ctl.tb.sb) / 125000) = n →
    Completes (.frameConversion w) s fun t => s.IsRegs [R.TBS_CONV_T_LO, R.TBS_CONV_FN, R.TBS_CONV_STAT] t ∧ t.ctl.reg R.TBS_CONV_T_LO = w ∧
      t.ctl.get F.TBS_CONV_FN_VALUE = unsgn 32 (s.ctl.fn32 + n) ∧ t.ctl.on F.TBS_CONV_STAT_VALID = decide (n.natAbs < 2 ^ 31) ∧
      t.ctl.on F.TBS_CONV_STAT_PAST = decide (n ≤ 0)) ∧
  (∀ (m n : Nat) (s : State), s.ctl.live = true → m < 5 → s.ctl.MayReg m R.TBS_MFS_SEL true → n < 24 →
    Completes (.mfsSelect m n) s fun t => State.IsRegs [R.TBS_MFS_SEL] { s with ctl := s.ctl.putCapture 10 m (s.ctl.mfs n).words } t ∧
      t.ctl.get F.TBS_MFS_SEL_LANE = n)

/-! ### The unit pair -/

/-- While system timing runs and the pair logic is on: each symbol is answered with one transition on HY_RA; code violations are counted and begin a hunt,
in which a message that does not check is passed over. The symbols of a message whose fields or COUNT do not check count it alone; one of another unit
or pair is counted with event 8 of the UPR page. A valid pennant, in a hunt or not, becomes the mate's last, with its moment and its COUNT, ACK and
ROLES shown, and the first gives the mate's DEVID: in PAIRED without lag the pair stays PAIRED, with an ACK that lags by more than 4 it becomes
SUSPECT with event 1; the fourth good one in a row in SEEKING leads to PAIRED with event 0; a BYE leads to PARTED with verdict 4 and event 2, and its
boundary is kept. PENNANT_MISSED of a pennant that is due counts it, breaks the run of good ones and marks a pending swap; the fourth in a row in
PAIRED leads to SUSPECT with event 1, and any other keeps the pair state and the mate phase. Off the pair logic, or before it is due, only time moves
on. None of these changes memory, pages, mode or service role. Its clauses keep the model's own choices of log entry 55. (13_unit_pair.md: Pairing
(R362); 13_unit_pair.md: Pennants (R366, R367); 13_unit_pair.md: Pair states (R368, Table 13.3); 13_unit_pair.md: Evidence and the decision (R376)) -/
def Obligations.Pennants : Prop :=
  (∀ (l : List (Option Nat)) (z : Int) (k : Nat) (s : State), s.ctl.pairRuns = false → Gives (.pennantReceive l z k) s s) ∧
  (∀ (z : Int) (k v : Nat) (s : State), s.ctl.timed = true → s.ctl.pairRuns = true →
    Completes (.pennantReceive (List.replicate (v + 1) none) z k) s fun t => (∃ y f, State.IsRegs [R.UPR_CNT_LINK]
      { s with ctl := { s.ctl.advTo k with pair := { s.ctl.pair with rx := { hunt := true }, hyRa := y }, free := f } } t) ∧
      t.ctl.get F.UPR_CNT_LINK_HIGH = min 65535 (s.ctl.get F.UPR_CNT_LINK_HIGH + v + 1)) ∧
  (∀ (l : List (Option Nat)) (z : Int) (k : Nat) (s : State), s.ctl.timed = true → s.ctl.pairRuns = true → l.all Option.isSome = true →
    Completes (.pennantReceive l z k) s fun t => t.ctl.pair.hyRa = xor s.ctl.pair.hyRa (l.length % 2 == 1)) ∧
  (∀ (b : List Byte) (z : Int) (k : Nat) (s : State), s.ctl.timed = true → s.ctl.pairRuns = true → b.length = 64 →
    (s.ctl.pair.rx = { hunt := true } → (beAt b 0 1 ≠ 0x9E ∨ crcChecks b = false) → Completes (.pennantReceive (symbolsOf b) z k) s (fun t =>
      ∃ q, State.Is { s with ctl := { s.ctl.advTo k with pair := { s.ctl.pair with rx := q } } } t)) ∧
    (s.ctl.pair.rx = {} → (pennantFields b && s.ctl.countFollows (parsePennant b)) = false →
      Completes (.pennantReceive (symbolsOf b) z k) s (fun t => (∃ q, State.IsRegs [R.UPR_CNT_PENN]
        { s with ctl := { s.ctl.advTo k with pair := { s.ctl.pair with rx := q } } } t) ∧
        t.ctl.get F.UPR_CNT_PENN_HIGH = min 65535 (s.ctl.get F.UPR_CNT_PENN_HIGH + 1))) ∧
    (s.ctl.pair.rx.syms = [] → pennantFields b = true → s.ctl.countFollows (parsePennant b) = true →
      (s.ctl.learn b (parsePennant b)).pennantOurs b (parsePennant b) = false →
      Completes (.pennantReceive (symbolsOf b) z k) s (fun t => (∃ l, State.IsBut [0x018] [R.UPR_CNT_PENN, R.UPR_STAT, R.UPR_MATE_DEVID]
        { s with ctl := { s.ctl.advTo k with pair := { s.ctl.pair with rx := {}, learned := l } } } t) ∧ t.ctl.pstate = s.ctl.pstate ∧
        t.ctl.get F.UPR_CNT_PENN_LOW = min 65535 (s.ctl.get F.UPR_CNT_PENN_LOW + 1) ∧ t.ctl.evBit 0x018 8 = true))) ∧
  (∀ (b : List Byte) (z : Int) (k : Nat) (p : Pennant) (s : State), s.ctl.timed = true → s.ctl.pairRuns = true → parsePennant b = p →
    s.ctl.pair.rx.syms = [] → pennantFields b = true → s.ctl.countFollows p = true → (s.ctl.learn b p).pennantOurs b p = true →
    Completes (.pennantReceive (symbolsOf b) z k) s fun t => s.DataKept t ∧ t.ctl.fn = s.ctl.fn ∧ t.ctl.mode = s.ctl.mode ∧ t.ctl.svc = s.ctl.svc ∧
      t.ctl.pair.mate = some p ∧ t.ctl.pair.missed = 0 ∧ t.ctl.lastPennant = some (s.ctl.advTo k).mtime ∧ t.ctl.pair.phase = z ∧ t.ctl.pair.rx = {} ∧
      (s.ctl.pair.learned = none → t.ctl.on F.UPR_STAT_DEVID_REC = true ∧ t.ctl.pair.learned = some p.devid) ∧
      t.ctl.get F.UPR_MATE_COUNT_VALUE = p.count % 2 ^ 32 ∧ t.ctl.get F.UPR_MATE_ACK_VALUE = p.ack % 2 ^ 32 ∧
      t.ctl.get F.UPR_MATE_STATE_ROLES = p.roles % 256 ∧
      (p.isBye = true → t.ctl.pstate = 4 ∧ t.ctl.get F.UPR_STAT_VERDICT = 4 ∧ t.ctl.pair.bye = some (p.h, (s.ctl.advTo k).mtime) ∧
        t.ctl.evBit 0x018 2 = true) ∧
      (p.isBye = false → s.ctl.pstate = 2 → sdiff 32 (s.ctl.reg R.UPR_COUNT).toNat p.ack ≤ 4 → t.ctl.pstate = 2) ∧
      (p.isBye = false → s.ctl.pstate = 2 → 4 < sdiff 32 (s.ctl.reg R.UPR_COUNT).toNat p.ack → t.ctl.pstate = 3 ∧ t.ctl.evBit 0x018 1 = true) ∧
      (p.isBye = false → s.ctl.pstate = 1 → sdiff 32 (s.ctl.reg R.UPR_COUNT).toNat p.ack ≤ 4 → 3 ≤ s.ctl.pair.good →
        t.ctl.pstate = 2 ∧ t.ctl.pair.decAt = none ∧ t.ctl.on F.UPR_STAT_HALYARD_FAIL = false ∧ t.ctl.evBit 0x018 0 = true) ∧
      (p.isBye = false → s.ctl.pstate = 1 → sdiff 32 (s.ctl.reg R.UPR_COUNT).toNat p.ack ≤ 4 → s.ctl.pair.good < 3 →
        t.ctl.pstate = 1 ∧ t.ctl.pair.good = s.ctl.pair.good + 1)) ∧
  (∀ (k a : Nat) (c : Ctl) (s : State), s.ctl.timed = true → s.ctl.advTo k = c → c.pairRuns = true → c.lastPennant = some a →
    (2048 * (10 + 500 * (c.pair.missed + 1)) ≤ 10 * (c.mtime - a) →
      Completes (.pennantMissed k) s (fun t => s.DataKept t ∧ t.ctl.mode = s.ctl.mode ∧ t.ctl.svc = s.ctl.svc ∧
        t.ctl.pair.missed = c.pair.missed + 1 ∧ t.ctl.pair.good = 0 ∧ t.ctl.swap = c.swap.map (fun r => { r with missed := true }) ∧
        (c.pair.missed = 3 → c.pstate = 2 → t.ctl.pstate = 3 ∧ t.ctl.pair.decAt.isSome = true ∧ t.ctl.evBit 0x018 1 = true) ∧
        (c.pair.missed ≠ 3 → t.ctl.pstate = c.pstate ∧ t.ctl.pair.thetas = c.pair.thetas ∧ t.ctl.pair.run = c.pair.run))) ∧
    (10 * (c.mtime - a) < 2048 * (10 + 500 * (c.pair.missed + 1)) → Gives (.pennantMissed k) s { s with ctl := c }))

/-- While system timing runs: ROLE_EVALUATION in frame 28 of a multiframe in PAIRED puts off, to the next multiframe boundary, the SECONDARY's release
when both units are ACTIVE and its return from ISOLATED, and a take when neither is ACTIVE: of an eligible PRIMARY that has been in service for a
multiframe when the mate is STANDBY or ISOLATED, and of it or an eligible SECONDARY when the mate reports NONE, RECOVERY or BIND_OK 0; a PRIMARY that
is ACTIVE, and a SECONDARY whose mate is STANDBY or ISOLATED, hold; out of PAIRED or service it does nothing. ROLE_CHANGE at the boundary of a pending
take of an eligible unit makes it ACTIVE with event 4; of a release, STANDBY with event 5; at another boundary it does nothing. PARTING_DECISION at D
in SUSPECT parts the pair with its verdict: SILENT lets an eligible unit in service take ACTIVE 32 frames later; NONE isolates a SECONDARY in service,
and lets an eligible PRIMARY in service take; ALIVE marks HALYARD_FAIL, changes no role, and lets such a PRIMARY take when the mate reported its flag
0 or REL. PARTED_VERDICT after D shows the evidence, and SILENT lets an eligible unit take. BYE_TAKE_ACTIVE takes ACTIVE once its boundary and 100 µs
have come. ECHO_RECORD_EXPIRE discards a record of 32 ms. The memories, the pages and the data path are never changed. Its clauses keep the model's
own choices of log entries 4, 27, 55, 56. (13_unit_pair.md: Service roles (R369, R370, Table 13.4); 13_unit_pair.md: Evidence and the decision (R372
to R377, Table 13.5)) -/
def Obligations.RolesAndPartings : Prop :=
  (∀ s : State, s.ctl.timed = true → s.ctl.pairRuns = true → s.ctl.pstate = 2 → s.ctl.fnN % 32 = 28 →
    (s.ctl.svc = .active → s.ctl.mateActive = true → s.ctl.isPrimary = false → Gives .roleEvaluation s { s with ctl := { s.ctl with pair := { s.ctl.pair with
      act := some (.release, (s.ctl.fnN / 32 + 1) * 32 % 2 ^ 48) } } }) ∧
    (s.ctl.svc = .isolated → s.ctl.isPrimary = false → Gives .roleEvaluation s { s with ctl := { s.ctl with pair := { s.ctl.pair with
      act := some (.toStandby, (s.ctl.fnN / 32 + 1) * 32 % 2 ^ 48) } } }) ∧
    (s.ctl.svc = .active → s.ctl.mateActive = true → s.ctl.isPrimary = true → Gives .roleEvaluation s s) ∧
    (s.ctl.svc = .standby → s.ctl.mateActive = false → 2 ≤ s.ctl.mateSvc → s.ctl.isPrimary = false → Gives .roleEvaluation s s) ∧
    (∀ a, s.ctl.svc = .standby → s.ctl.mateActive = false → s.ctl.mateSvc < 2 →
      (s.ctl.mateSvc = 0 ∨ s.ctl.mateRoles % 8 = 5 ∨ bit s.ctl.mateRoles 6 = false) → s.ctl.eligible = true → s.ctl.pair.serviceAt = some a →
      (s.ctl.isPrimary = true → 32 * 25600 ≤ s.ctl.mtime - a) → Gives .roleEvaluation s { s with ctl := { s.ctl with pair := { s.ctl.pair with
      act := some (.take, (s.ctl.fnN / 32 + 1) * 32 % 2 ^ 48) } } }) ∧
    (∀ a, s.ctl.svc = .standby → s.ctl.mateActive = false → 2 ≤ s.ctl.mateSvc → s.ctl.isPrimary = true → s.ctl.eligible = true →
      s.ctl.pair.serviceAt = some a → 32 * 25600 ≤ s.ctl.mtime - a → Gives .roleEvaluation s { s with ctl := { s.ctl with pair := { s.ctl.pair with
      act := some (.take, (s.ctl.fnN / 32 + 1) * 32 % 2 ^ 48) } } })) ∧
  (∀ s : State, (s.ctl.pstate ≠ 2 ∨ s.ctl.fnN % 32 ≠ 28 ∨ s.ctl.svc = .none) → Gives .roleEvaluation s s) ∧
  (∀ (f : Nat) (s : State), s.ctl.timed = true → s.ctl.mfEdge = true → s.ctl.nextFn f = true →
    (s.ctl.pair.act = some (.take, f) → s.ctl.eligible = true → s.ctl.svc ≠ .active →
      Completes .roleChange s (fun t => s.DataKept t ∧ t.ctl.svc = .active ∧ t.ctl.mode = (if s.ctl.mode = .standby then .active else s.ctl.mode) ∧
        t.ctl.pair.act = none ∧ t.ctl.evBit 0x018 4 = true ∧ t.ctl.get F.UPR_CNT_ROLE_HIGH = min 65535 (s.ctl.get F.UPR_CNT_ROLE_HIGH + 1))) ∧
    (s.ctl.pair.act = some (.release, f) → s.ctl.svc = .active →
      Completes .roleChange s (fun t => s.DataKept t ∧ t.ctl.svc = .standby ∧ t.ctl.mode = (if s.ctl.mode = .active then .standby else s.ctl.mode) ∧
        t.ctl.pair.act = none ∧ t.ctl.evBit 0x018 5 = true))) ∧
  (∀ s : State, (s.ctl.pair.act = none ∨ s.ctl.mfEdge = false) → Gives .roleChange s s) ∧
  (∀ (d : Nat) (s : State), s.ctl.timed = true → s.ctl.pairRuns = true → s.ctl.pair.decAt = some d → (s.ctl.fnN + 1) % 2 ^ 48 = d → s.ctl.pstate = 3 →
    Completes .partingDecision s fun t => s.DataKept t ∧ t.ctl.pstate = 4 ∧ t.ctl.pair.decAt = none ∧ t.ctl.evBit 0x018 2 = true ∧
      t.ctl.get F.UPR_EVID_ALIVE_LANES = (s.ctl.evidence s.ctl.pair.decFrom).1 ∧
      t.ctl.get F.UPR_EVID_SILENT_LANES = (s.ctl.evidence s.ctl.pair.decFrom).2 ∧
      ((s.ctl.evidence s.ctl.pair.decFrom).1 = 0 → (s.ctl.evidence s.ctl.pair.decFrom).2 ≠ 0 → s.ctl.svc ≠ .none → s.ctl.eligible = true → s.ctl.svc ≠ .active →
        t.ctl.get F.UPR_STAT_VERDICT = 2 ∧ t.ctl.pair.act = some (.take, (d + 32) % 2 ^ 48) ∧ t.ctl.svc = s.ctl.svc) ∧
      ((s.ctl.evidence s.ctl.pair.decFrom).1 = 0 → (s.ctl.evidence s.ctl.pair.decFrom).2 = 0 → s.ctl.isPrimary = false →
        s.ctl.svc ≠ .none → t.ctl.get F.UPR_STAT_VERDICT = 3 ∧ t.ctl.svc = .isolated) ∧
      ((s.ctl.evidence s.ctl.pair.decFrom).1 = 0 → (s.ctl.evidence s.ctl.pair.decFrom).2 = 0 → s.ctl.isPrimary = true →
        s.ctl.svc ≠ .none → t.ctl.get F.UPR_STAT_VERDICT = 3 ∧ t.ctl.svc = s.ctl.svc ∧
          (s.ctl.eligible = true → s.ctl.svc ≠ .active → t.ctl.pair.act = some (.take, (d + 32) % 2 ^ 48))) ∧
      ((s.ctl.evidence s.ctl.pair.decFrom).1 ≠ 0 → t.ctl.get F.UPR_STAT_VERDICT = 1 ∧ t.ctl.on F.UPR_STAT_HALYARD_FAIL = true ∧ t.ctl.svc = s.ctl.svc ∧
        ∀ p, s.ctl.pair.mate = some p → s.ctl.isPrimary = true → s.ctl.svc ≠ .none → s.ctl.svc ≠ .active → s.ctl.eligible = true →
          (bit p.roles 3 = false ∨ bit p.kind 0 = true) → t.ctl.pair.act = some (.take, (d + 32) % 2 ^ 48))) ∧
  (∀ s : State, (s.ctl.pair.decAt = none ∨ s.ctl.pairRuns = false) → Gives .partingDecision s s) ∧
  (∀ (e : Nat × Nat) (s : State), s.ctl.timed = true → s.ctl.pairRuns = true → s.ctl.mfEdge = true → s.ctl.pstate ≠ 2 → s.ctl.pstate ≠ 3 →
    s.ctl.pair.judged = true → s.ctl.pair.decAt = none → s.ctl.evidence (s.ctl.boundaryAt - 20 * 204800) = e →
    Completes .partedVerdict s fun t => t.ctl.get F.UPR_EVID_ALIVE_LANES = e.1 ∧ t.ctl.get F.UPR_EVID_SILENT_LANES = e.2 ∧
      ((e.1 ≠ 0 ∨ e.2 = 0) → s.IsRegs [R.UPR_EVID_ALIVE, R.UPR_EVID_SILENT] t) ∧
      (e.1 = 0 → e.2 ≠ 0 → s.ctl.eligible = true → s.ctl.svc ≠ .active → s.ctl.pair.act = none →
        State.IsRegs [R.UPR_EVID_ALIVE, R.UPR_EVID_SILENT] { s with ctl := { s.ctl with pair := { s.ctl.pair with
          act := some (.take, (s.ctl.fnN + 33) % 2 ^ 48) } } } t)) ∧
  (∀ s : State, (s.ctl.pstate = 2 ∨ s.ctl.pstate = 3 ∨ s.ctl.pair.judged = false ∨ s.ctl.mfEdge = false) → Gives .partedVerdict s s) ∧
  (∀ (h a : Nat) (s : State), s.ctl.timed = true → s.ctl.pairRuns = true → s.ctl.pair.bye = some (h, a) → s.ctl.mfEdge = true →
    0 ≤ sdiff 32 ((s.ctl.fn32 + 1) % 2 ^ 32) h → 20480 ≤ s.ctl.boundaryAt - a → s.ctl.eligible = true → s.ctl.svc ≠ .active →
    Completes .byeTakeActive s fun t => s.DataKept t ∧ t.ctl.svc = .active ∧ t.ctl.pair.bye = none ∧ t.ctl.evBit 0x018 4 = true) ∧
  (∀ s : State, (s.ctl.pair.bye = none ∨ s.ctl.mfEdge = false) → Gives .byeTakeActive s s) ∧
  (∀ (n k : Nat) (c : Ctl) (s : State), s.ctl.timed = true → n < 24 → s.ctl.advTo k = c → (c.loh n).echoLast.isSome = true →
    (32 * 204800 ≤ c.mtime - (c.loh n).echoAt → Gives (.echoRecordExpire n k) s { s with ctl := c.setOh n { c.loh n with echoLast := none } }) ∧
    (c.mtime - (c.loh n).echoAt < 32 * 204800 → Gives (.echoRecordExpire n k) s { s with ctl := c }))

/-- While system timing runs, with time moved on to the tick of the command: REVERT_WTR_EXPIRY of an ended timer, and HANDOVER_RETRY of an ended wait,
while the revert conditions hold, propose a hand-over for the fourth multiframe boundary that comes; before their moment only time moves on, and once
the conditions fail both are stopped. HANDOVER_COMMIT of an acknowledged hand-over at H - 8 commits it when the mate still proposes the same H and no
pennant was missed, and ends it otherwise. HANDOVER_RELEASE of a committed one at H makes an ACTIVE unit STANDBY with event 5. HANDOVER_TAKE of a
proposed one at H + 32 makes an eligible unit that saw the flag drop ACTIVE with events 4 and 9, and otherwise the hand-over has failed: event 10, and
a wait of 1 s. In any other state of the hand-over nothing happens. Its clauses keep the model's own choices of log entries 4, 57. (13_unit_pair.md:
Revert (R380, R381)) -/
def Obligations.HandOver : Prop :=
  (∀ (k a : Nat) (c : Ctl) (s : State), s.ctl.timed = true → s.ctl.advTo k = c → c.revertOk = true →
    (c.pair.wtrEnd = some a → a ≤ c.mtime → Completes (.revertWtrExpiry k) s (State.Proposed c s)) ∧
    (c.pair.wtrEnd = some a → c.mtime < a → Gives (.revertWtrExpiry k) s { s with ctl := c }) ∧
    (c.pair.hoRetry = some a → a ≤ c.mtime → Completes (.handoverRetry k) s (State.Proposed c s)) ∧
    (c.pair.hoRetry = some a → c.mtime < a → Gives (.handoverRetry k) s { s with ctl := c })) ∧
  (∀ (k : Nat) (c : Ctl) (s : State), s.ctl.timed = true → s.ctl.advTo k = c → c.revertOk = false → ∀ i ∈ [Instr.revertWtrExpiry k, .handoverRetry k],
    Gives i s { s with ctl := { c with pair := { c.pair with wtrEnd := none, hoRetry := none } } }) ∧
  (∀ s : State, s.ctl.timed = true → s.ctl.pair.ho = .acked → s.ctl.nearFn (s.ctl.pair.hoH + 2 ^ 32 - 8) = true →
    (∀ p, s.ctl.pair.mate = some p → bit p.kind 2 = true → p.h = s.ctl.pair.hoH → s.ctl.pair.hoMissed = false →
      Completes .handoverCommit s (fun t => State.IsRegs [R.UPR_STAT] { s with ctl := { s.ctl with pair := { s.ctl.pair with ho := .committed } } } t ∧
        t.ctl.on F.UPR_STAT_REL_COMMIT = true ∧ t.ctl.pstate = s.ctl.pstate)) ∧
    ((∀ p, s.ctl.pair.mate = some p → bit p.kind 2 = false ∨ p.h ≠ s.ctl.pair.hoH ∨ s.ctl.pair.hoMissed = true) →
      Completes .handoverCommit s (fun t => State.IsRegs [R.UPR_STAT] { s with ctl := { s.ctl with pair := { s.ctl.pair with
        ho := .none, hoSeen := false } } } t ∧ t.ctl.on F.UPR_STAT_HO_PEND = false ∧ t.ctl.on F.UPR_STAT_REL_COMMIT = false))) ∧
  (∀ s : State, s.ctl.pair.ho ≠ .acked → Gives .handoverCommit s s) ∧
  (∀ s : State, s.ctl.timed = true → s.ctl.pair.ho = .committed → s.ctl.nextFn s.ctl.pair.hoH = true → s.ctl.svc = .active →
    Completes .handoverRelease s fun t => s.DataKept t ∧ t.ctl.svc = .standby ∧ t.ctl.mode = (if s.ctl.mode = .active then .standby else s.ctl.mode) ∧
      t.ctl.pair.ho = .none ∧ t.ctl.on F.UPR_STAT_HO_PEND = false ∧ t.ctl.evBit 0x018 5 = true) ∧
  (∀ s : State, s.ctl.pair.ho ≠ .committed → Gives .handoverRelease s s) ∧
  (∀ s : State, s.ctl.timed = true → s.ctl.pair.ho = .proposed → s.ctl.nextFn (s.ctl.pair.hoH + 32) = true →
    (s.ctl.pair.hoSeen = true → s.ctl.eligible = true → s.ctl.svc ≠ .active →
      Completes .handoverTake s (fun t => s.DataKept t ∧ t.ctl.svc = .active ∧ t.ctl.pair.ho = .none ∧ t.ctl.on F.UPR_STAT_HO_PEND = false ∧
        t.ctl.evBit 0x018 4 = true ∧ t.ctl.evBit 0x018 9 = true)) ∧
    ((s.ctl.pair.hoSeen = false ∨ s.ctl.eligible = false ∨ s.ctl.svc = .active) →
      Completes .handoverTake s (fun t => State.IsBut [0x018] [R.UPR_STAT] { s with ctl := { s.ctl with pair := { s.ctl.pair with
        ho := .none, hoSeen := false, hoRetry := some (s.ctl.boundaryAt + 204800000) } } } t ∧ t.ctl.on F.UPR_STAT_HO_PEND = false ∧
        t.ctl.evBit 0x018 10 = true))) ∧
  (∀ s : State, s.ctl.pair.ho ≠ .proposed → Gives .handoverTake s s)

/-! ### The cipher engine -/

/-- Outside reset, where the master may make the access, with time moved on to the tick of the command: LATCH_ACQUIRE by a core or the host of the free
latch makes it the holder and answers GRANTED with its ID; of a held latch it changes nothing but the answer, the holder's ID, with GRANTED for the
holder; by any other master it is refused with CAUSE 3. LATCH_RELEASE by another than the holder is ignored; by the holder it aborts a segment that
runs with RESULT 9 and frees the latch, which a waiting SLR holds at once. LEASE_EXPIRY before the lease has passed is nothing; after it the holder is
recorded, event 0 of the CIP page is raised and the latch is free. SLR_JOBS_DONE while the SLR holds the latch makes its pending jobs ready, up to one
whose check fails, which locks the engine, counts them, and frees the latch; of an engine that is off, none. Its clauses keep the model's own choices
of log entries 5, 12, 36, 59, 72. (14_cipher.md: The latch (R390 to R393); 17_host_and_registers.md: Register access (R480); 15_cores_and_memory.md:
The bus matrix (R530)) -/
def Obligations.EngineLatch : Prop :=
  (∀ (m k : Nat) (c : Ctl) (s : State), s.ctl.live = true → m < 5 → s.ctl.MayReg m R.CIP_LATCH false → s.ctl.advTo k = c →
    (c.latch.holder = none → Gives (.latchAcquire m k) s { s with ctl := { c with
      latch := { c.latch with holder := some m, since := c.mtime }, answer := .data (2 ^ 31 + m) } }) ∧
    (∀ h, c.latch.holder = some h → Gives (.latchAcquire m k) s { s with ctl := { c with
      answer := .data ((if h = m then 2 ^ 31 else 0) + h) } })) ∧
  (∀ (m k : Nat) (s : State), s.ctl.live = true → 5 ≤ m → Completes (.latchAcquire m k) s (State.Refused m (0x20000000 + R.CIP_LATCH) 3 [] [] s)) ∧
  (∀ (m k d : Nat) (c : Ctl) (s : State), s.ctl.live = true → m < 5 → s.ctl.MayReg m R.CIP_LATCH true → s.ctl.advTo k = c →
    (c.latch.holder ≠ some m → Gives (.latchRelease m k d) s { s with ctl := c }) ∧
    (c.latch.holder = some m → c.cip.seg = none → c.latch.slrWaiting = false →
      Gives (.latchRelease m k d) s { s with ctl := { c with latch := { c.latch with holder := none } } }) ∧
    (c.latch.holder = some m → c.cip.seg = none → c.latch.slrWaiting = true →
      Completes (.latchRelease m k d) s (fun t => State.IsRegs [R.SLR_WAIT] { s with ctl := { c with
        latch := { c.latch with holder := some 10, since := c.mtime, slrWaiting := false } } } t ∧
        t.ctl.get F.SLR_WAIT_LAST = min 65535 ((c.mtime - c.latch.asked) * 10 / 2048))) ∧
    (c.latch.holder = some m → c.cip.seg.isSome = true →
      Completes (.latchRelease m k d) s (fun t => t.ctl.cip.seg = none ∧ t.ctl.on F.CIP_JOB_STAT_BUSY = false ∧
        t.ctl.get F.CIP_JOB_STAT_RESULT = 9 ∧ t.ctl.latch.holder = (if c.latch.slrWaiting then some 10 else none) ∧
        t.ctl.cip.susp = c.cip.susp ∧ t.ctl.cip.slots = c.cip.slots))) ∧
  (∀ (k d h : Nat) (c : Ctl) (s : State), s.ctl.live = true → s.ctl.advTo k = c → c.latch.holder = some h →
    ((c.mtime - c.latch.since) * 10 / 2048 < c.leaseUs → Gives (.leaseExpiry k d) s { s with ctl := c }) ∧
    (c.leaseUs ≤ (c.mtime - c.latch.since) * 10 / 2048 → c.cip.seg = none → c.cip.pend = [] → c.latch.slrWaiting = false →
      Completes (.leaseExpiry k d) s (fun t => State.IsBut [0x040] [R.CIP_LATCH_STAT] { s with ctl := { c with
        latch := { c.latch with holder := none } } } t ∧ t.ctl.on F.CIP_LATCH_STAT_EXP_VALID = true ∧
        t.ctl.get F.CIP_LATCH_STAT_EXP_ID = h % 16 ∧ t.ctl.evBit 0x040 0 = true))) ∧
  (∀ (k d : Nat) (s : State), s.ctl.live = true → (s.ctl.advTo k).latch.holder = none → Gives (.leaseExpiry k d) s { s with ctl := s.ctl.advTo k }) ∧
  (∀ (k d : Nat) (c : Ctl) (s : State), s.ctl.live = true → s.ctl.advTo k = c → c.latch.holder = some 10 → c.engineOff = false →
    c.latch.slrWaiting = false →
    Completes (.slrJobsDone k (some d)) s (fun t => t.ctl.cip.ready = c.cip.ready ++ c.cip.pend.take d ∧ t.ctl.cip.pend = [] ∧
      t.ctl.latch.holder = none ∧ t.ctl.on F.CIP_STAT_LOCKED = true ∧ t.ctl.evBit 0x040 1 = true ∧ s.DataKept t)) ∧
  (∀ (k : Nat) (x : Option Nat) (c : Ctl) (s : State), s.ctl.live = true → s.ctl.advTo k = c →
    (c.latch.holder = some 10 → c.engineOff = true → c.latch.slrWaiting = false → Gives (.slrJobsDone k x) s { s with ctl := { c with
      cip := { c.cip with pend := [] }, latch := { c.latch with holder := none } } }) ∧
    (c.latch.holder ≠ some 10 → Gives (.slrJobsDone k x) s { s with ctl := c })) ∧
  (∀ (k : Nat) (c : Ctl) (s : State), s.ctl.live = true → s.ctl.advTo k = c → c.latch.holder = some 10 → c.engineOff = false →
    c.latch.slrWaiting = false →
    Completes (.slrJobsDone k none) s fun t => t.ctl.cip.ready = c.cip.ready ++ c.cip.pend ∧ t.ctl.cip.pend = [] ∧ t.ctl.latch.holder = none ∧
      t.ctl.get F.SLR_CNT_MASK_JOBS = min (2 ^ 32 - 1) (s.ctl.get F.SLR_CNT_MASK_JOBS + c.cip.pend.length) ∧ t.mem = s.mem ∧ t.xc = s.xc ∧
      t.ctl.cip.slots = c.cip.slots)

/-- Outside reset, where the master may make the access: CIP_JOB_GO by a master without the latch is refused with CAUSE 3; while a segment runs it changes
nothing. Otherwise a first segment changes only the RESULT, 6 for bad arguments or a reserved OP, then 11 for a slot not permitted, 10 without a key,
5 of an exhausted slot, 8 of an engine that is off; a later one without a suspended job gives 6. An accepted first segment of DEC or VER runs on the
slot's key with the IV of CIP_JOB_IV; of ENC or GEN with an IV of the slot's epoch and counter, which rises by one; a later segment takes up the
suspended job, or, of one a zeroise discarded, gives 4 with UNTRUSTED of an ENC or flagged DEC. At its end a segment without data gives GEN's tag and
VER's RESULT, 1 for a matching tag and 2 with event 4 for another; one with a block of data writes the cipher of what it reads, a held DEC for a
matching tag alone, and a failed read is RESULT 7; a segment that is not the last suspends its job; a mismatch aborts with RESULT 8, locks the engine
and raises event 1. With no segment JOB_SEGMENT_END does nothing. Its clauses keep the model's own choices of log entries 12, 37, 58, 59.
(14_cipher.md: Jobs (R385 to R387); 14_cipher.md: The latch (R391); 14_cipher.md: IVs (R399); 14_cipher.md: How jobs end (R402, R403); 14_cipher.md:
Fault checks and engine reset (R404); 17_host_and_registers.md: Register access (R480); 15_cores_and_memory.md: The bus matrix (R530)) -/
def Obligations.CipherJobs : Prop :=
  (∀ (m : Nat) (s : State), s.ctl.live = true → (m < 5 → s.ctl.MayReg m R.CIP_JOB_GO true) → (m < 5 → s.ctl.latch.holder ≠ some m) →
    ∀ i ∈ [Instr.jobEnc m, .jobDec m, .jobGen m, .jobVer m, .jobOpInvalid m], Completes i s (State.Refused m (0x20000000 + R.CIP_JOB_GO) 3 [] [] s)) ∧
  (∀ (m : Nat) (s : State), m < 5 → s.ctl.MayReg m R.CIP_JOB_GO true → s.ctl.latch.holder = some m → s.ctl.cip.seg.isSome = true →
    ∀ i ∈ [Instr.jobEnc m, .jobDec m, .jobGen m, .jobVer m, .jobOpInvalid m], Gives i s s) ∧
  (∀ (m op i : Nat) (s : State), s.ctl.live = true → m < 5 → s.ctl.MayReg m R.CIP_JOB_GO true → s.ctl.latch.holder = some m → s.ctl.cip.seg = none →
    s.ctl.engineOff = false → s.ctl.on F.CIP_JOB_CTL_FIRST = true → s.ctl.get F.CIP_JOB_CTL_OP = op → s.ctl.get F.CIP_JOB_CTL_SLOT = i →
    ((op = 0 ∨ 5 ≤ op) → Completes (.jobOpInvalid m) s (fun t => s.IsRegs [R.CIP_JOB_STAT] t ∧ t.ctl.get F.CIP_JOB_STAT_RESULT = 6)) ∧
    (∀ q ∈ [(1, Instr.jobEnc m), (2, .jobDec m), (3, .jobGen m), (4, .jobVer m)], q.1 = op →
      let refused (r : Nat) : Prop :=
        Completes q.2 s fun t => s.IsRegs [R.CIP_JOB_STAT] t ∧ t.ctl.get F.CIP_JOB_STAT_RESULT = r ∧ t.ctl.get F.CIP_JOB_STAT_MASTER = m % 16
      (s.ctl.BadArguments op → refused 6) ∧
      (¬ s.ctl.BadArguments op → ¬ s.ctl.SlotFor m → refused 11) ∧
      (¬ s.ctl.BadArguments op → s.ctl.SlotFor m → (s.ctl.slot i).key = none → (s.ctl.slot i).staged = none → refused 10) ∧
      (∀ kv, ¬ s.ctl.BadArguments op → s.ctl.SlotFor m → s.ctl.jobKey = some kv →
        ((op = 1 ∨ op = 3) → (s.ctl.slot i).exhausted = true → refused 5) ∧
        ((op = 2 ∨ op = 4) → Completes q.2 s (fun t => s.JobStarted m op s.ctl.jobIv t ∧ (t.ctl.slot i).ctr = (s.ctl.slot i).ctr)) ∧
        ((op = 1 ∨ op = 3) → (s.ctl.slot i).exhausted = false → Completes q.2 s (fun t =>
          s.JobStarted m op (ivBytes i kv.epoch (s.ctl.slot i).ctr) t ∧ (t.ctl.slot i).ctr = (s.ctl.slot i).ctr + 1))))) ∧
  (∀ (m op : Nat) (s : State), s.ctl.live = true → m < 5 → s.ctl.MayReg m R.CIP_JOB_GO true → s.ctl.latch.holder = some m → s.ctl.cip.seg = none →
    s.ctl.jobOp m = op →
    ∀ q ∈ [(1, Instr.jobEnc m), (2, .jobDec m), (3, .jobGen m), (4, .jobVer m)], q.1 = op →
    (s.ctl.engineOff = true → Completes q.2 s (fun t => s.IsRegs [R.CIP_JOB_STAT] t ∧ t.ctl.get F.CIP_JOB_STAT_RESULT = 8)) ∧
    (s.ctl.engineOff = false → s.ctl.on F.CIP_JOB_CTL_FIRST = false → tfind s.ctl.cip.susp m = none → tfind s.ctl.cip.wiped m = none →
      Completes q.2 s (fun t => s.IsRegs [R.CIP_JOB_STAT] t ∧ t.ctl.get F.CIP_JOB_STAT_RESULT = 6)) ∧
    (∀ j, s.ctl.engineOff = false → s.ctl.on F.CIP_JOB_CTL_FIRST = false → tfind s.ctl.cip.susp m = none → tfind s.ctl.cip.wiped m = some j →
      Completes q.2 s (fun t => State.IsRegs [R.CIP_JOB_STAT] { s with ctl := { s.ctl with cip := { s.ctl.cip with wiped := tdel s.ctl.cip.wiped m } } } t ∧
        t.ctl.get F.CIP_JOB_STAT_RESULT = 4 ∧ t.ctl.on F.CIP_JOB_STAT_UNTRUSTED = j.untrusted)) ∧
    (∀ j, s.ctl.engineOff = false → s.ctl.on F.CIP_JOB_CTL_FIRST = false → tfind s.ctl.cip.susp m = some j → s.ctl.laterRefusal j = 0 →
      Completes q.2 s (fun t => ∃ g, t.ctl.cip.seg = some g ∧ g.ctx = { j with lenUsed := j.lenUsed || s.ctl.get F.CIP_JOB_LEN_VALUE != 0 } ∧ g.master = m ∧ t.ctl.cip.susp = tdel s.ctl.cip.susp m ∧
        t.ctl.on F.CIP_JOB_STAT_BUSY = true ∧ s.DataKept t))) ∧
  (∀ (f : List ParityFault) (x : Option Nat) (s : State), s.ctl.cip.seg = none → Gives (.jobSegmentEnd f x) s s) ∧
  (∀ (g : Segment) (l : List Byte) (u s : State), s.ctl.live = true → s.ctl.cip.seg = some g → g.last = true → g.len = 0 →
    engReadBytes false g.master [] g.aadLen g.aad g.aadLen s = (some l, u) →
    (g.ctx.op = 3 → Completes (.jobSegmentEnd [] none) s (fun t => t.ctl.cip.seg = none ∧ t.ctl.on F.CIP_JOB_STAT_BUSY = false ∧
      t.ctl.get F.CIP_JOB_STAT_RESULT = 1 ∧ t.mem = u.mem ∧ ∀ w, w < 4 → t.ctl.reg (R.CIP_JOB_TAG w) = BitVec.ofNat 32 (beAt (slice (g.tagOf l []) 0 16) (4 * w) 4))) ∧
    (g.ctx.op = 4 → Completes (.jobSegmentEnd [] none) s (fun t => t.ctl.cip.seg = none ∧ t.ctl.on F.CIP_JOB_STAT_BUSY = false ∧ t.mem = u.mem ∧
      (u.ctl.jobTag.take g.ctx.tagLen = g.tagOf l [] → t.ctl.get F.CIP_JOB_STAT_RESULT = 1) ∧
      (u.ctl.jobTag.take g.ctx.tagLen ≠ g.tagOf l [] → t.ctl.get F.CIP_JOB_STAT_RESULT = 2 ∧ t.ctl.evBit 0x040 4 = true)))) ∧
  (∀ (g : Segment) (l d : List Byte) (u v : State) (s : State), s.ctl.live = true → s.ctl.cip.seg = some g → g.last = true → 0 < g.len → g.len ≤ 16 →
    engReadBytes false g.master [] g.aadLen g.aad g.aadLen s = (some l, u) → engReadBytes false g.master [] g.len g.src g.len u = (some d, v) →
    ∀ w : (Nat × Bool) × State, engWriteBytes g.master [] g.len g.dst (g.blockOut d) v = w → w.1.2 = true →
    (g.ctx.op = 1 → Completes (.jobSegmentEnd [] none) s (fun t => t.ctl.cip.seg = none ∧ t.mem = w.2.mem ∧ t.xc = w.2.xc ∧
      t.ctl.get F.CIP_JOB_STAT_RESULT = 1 ∧ ∀ j, j < 4 → t.ctl.reg (R.CIP_JOB_TAG j) =
        BitVec.ofNat 32 (beAt (slice (g.tagOf l (g.blockOut d)) 0 16) (4 * j) 4))) ∧
    (g.ctx.op = 2 → v.ctl.jobTag.take g.ctx.tagLen = g.tagOf l d → g.ctx.flagged = false → (g.blockOut d).length = g.len →
      Completes (.jobSegmentEnd [] none) s (fun t =>
        t.ctl.cip.seg = none ∧ t.mem = w.2.mem ∧ t.xc = w.2.xc ∧ t.ctl.get F.CIP_JOB_STAT_RESULT = 1)) ∧
    (g.ctx.op = 2 → v.ctl.jobTag.take g.ctx.tagLen ≠ g.tagOf l d → g.ctx.flagged = false →
      Completes (.jobSegmentEnd [] none) s (fun t => t.ctl.cip.seg = none ∧ t.mem = v.mem ∧ t.xc = v.xc ∧
        t.ctl.get F.CIP_JOB_STAT_RESULT = 2 ∧ t.ctl.evBit 0x040 4 = true)) ∧
    (g.ctx.op = 2 → g.ctx.flagged = true → Completes (.jobSegmentEnd [] none) s (fun t => t.ctl.cip.seg = none ∧ t.mem = w.2.mem ∧ t.xc = w.2.xc ∧
      (w.2.ctl.jobTag.take g.ctx.tagLen = g.tagOf l d → t.ctl.get F.CIP_JOB_STAT_RESULT = 1) ∧
      (w.2.ctl.jobTag.take g.ctx.tagLen ≠ g.tagOf l d → t.ctl.get F.CIP_JOB_STAT_RESULT = 2 ∧ t.ctl.on F.CIP_JOB_STAT_UNTRUSTED = true)))) ∧
  (∀ (f : List ParityFault) (g : Segment) (l : List Byte) (u v : State) (s : State), s.ctl.live = true → s.ctl.cip.seg = some g →
    (engReadBytes false g.master f g.aadLen g.aad g.aadLen s = (none, v) ∨
      (engReadBytes false g.master f g.aadLen g.aad g.aadLen s = (some l, u) ∧ 0 < g.len ∧
        engReadBytes false g.master f (min 16 g.len) g.src (min 16 g.len) u = (none, v))) →
    Completes (.jobSegmentEnd f none) s fun t => t.ctl.cip.seg = none ∧ t.ctl.on F.CIP_JOB_STAT_BUSY = false ∧ t.ctl.get F.CIP_JOB_STAT_RESULT = 7 ∧
      t.ctl.on F.CIP_JOB_STAT_UNTRUSTED = (g.ctx.op == 1 || (g.ctx.op == 2 && g.ctx.flagged)) ∧ t.mem = v.mem ∧ t.xc = v.xc) ∧
  (∀ (g : Segment) (l : List Byte) (u s : State), s.ctl.live = true → s.ctl.cip.seg = some g → g.last = false → g.len = 0 →
    engReadBytes false g.master [] g.aadLen g.aad g.aadLen s = (some l, u) →
    Completes (.jobSegmentEnd [] none) s fun t => t.ctl.cip.seg = none ∧ t.ctl.on F.CIP_JOB_STAT_BUSY = false ∧ t.mem = u.mem ∧
      t.ctl.get F.CIP_JOB_STAT_RESULT = u.ctl.get F.CIP_JOB_STAT_RESULT ∧
      ∃ j, tfind t.ctl.cip.susp g.master = some j ∧ j.aadLen = g.ctx.aadLen + g.aadLen ∧ j.dataLen = g.ctx.dataLen ∧ j.iv = g.ctx.iv ∧ j.key = g.ctx.key) ∧
  (∀ (f : List ParityFault) (d : Nat) (g : Segment) (s : State), s.ctl.live = true → s.ctl.cip.seg = some g →
    Completes (.jobSegmentEnd f (some d)) s fun t => t.ctl.cip.seg = none ∧ t.ctl.get F.CIP_JOB_STAT_RESULT = 8 ∧ t.ctl.on F.CIP_STAT_LOCKED = true ∧
      t.ctl.evBit 0x040 1 = true)

/-- Outside reset, where the master may make the access: KEY_LOAD of a slot above 46 gives RESULT 5, of one whose policy does not let the master load now
2, at the last epoch 4, of a seal slot under an epoch that is not greater 3, each with event 6 and nothing else but CIP_KEY_STAT; an accepted one
stages the key with its epoch, stores epoch and reservation in the life record, and zeroes the key words, with the first mask of a sealed lane
requested. KEY_ZEROISE, refused alike, removes a slot's keys and discards the jobs suspended on it with event 5. SLOT_POLICY_WRITE acts in COMMISSION
alone. SEAL_KEY_EFFECT at the multiframe boundary puts a staged seal key in force with counter 1 and keeps the old one with its S_last, until
PREV_KEY_EXPIRE erases it. ENGINE_RESET by a core or the host with its key ends what runs and is suspended, with UNTRUSTED where that output must not
be used, and starts the known-answer test; KAT_DONE ends it, with LOCKED and event 2 when it fails. Its clauses keep the model's own choices of log
entries 5, 12, 36, 58, 59, 60, 71. (14_cipher.md: Key slots (R394 to R398); 14_cipher.md: IVs (R400, R401); 14_cipher.md: Fault checks and engine
reset (R405); 14_cipher.md: The overhead sealer (R411); 17_host_and_registers.md: Register access (R480); 15_cores_and_memory.md: The bus matrix
(R530)) -/
def Obligations.KeysAndReset : Prop :=
  (∀ (m i : Nat) (v : Word) (s : State), s.ctl.live = true → m < 5 → s.ctl.MayReg m R.CIP_KEY_CTL true → s.ctl.get F.CIP_KEY_SEL_SLOT = i →
    (46 < i → Completes (.keyLoad m v) s (s.KeyRefused 5 i)) ∧
    (i ≤ 46 → (s.ctl.loadMode i = false ∨ s.ctl.onBit (F.CIP_SLOT_POL_LOAD i) m = false) → Completes (.keyLoad m v) s (s.KeyRefused 2 i)) ∧
    (i ≤ 46 → s.ctl.loadMode i = true → s.ctl.onBit (F.CIP_SLOT_POL_LOAD i) m = true →
      ((s.ctl.slot i).epoch = 0xFFFFFF → Completes (.keyLoad m v) s (fun t => s.KeyRefused 4 i t ∧ t.ctl.evBit 0x040 3 = true)) ∧
      ((s.ctl.slot i).epoch < 0xFFFFFF → i < 24 → wGet v 23 0 ≤ (s.ctl.slot i).epoch → Completes (.keyLoad m v) s (s.KeyRefused 3 i)) ∧
      ((s.ctl.slot i).epoch < 0xFFFFFF → (i < 24 → (s.ctl.slot i).epoch < wGet v 23 0) →
        Completes (.keyLoad m v) s (s.KeyLoaded i (if i < 24 then wGet v 23 0 else (s.ctl.slot i).epoch + 1) (decide (i < 24) && bit v.toNat 28)
          (s.ctl.keyWordBytes (bit v.toNat 29)))))) ∧
  (∀ (m d i : Nat) (s : State), s.ctl.live = true → m < 5 → s.ctl.MayReg m R.CIP_KEY_CTL true → s.ctl.get F.CIP_KEY_SEL_SLOT = i →
    (46 < i → Completes (.keyZeroise m d) s (s.KeyRefused 5 i)) ∧
    (i ≤ 46 → s.ctl.onBit (F.CIP_SLOT_POL_LOAD i) m = false → Completes (.keyZeroise m d) s (s.KeyRefused 2 i)) ∧
    (i ≤ 46 → s.ctl.onBit (F.CIP_SLOT_POL_LOAD i) m = true → (∀ g, s.ctl.cip.seg = some g → g.ctx.slot ≠ i) →
      Completes (.keyZeroise m d) s (fun t => s.DataKept t ∧ t.ctl.slot i = { s.ctl.slot i with key := none, staged := none, prev := none } ∧
        (∀ j, j ≠ i → t.ctl.slot j = s.ctl.slot j) ∧ t.ctl.cip.seg = s.ctl.cip.seg ∧ t.ctl.get F.CIP_KEY_STAT_RESULT = 1 ∧
        t.ctl.evBit 0x040 5 = true ∧ t.ctl.cip.susp = s.ctl.cip.susp.filter (fun q => q.2.slot != i) ∧
        t.ctl.get F.CIP_CNT_ABORT_JOBS = min (2 ^ 32 - 1) (s.ctl.get F.CIP_CNT_ABORT_JOBS + (s.ctl.cip.susp.filter fun q => q.2.slot == i).length)))) ∧
  (∀ (i : Nat) (v : Word) (s : State), s.ctl.live = true → i < 47 → s.ctl.mode = .commission →
    Completes (.slotPolicyWrite i v) s fun t => s.IsRegs [R.CIP_SLOT_POL i] t ∧ t.ctl.get (F.CIP_SLOT_POL_MODE i) = wGet v 31 30 ∧
      t.ctl.get (F.CIP_SLOT_POL_LOAD i) = wGet v 20 16 ∧ t.ctl.get (F.CIP_SLOT_POL_USE i) = if 24 ≤ i then wGet v 6 0 else 0) ∧
  (∀ (i : Nat) (v : Word) (s : State), (47 ≤ i ∨ s.ctl.mode ≠ .commission) → Gives (.slotPolicyWrite i v) s s) ∧
  (∀ (n : Nat) (v : KeyVal) (s : State), s.ctl.timed = true → n < 24 → s.ctl.mfEdge = true → (s.ctl.slot n).staged = some v →
    Completes (.sealKeyEffect n) s fun t => s.DataKept t ∧ t.ctl.slot n = { s.ctl.slot n with
        key := some v, staged := none, prev := (s.ctl.slot n).key.map (fun o => (o, (s.ctl.loh n).sLast)), ctr := 1, resv := 65536, exhausted := false } ∧
      t.ctl.loh n = { s.ctl.loh n with sLast := none } ∧ ∀ j, j ≠ n → t.ctl.slot j = s.ctl.slot j ∧ t.ctl.loh j = s.ctl.loh j) ∧
  (∀ (n : Nat) (s : State), ((s.ctl.slot n).staged = none ∨ s.ctl.mfEdge = false) → Gives (.sealKeyEffect n) s s) ∧
  (∀ (n : Nat) (s : State), s.ctl.timed = true → n < 24 → Gives (.prevKeyExpire n) s { s with
    ctl := (s.ctl.setSlot n { s.ctl.slot n with prev := none }).slrDrop (fun j => j.lane == n && j.kind == 2) }) ∧
  (∀ (m d : Nat) (v : Word) (s : State), s.ctl.live = true → (m < 5 → s.ctl.MayReg m R.CIP_RESET true) →
    (5 ≤ m → Completes (.engineReset m v d) s (State.Refused m (0x20000000 + R.CIP_RESET) 3 [] [] s)) ∧
    (m < 5 → (wGet v 31 16 ≠ 0xC1F0 ∨ bit v.toNat 0 = false) → Gives (.engineReset m v d) s s) ∧
    (m < 5 → wGet v 31 16 = 0xC1F0 → bit v.toNat 0 = true → s.ctl.cip.seg = none → s.ctl.latch.slrWaiting = false →
      Completes (.engineReset m v d) s (fun t => State.IsRegs [R.CIP_STAT, R.CIP_CNT_ABORT, R.CIP_JOB_STAT] { s with ctl := { s.ctl with
        cip := { s.ctl.cip with susp := [] }, latch := { s.ctl.latch with holder := none } } } t ∧ t.ctl.on F.CIP_STAT_KAT_BUSY = true ∧
        t.ctl.on F.CIP_STAT_LOCKED = s.ctl.on F.CIP_STAT_LOCKED ∧
        t.ctl.on F.CIP_JOB_STAT_UNTRUSTED = (s.ctl.cip.susp.any (fun q => q.2.untrusted) || s.ctl.on F.CIP_JOB_STAT_UNTRUSTED)))) ∧
  (∀ s : State, s.ctl.live = true → s.ctl.on F.CIP_STAT_KAT_BUSY = true →
    Completes (.katDone true) s (fun t => s.IsRegs [R.CIP_STAT] t ∧ t.ctl.on F.CIP_STAT_KAT_BUSY = false ∧ t.ctl.on F.CIP_STAT_LOCKED = false ∧
      t.ctl.on F.CIP_STAT_KAT_FAIL = false) ∧
    Completes (.katDone false) s (fun t => s.IsBut [0x040, 0x041] [R.CIP_STAT] t ∧ t.ctl.on F.CIP_STAT_KAT_BUSY = false ∧
      t.ctl.on F.CIP_STAT_LOCKED = true ∧ t.ctl.on F.CIP_STAT_KAT_FAIL = true ∧ t.ctl.evBit 0x040 2 = true)) ∧
  (∀ (p : Bool) (s : State), s.ctl.on F.CIP_STAT_KAT_BUSY = false → Gives (.katDone p) s s)

/-! ### Memories, matrix and mailboxes -/

/-- Outside reset: DMA_GO is refused with CAUSE 3 for a master that reaches no registers and with CAUSE 1 for a busy engine; with LEN 0, LEN above
16,777,216 or ranges that overlap it ends with RESULT 2, no byte done and the engine's error event; and otherwise it sets BUSY. DMA_END of a running
copy ends it with RESULT 1 and every byte done, or with RESULT 3 and fewer; between two ranges of the scratchpad that do not overlap, with no parity
failure, it copies the bytes, which ends the cores' reservations on them, and DMA_ABORT copies as far as the bytes done and ends with RESULT 4.
Without a running copy both do nothing. CASE_CFG_WRITE of an enabled window changes EN alone; of a disabled one it stores SIZE and BASE, and EN only
when the window is legal. A wait above LIMIT is a starvation, counted for its bank and shown with event 0; the alarm ends 1 s after the last one.
CORE_TIMER_INTERRUPT ends a core's WFI once MTIME has reached MTIMECMP, and a core that runs with the interrupt enabled takes it, an external one
first. A line fails its parity exactly when it was left poisoned. A row that is a master's access does nothing where the master issues none, and gives
a core its exception where it is misaligned or not permitted. Of a core: mhartid is its number; machine mode reads back what it writes; a locked PMP
entry keeps its words; user mode writes none; MRET undoes a trap; the words of ADD, ECALL, MRET and WFI have their effects, and MRET in user mode is
illegal. MEM_READY sets READY for 4 GB or 8 GB, and CAP_BAD otherwise; MR4_UPDATE stores the rate, with event 2 for a code above 3. DT_CLEAR zeroes
the records of the default target. Its clauses keep the model's own choices of log entries 9, 12, 15, 37, 61, 63, 65, 66. (15_cores_and_memory.md: The
cores (R416 to R419); 15_cores_and_memory.md: Scratchpad banks (R426); 15_cores_and_memory.md: Casement windows (R427); 15_cores_and_memory.md: DMA
engines (R430, R431); 15_cores_and_memory.md: LPDDR4X controller (R432); 15_cores_and_memory.md: SPM page; 15_cores_and_memory.md: MEM page;
17_host_and_registers.md: Register access (R480); 15_cores_and_memory.md: The bus matrix (R530)) -/
def Obligations.MatrixDevices : Prop :=
  (∀ (m k : Nat) (s : State), s.ctl.live = true → 5 ≤ m → Completes (.dmaGo m k) s (State.Refused m (0x20000000 + R.DMA_CTL k) 3 [] [] s)) ∧
  (∀ (m k : Nat) (s : State), s.ctl.live = true → m < 5 → s.ctl.MayReg m (R.DMA_CTL k) true → k < 2 →
    (s.ctl.on (F.DMA_STAT_BUSY k) = true → Completes (.dmaGo m k) s (State.Refused m (0x20000000 + R.DMA_CTL k) 1 [] [] s)) ∧
    (∀ src dst len, s.ctl.on (F.DMA_STAT_BUSY k) = false → s.ctl.get (F.DMA_SRC_VALUE k) = src → s.ctl.get (F.DMA_DST_VALUE k) = dst →
      s.ctl.get (F.DMA_LEN_VALUE k) = len →
      ((len = 0 ∨ 16777216 < len ∨ (src < dst + len ∧ dst < src + len)) →
        Completes (.dmaGo m k) s (fun t => s.IsBut [0x04B] [R.DMA_STAT k, R.DMA_DONE k] t ∧ t.ctl.on (F.DMA_STAT_BUSY k) = false ∧
          t.ctl.get (F.DMA_STAT_RESULT k) = 2 ∧ t.ctl.get (F.DMA_DONE_VALUE k) = 0 ∧ t.ctl.evBit 0x04B (3 + k) = true)) ∧
      (0 < len → len ≤ 16777216 → (dst + len ≤ src ∨ src + len ≤ dst) →
        Completes (.dmaGo m k) s (fun t => s.IsRegs [R.DMA_STAT k, R.DMA_DONE k] t ∧ t.ctl.on (F.DMA_STAT_BUSY k) = true ∧
          t.ctl.get (F.DMA_STAT_RESULT k) = 0 ∧ t.ctl.get (F.DMA_DONE_VALUE k) = 0)))) ∧
  (∀ (k : Nat) (fs : List ParityFault) (s : State), s.ctl.live = true → k < 2 → s.ctl.on (F.DMA_STAT_BUSY k) = true →
    Completes (.dmaEnd k fs) s fun t => t.pending = s.pending ∧ t.ctl.on (F.DMA_STAT_BUSY k) = false ∧
      (t.ctl.get (F.DMA_STAT_RESULT k) = 1 ∧ t.ctl.get (F.DMA_DONE_VALUE k) = min 16777216 (s.ctl.get (F.DMA_LEN_VALUE k)) ∧ t.ctl.evBit 0x04B (1 + k) = true ∨
       t.ctl.get (F.DMA_STAT_RESULT k) = 3 ∧ t.ctl.get (F.DMA_DONE_VALUE k) < min 16777216 (s.ctl.get (F.DMA_LEN_VALUE k)) ∧ t.ctl.evBit 0x04B (3 + k) = true)) ∧
  (∀ (k n a b len : Nat) (s : State), s.MemCanonical → s.ctl.live = true → k < 2 → s.ctl.on (F.DMA_STAT_BUSY k) = true →
    s.ctl.get (F.DMA_SRC_VALUE k) = 0x10000000 + a → s.ctl.get (F.DMA_DST_VALUE k) = 0x10000000 + b → s.ctl.get (F.DMA_LEN_VALUE k) = len →
    a + len ≤ 0x400000 → b + len ≤ 0x400000 → (a + len ≤ b ∨ b + len ≤ a) →
    Completes (.dmaEnd k []) s (fun t => (∃ hs, State.IsBut [0x04B] [R.DMA_STAT k, R.DMA_DONE k] { s with
        mem := s.mem.spadWrite b (tbytes s.mem.spad a len), ctl := { s.ctl with harts := hs } } t) ∧ s.ctl.ResvBroken (0x10000000 + b) len t.ctl ∧
      t.ctl.get (F.DMA_STAT_RESULT k) = 1 ∧ t.ctl.get (F.DMA_DONE_VALUE k) = len) ∧
    Completes (.dmaAbort k n []) s (fun t => (∃ hs, State.IsBut [0x04B] [R.DMA_STAT k, R.DMA_DONE k] { s with
        mem := s.mem.spadWrite b (tbytes s.mem.spad a (min n len)), ctl := { s.ctl with harts := hs } } t) ∧
      s.ctl.ResvBroken (0x10000000 + b) (min n len) t.ctl ∧ t.ctl.on (F.DMA_STAT_BUSY k) = false ∧ t.ctl.get (F.DMA_STAT_RESULT k) = 4 ∧ t.ctl.get (F.DMA_DONE_VALUE k) = min n len)) ∧
  (∀ (k n : Nat) (fs : List ParityFault) (s : State), (2 ≤ k ∨ s.ctl.on (F.DMA_STAT_BUSY k) = false) → Gives (.dmaEnd k fs) s s ∧ Gives (.dmaAbort k n fs) s s) ∧
  (∀ (w : Nat) (v : Word) (s : State), s.ctl.live = true → w < 16 →
    (s.ctl.on (F.SPM_CASE_CFG_EN w) = true → Completes (.caseCfgWrite w v) s (fun t => s.IsRegs [R.SPM_CASE_CFG w] t ∧
      t.ctl.on (F.SPM_CASE_CFG_EN w) = bit v.toNat 31 ∧ t.ctl.get (F.SPM_CASE_CFG_SIZE w) = s.ctl.get (F.SPM_CASE_CFG_SIZE w) ∧
      t.ctl.get (F.SPM_CASE_CFG_BASE w) = s.ctl.get (F.SPM_CASE_CFG_BASE w))) ∧
    (s.ctl.on (F.SPM_CASE_CFG_EN w) = false → Completes (.caseCfgWrite w v) s (fun t => s.IsRegs [R.SPM_CASE_CFG w] t ∧
      t.ctl.get (F.SPM_CASE_CFG_SIZE w) = wGet v 26 16 ∧ t.ctl.get (F.SPM_CASE_CFG_BASE w) = wGet v 15 0 ∧
      t.ctl.on (F.SPM_CASE_CFG_EN w) = (bit v.toNat 31 && decide (1 ≤ wGet v 26 16 ∧ wGet v 26 16 ≤ 1024 ∧
        (wGet v 15 0 + wGet v 26 16) * 64 ≤ 0x400000))))) ∧
  (∀ (m b w k : Nat) (c : Ctl) (s : State), s.ctl.live = true → s.ctl.advTo k = c →
    (m < 12 → b < 16 → max 1 (c.get F.SPM_STARVE_CFG_LIMIT) < w →
      Completes (.dmaStarve m b w k) s (fun t => State.IsBut [0x049] [R.SPM_STARVE_CNT b, R.SPM_STARVE_LAST] { s with
        ctl := { c with starvedAt := some c.mtime } } t ∧ t.ctl.evBit 0x049 0 = true ∧
        t.ctl.get (F.SPM_STARVE_CNT_COUNT b) = min (2 ^ 32 - 1) (s.ctl.get (F.SPM_STARVE_CNT_COUNT b) + 1) ∧
        t.ctl.on F.SPM_STARVE_LAST_VALID = true ∧ t.ctl.get F.SPM_STARVE_LAST_MASTER = m ∧ t.ctl.get F.SPM_STARVE_LAST_BANK = b ∧
        t.ctl.get F.SPM_STARVE_LAST_WAIT = min 65535 w)) ∧
    (w ≤ max 1 (c.get F.SPM_STARVE_CFG_LIMIT) → Gives (.dmaStarve m b w k) s { s with ctl := c })) ∧
  (∀ (k a : Nat) (c : Ctl) (s : State), s.ctl.timed = true → s.ctl.advTo k = c → c.starvedAt = some a →
    (204800000 ≤ c.mtime - a → Gives (.starvationWindowLapse k) s { s with ctl := { c with starvedAt := none } }) ∧
    (c.mtime - a < 204800000 → Gives (.starvationWindowLapse k) s { s with ctl := c })) ∧
  (∀ (n k : Nat) (c : Ctl) (s : State), s.ctl.timed = true → n < 4 → s.ctl.advTo k = c →
    (0 ≤ sdiff 64 c.mtime (c.mtimecmp n) → (c.coreRuns n = false ∨ ((c.hart n).mie = false ∧ (c.hart n).user = false) ∨ (c.hart n).mieReg = 0) →
      Gives (.coreTimerInterrupt n k) s { s with ctl := { c with coreWfi := putBit c.coreWfi n false } }) ∧
    (∀ x, 0 ≤ sdiff 64 c.mtime (c.mtimecmp n) → c.coreRuns n = true → ((c.hart n).mie = true ∨ (c.hart n).user = true) →
      (bit (c.hart n).mieReg 11 = true ∧ c.extPending n = true ∧ x = 11 ∨
        bit (c.hart n).mieReg 7 = true ∧ (bit (c.hart n).mieReg 11 = false ∨ c.extPending n = false) ∧ x = 7) →
      Completes (.coreTimerInterrupt n k) s fun t =>
        (∃ hs f, State.Is { s with ctl := { c with coreWfi := putBit c.coreWfi n false, harts := hs, free := f } } t) ∧
        (∀ j, j ≠ n → t.ctl.hart j = c.hart j) ∧
        ∃ pc, t.ctl.hart n = (c.hart n).trap (2 ^ 31 + x) pc 0 (if (c.hart n).mtvec % 2 = 1 then 4 * x else 0)) ∧
    (sdiff 64 c.mtime (c.mtimecmp n) < 0 → Gives (.coreTimerInterrupt n k) s { s with ctl := c })) ∧
  (∀ (g : Nat) (s : State), s.ctl.timed = true → s.ctl.on F.MEM_STAT_READY = false → s.ctl.on F.MEM_STAT_CAP_BAD = false →
    ((g = 1 ∨ g = 2) → Completes (.memReady g) s (fun t => s.IsRegs [R.MEM_STAT] t ∧ t.ctl.on F.MEM_STAT_READY = true ∧ t.ctl.get F.MEM_STAT_CAP = g)) ∧
    (g ≠ 1 → g ≠ 2 → Completes (.memReady g) s (fun t => s.IsBut [0x04C] [R.MEM_STAT] t ∧ t.ctl.on F.MEM_STAT_READY = false ∧
      t.ctl.on F.MEM_STAT_CAP_BAD = true ∧ t.ctl.evBit 0x04C 3 = true))) ∧
  (∀ (r : Nat) (s : State), s.ctl.timed = true → s.ctl.on F.MEM_STAT_READY = true →
    Completes (.mr4Update r) s fun t => s.IsBut [0x04C] [R.MEM_STAT] t ∧ t.ctl.on F.MEM_STAT_READY = true ∧
      t.ctl.get F.MEM_STAT_CAP = s.ctl.get F.MEM_STAT_CAP ∧ t.ctl.get F.MEM_STAT_MR4_RATE = r % 8 ∧ (3 < r % 8 → t.ctl.evBit 0x04C 2 = true)) ∧
  (∀ (r : Nat) (s : State), s.ctl.on F.MEM_STAT_READY = false → Gives (.mr4Update r) s s) ∧
  (∀ (m : Mem) (i : Nat), m.parityFails i = m.poison.contains i) ∧
  (∀ (n v : Nat) (c : Ctl), c.csr n 0xF14 = some n ∧ c.csr n 0xC01 = some (c.mtime % 2 ^ 32) ∧ c.csr n 0xC81 = some (c.mtime / 2 ^ 32) ∧
    c.csr n 0x344 = some (b2n (decide (0 ≤ sdiff 64 c.mtime (c.mtimecmp n))) * 2 ^ 7 + b2n (c.on (F.EVT_CORE_PEND_PEND n)) * 2 ^ 11) ∧
    ((c.hart n).user = true → ∀ a, c.csrWrite n a v = c) ∧
    ((c.hart n).user = false → (∀ a ∈ [0x340, 0x342, 0x343], (c.csrWrite n a v).csr n a = some v) ∧
      (c.csrWrite n 0x305 v).csr n 0x305 = some (v &&& 0xFFFFFFFD) ∧ (c.csrWrite n 0x341 v).csr n 0x341 = some (v &&& 0xFFFFFFFE) ∧
      (c.csrWrite n 0x304 v).csr n 0x304 = some (v &&& 0x880) ∧ (v < 2 ^ 32 → (c.csrWrite n 0xB00 v).csr n 0xB00 = some v)) ∧
    (∀ i, i < 16 → (c.hart n).pmpLocked i = true → ((c.csrWrite n (0x3B0 + i) v).hart n).pmpAddr i = (c.hart n).pmpAddr i ∧
      ((c.csrWrite n (0x3A0 + i / 4) v).hart n).pmpByte i = (c.hart n).pmpByte i) ∧
    (∀ i, i < 16 → (c.hart n).user = false → (c.hart n).pmpLocked i = false → (∀ j, (c.hart n).pmpLocked j = false) →
      ((c.csrWrite n (0x3B0 + i) v).hart n).pmpAddr i = v)) ∧
  (∀ (h : Hart) (x e v o : Nat), (h.trap x e v o).mret = { h.trap x e v o with
    user := h.user, mie := h.mie, mpie := true, mppUser := true, mprv := h.mprv && !h.user, pc := e }) ∧
  (∀ (h : Hart) (u : PmpUse) (a z : Nat), (∀ i, h.pmpByte i = 0) → (h.mprv = false ∨ u = .fetch) → h.pmpPermits u a z = !h.user) ∧
  (∀ (i : Instr) (m a z : Nat) (w : Bool) (s : State), s.ctl.timed = true → accessOf i = some (m, a, z, w) →
    (s.ctl.issues m = false → Gives i s s) ∧
    (∀ x, m < 4 → s.ctl.issues m = true → bit s.ctl.coreWfi m = false →
      ((z ≤ 4 ∧ a % max 1 z ≠ 0 ∧ x = if w then 6 else 4) ∨ ((z ≤ 4 → a % max 1 z = 0) ∧
        (s.ctl.hart m).pmpPermits (if w then .store else .load) a z = false ∧ x = if w then 7 else 5)) →
      Completes i s fun t => (∃ hs f, State.Is { s with ctl := { s.ctl with harts := hs, free := f } } t) ∧
        (∀ j, j ≠ m → t.ctl.hart j = s.ctl.hart j) ∧ ∃ pc, t.ctl.hart m = (s.ctl.hart m).trap x pc (a % 2 ^ 32) 0)) ∧
  (∀ (n : Nat) (c : Ctl) (h : Hart), c.hart n = h →
    c.coreInstr n 0x002081B3 = (true, c.setHart n ({ h with pc := (BitVec.ofNat 32 h.pc + 4).toNat }.putX 3 (h.x 1 + h.x 2))) ∧
    c.coreInstr n 0x00000073 = (false, c.setHart n (h.trap (if h.user then 8 else 11) h.pc 0 0)) ∧
    (h.user = false → c.coreInstr n 0x30200073 = (true, c.setHart n h.mret)) ∧
    (h.user = true → ∃ f v, c.coreInstr n 0x30200073 = (false, { c with free := f }.setHart n (h.trap 2 h.pc v 0))) ∧
    (h.user = false → (c.coreInstr n 0x10500073).1 = true ∧
      (c.coreInstr n 0x10500073).2.coreWfi = if c.timerPending n || c.extPending n then c.coreWfi else putBit c.coreWfi n true)) ∧
  (∀ s : State, s.ctl.live = true → Completes .dtClear s fun t => s.IsRegs dtRegs t ∧ ∀ a ∈ dtRegs, t.ctl.reg a = 0)

/-- Outside reset, where the master may make the access: one to a channel that does not exist is refused with CAUSE 0, to one that is not validly bound
with 1, and by a master that is no endpoint with 3, as is any by a master that may not access registers; it changes nothing. For an endpoint: MBX_SEND
fills its outbound slot and clears its ACK, and is refused with CAUSE 1 while the slot is FULL; when both slots are then FULL, event 0 of the MBX page
is raised. MBX_TAKE of a FULL inbound slot empties it and sets its ACK, and of an empty one changes nothing. MBX_CLR_ACK clears the ACK of its
outbound slot. MBX_DATA_WRITE stores a word of its outbound slot, and is refused with CAUSE 1 while the slot is FULL. Nothing else changes: not the
other slot's flags, nor another word or channel. Its clauses keep the model's own choices of log entries 12, 64. (15_cores_and_memory.md: Mailboxes
(R437 to R440, Table 15.2); 17_host_and_registers.md: Register access (R480); 15_cores_and_memory.md: The bus matrix (R530)) -/
def Obligations.Mailboxes : Prop :=
  (∀ (m i : Nat) (v : Word) (s : State), s.ctl.live = true →
    (5 ≤ m → (∀ q ∈ [Instr.mbxSend m i, .mbxTake m i, .mbxClrAck m i], Completes q s (State.Refused m (0x20000000 + R.MBX_CH i) 3 [] [] s)) ∧
      ∀ w, Completes (.mbxDataWrite m i w v) s (State.Refused m (0x20000000 + R.MBX_DATA i w) 3 [] [] s)) ∧
    (∀ e, m < 5 → (32 ≤ i ∧ e = 0 ∨ i < 32 ∧ ¬ s.ctl.Bound i ∧ e = 1 ∨ i < 32 ∧ s.ctl.Bound i ∧ ¬ s.ctl.EndpointOf m i ∧ e = 3) →
      (s.ctl.MayReg m (R.MBX_CH i) true → ∀ q ∈ [Instr.mbxSend m i, .mbxTake m i, .mbxClrAck m i],
        Completes q s (State.Refused m (0x20000000 + R.MBX_CH i) e [] [] s)) ∧
      ∀ w, w < 16 → s.ctl.MayReg m (R.MBX_DATA i w) true → Completes (.mbxDataWrite m i w v) s (State.Refused m (0x20000000 + R.MBX_DATA i w) e [] [] s))) ∧
  (∀ (m i : Nat) (isA : Bool) (b : Mailbox) (s : State), s.ctl.live = true → m < 5 → i < 32 → s.ctl.Bound i → s.ctl.EndpointOf m i →
    s.ctl.MayReg m (R.MBX_CH i) true → s.ctl.mbxCh i = b →
    decide (m = s.ctl.get (F.MBX_BIND_A i)) = isA →
    ((if isA then b.full0 else b.full1) = true → Completes (.mbxSend m i) s (State.Refused m (0x20000000 + R.MBX_CH i) 1 [] [] s)) ∧
    ((if isA then b.full0 else b.full1) = false → Completes (.mbxSend m i) s (fun t =>
      (∃ q, State.IsBut [0x04A] [] { s with ctl := { s.ctl with mbx := q, answer := .data 0 } } t) ∧
      t.ctl.mbxCh i = (if isA then { b with full0 := true, ack0 := false } else { b with full1 := true, ack1 := false }) ∧
      (∀ j, j ≠ i → t.ctl.mbxCh j = s.ctl.mbxCh j) ∧ ((if isA then b.full1 else b.full0) = true → t.ctl.evBit 0x04A 0 = true))) ∧
    Completes (.mbxTake m i) s (fun t => (∃ q, State.Is { s with ctl := { s.ctl with mbx := q, answer := .data 0 } } t) ∧
      (∀ j, j ≠ i → t.ctl.mbxCh j = s.ctl.mbxCh j) ∧
      t.ctl.mbxCh i = (if (if isA then b.full1 else b.full0) = false then b else if isA then { b with full1 := false, ack1 := true }
        else { b with full0 := false, ack0 := true })) ∧
    Completes (.mbxClrAck m i) s (fun t => (∃ q, State.Is { s with ctl := { s.ctl with mbx := q, answer := .data 0 } } t) ∧
      (∀ j, j ≠ i → t.ctl.mbxCh j = s.ctl.mbxCh j) ∧ t.ctl.mbxCh i = if isA then { b with ack0 := false } else { b with ack1 := false }) ∧
    (∀ (w : Nat) (v : Word), w < 16 → s.ctl.MayReg m (R.MBX_DATA i w) true →
      ((if isA then b.full0 else b.full1) = true →
        Completes (.mbxDataWrite m i w v) s (State.Refused m (0x20000000 + R.MBX_DATA i w) 1 [] [] s)) ∧
      ((if isA then b.full0 else b.full1) = false → twf b.words 0 = true → Completes (.mbxDataWrite m i w v) s (fun t =>
        (∃ q, State.Is { s with ctl := { s.ctl with mbx := q, answer := .data 0 } } t) ∧ (∀ j, j ≠ i → t.ctl.mbxCh j = s.ctl.mbxCh j) ∧
        (∃ l, t.ctl.mbxCh i = { b with words := l } ∧ ∀ k, tget l k 0 = if k = (if isA then 0 else 16) + w then v else tget b.words k 0)))))

/-! ### Performance data -/

/-- While system timing runs: PM_SECOND_END, once S has reached another whole second, adds a second with what each contributing lane saw and starts the
next from the present state of the lanes. PM_SECOND_COMMIT does nothing until ten seconds have ended; then the oldest leaves, each of its lanes
settles its near-end availability over the ten, and the second is counted in the 15-minute bin that contains it. PM_BIN_END, once S has reached
another multiple of a period, opens a new bin there, makes the closed one the first of the history, zeroes the crossings and makes a switch-count bin
due. Outside reset: SWITCH_BIN_COPY of the oldest bin due with EN 1 copies the region into its slot of the LPDDR4X log, as far as the memory can be
reached, with the default target's event for what is beyond it or beyond the scratchpad, zeroes it, and shows the bin. PMC_WRITE of LO sets all 48
bits with the HI held, and WCOLL when the discarded count would have carried; an overflow that came before it is recorded. PMC_FREEZE stops the global
counters. PMC_OVERFLOW of a counter that has carried wraps it, sets OVF, and raises event 0 of the PMC page when OVF was 0; of another it does
nothing. Its clauses keep the model's own choices of log entries 37, 63, 67, 68, 70. (16_monitoring.md: Line performance monitoring (R447 to R454);
16_monitoring.md: Performance counters (R456, R457)) -/
def Obligations.SecondsBinsAndCounters : Prop :=
  (∀ (k : Nat) (c : Ctl) (s : State), s.ctl.timed = true → s.ctl.advTo k = c → c.pmWholeSec = c.pm.sec → Gives (.pmSecondEnd k) s { s with ctl := c }) ∧
  (∀ (k : Nat) (c : Ctl) (s : State), s.ctl.timed = true → s.ctl.advTo k = c → c.pmWholeSec ≠ c.pm.sec →
    Completes (.pmSecondEnd k) s fun t => ∃ acc rows, State.Is { s with ctl := { c with
        pmAcc := acc, pm := { c.pm with frames := 0, sec := c.pmWholeSec, pend := c.pm.pend ++ [⟨(c.pm.cur false).num, (c.pm.cur true).num, c.pm.frames, rows⟩] } } } t ∧
      ∀ n, n < 24 →
        tfind rows n = (if (tget c.pmAcc n {}).off = true ∨ c.rxEnabled n = false then none else some (tget c.pmAcc n {})) ∧
        tget acc n {} = { neDef := decide (1 ≤ (c.lrx n).top ∧ (c.lrx n).top ≤ 8), feDef := decide ((c.lrx n).top = 10)
                          los := (c.lrx n).los, off := !c.rxEnabled n }) ∧
  (∀ (p : PmSecond) (l : List PmSecond) (s : State), s.ctl.pm.pend = p :: l → l.length < 9 → Gives .pmSecondCommit s s) ∧
  (∀ (p : PmSecond) (l : List PmSecond) (s : State), s.ctl.timed = true → s.ctl.pm.pend = p :: l → 9 ≤ l.length →
    twfFrom none p.rows = true → (∀ q ∈ p.rows, q.1 < 24) →
    Completes .pmSecondCommit s fun t => s.DataKept t ∧ t.ctl.pm.pend = l ∧
      (∀ a, eventReg [0x052] a = false → a ∉ R.LPM_UNAV_NE :: R.LPM_UNAV_FE :: (List.range 24).map R.LPM_TCA → t.ctl.reg a = s.ctl.reg a) ∧
      ∀ n, n < 24 →
        (tfind p.rows n = none → t.ctl.onBit F.LPM_UNAV_NE_LANES n = s.ctl.onBit F.LPM_UNAV_NE_LANES n ∧
          t.ctl.pm.bin p.q false n false = s.ctl.pm.bin p.q false n false) ∧
        ∀ a u, tfind p.rows n = some a → pmUnavail (s.ctl.onBit F.LPM_UNAV_NE_LANES n) (p :: l.take 9) n false = u →
          t.ctl.onBit F.LPM_UNAV_NE_LANES n = u ∧
          t.ctl.pm.bin p.q false n false = List.zipWith (fun x y => min (2 ^ 32 - 1) (x + y)) (s.ctl.pm.bin p.q false n false) (pmIncrement p a false u false)) ∧
  (∀ (k : Nat) (c : Ctl) (s : State), s.ctl.timed = true → pmSecondEnd k s.ctl = c →
    nsOf c.tb.sel / 900000000000 = (c.pm.cur false).start / 900000000000 → nsOf c.tb.sel / 86400000000000 = (c.pm.cur true).start / 86400000000000 →
    Gives (.pmBinEnd k) s { s with ctl := c }) ∧
  (∀ (k : Nat) (c : Ctl) (s : State), s.ctl.timed = true → pmSecondEnd k s.ctl = c →
    nsOf c.tb.sel / 900000000000 ≠ (c.pm.cur false).start / 900000000000 →
    (nsOf c.tb.sel / 86400000000000 = (c.pm.cur true).start / 86400000000000 →
    Completes (.pmBinEnd k) s (fun t => State.IsRegs ((List.range 24).map R.LPM_TCA) { s with ctl := { c with
        pm := t.ctl.pm, swbDue := c.swbDue ++ [c.pm.cur false] } } t ∧
      t.ctl.pm.q.head? = some ⟨(c.pm.cur false).num + 1, nsOf c.tb.sel / 900000000000 * 900000000000, c.fnN, c.tb.untimed, false⟩ ∧
      t.ctl.pm.q[1]? = some (c.pm.cur false) ∧ t.ctl.pm.d = c.pm.d ∧ t.ctl.pm.pend = c.pm.pend ∧
      ∀ n, n < 24 → t.ctl.get (F.LPM_TCA_Q n) = 0 ∧ t.ctl.get (F.LPM_TCA_DAY n) = s.ctl.get (F.LPM_TCA_DAY n))) ∧
    (nsOf c.tb.sel / 86400000000000 ≠ (c.pm.cur true).start / 86400000000000 → Completes (.pmBinEnd k) s (fun t => t.ctl.swbDue = c.swbDue ++ [c.pm.cur false] ∧
      t.ctl.pm.d.head? = some ⟨(c.pm.cur true).num + 1, nsOf c.tb.sel / 86400000000000 * 86400000000000, c.fnN, c.tb.untimed, false⟩ ∧
      t.ctl.pm.d[1]? = some (c.pm.cur true) ∧ t.ctl.pm.q[1]? = some (c.pm.cur false) ∧ ∀ n, n < 24 → t.ctl.get (F.LPM_TCA_DAY n) = 0))) ∧
  (∀ (fs : List ParityFault) (s : State), s.ctl.swbDue = [] → Gives (.switchBinCopy fs) s s) ∧
  (∀ (fs : List ParityFault) (h : PmHdr) (r : List PmHdr) (s : State), s.ctl.live = true → s.ctl.swbDue = h :: r →
    (s.ctl.on F.EVT_SWB_CFG_EN = false → Gives (.switchBinCopy fs) s { s with ctl := { s.ctl with swbDue := r } }) ∧
    (s.ctl.on F.EVT_SWB_CFG_EN = true → Completes (.switchBinCopy fs) s fun t => t.pending = s.pending ∧ t.xc = s.xc ∧ t.dp = s.dp ∧
      t.ctl.swbDue = r ∧ t.ctl.on F.EVT_SWB_STAT_VALID = true ∧ t.ctl.get F.EVT_SWB_STAT_BIN = h.num % 2 ^ 31 ∧
      (0x400000 < s.ctl.get F.EVT_SWB_CFG_BASE / 64 * 64 + 131136 → t.ctl.evBit 0x04B 0 = true))) ∧
  (∀ (h : PmHdr) (r : List PmHdr) (base a : Nat) (s : State), s.MemCanonical → s.ctl.live = true → s.ctl.swbDue = h :: r → s.ctl.swbLate = [] →
    s.ctl.on F.EVT_SWB_CFG_EN = true →
    s.ctl.get F.EVT_SWB_CFG_BASE / 64 * 64 = base → base + 131136 ≤ 0x400000 → s.ctl.get F.EVT_SWB_LOG_BASE * 2 ^ 20 + h.num % 32 * 0x21000 = a →
    Completes (.switchBinCopy []) s fun t => (∃ m, State.IsBut [0x04B] (R.EVT_SWB_STAT :: dtRegs) { s with mem := m, ctl := { s.ctl with swbDue := r } } t) ∧
      t.ctl.on F.EVT_SWB_STAT_VALID = true ∧ t.ctl.get F.EVT_SWB_STAT_BIN = h.num % 2 ^ 31 ∧
      (∀ x, tget t.mem.spad x 0 = if base ≤ x ∧ x < base + 131136 then 0 else tget s.mem.spad x 0) ∧
      (s.ctl.on F.MEM_STAT_READY = false ∨ a + 131200 ≤ s.ctl.ddrTop → ∀ x, x ≠ R.EVT_SWB_STAT → t.ctl.reg x = s.ctl.reg x) ∧
      (s.ctl.on F.MEM_STAT_READY = true → (a + 131200 ≤ s.ctl.ddrTop ∨ t.ctl.evBit 0x04B 0 = true) ∧
        (∀ x, x < 131136 → a + 64 + x < s.ctl.ddrTop → tget t.mem.ddr (a + 64 + x) 0 = tget s.mem.spad (base + x) 0) ∧
        ∀ y, (y < a ∨ a + 131200 ≤ y ∨ s.ctl.ddrTop ≤ y) → tget t.mem.ddr y 0 = tget s.mem.ddr y 0) ∧
      (s.ctl.on F.MEM_STAT_READY = false → t.mem.ddr = s.mem.ddr ∧ t.mem.poison = s.mem.poison)) ∧
  (∀ (k : Nat) (w : Word) (h : Bool) (p : PmcCounter) (s : State), s.ctl.live = true → k < 96 → s.ctl.pmcOf k = p → 2 ^ 48 ≤ p.val →
    Completes (.pmcWrite k w h) s fun t => s.IsBut [0x050] [] t ∧ (p.ovf = false → t.ctl.evBit 0x050 0 = true) ∧
      (t.ctl.pmcOf k).ovf = true) ∧
  (∀ (k : Nat) (w : Word) (h : Bool) (p : PmcCounter) (s : State), s.ctl.live = true → k < 96 → s.ctl.pmcOf k = p → p.val < 2 ^ 48 →
    Completes (.pmcWrite k w h) s fun t => s.Is t ∧ (∀ j, j ≠ k → t.ctl.pmcOf j = s.ctl.pmcOf j) ∧
      t.ctl.pmcOf k = { p with val := p.hiHeld * 2 ^ 32 + w.toNat, wcoll := p.wcoll || (h && decide (p.val = 2 ^ 48 - 1)) }) ∧
  (∀ (on : Bool) (s : State), s.ctl.live = true → Completes (.pmcFreeze on) s fun t => s.IsRegs [R.PMC_GCTL] t ∧ t.ctl.on F.PMC_GCTL_FREEZE = on) ∧
  (∀ (e n k : Nat) (c : Ctl), c.on F.PMC_GCTL_FREEZE = true → k < 64 → (c.occ e n).pmcOf k = c.pmcOf k) ∧
  (∀ (k : Nat) (p : PmcCounter) (s : State), s.ctl.live = true → s.ctl.pmcOf k = p → 2 ^ 48 ≤ p.val →
    (p.ovf = true → Completes (.pmcOverflow k) s (fun t => s.Is t ∧ (∀ j, j ≠ k → t.ctl.pmcOf j = s.ctl.pmcOf j) ∧
      t.ctl.pmcOf k = { p with val := p.val % 2 ^ 48 })) ∧
    (p.ovf = false → Completes (.pmcOverflow k) s (fun t => s.IsBut [0x050] [] t ∧ (t.ctl.pmcOf k).ovf = true ∧ t.ctl.evBit 0x050 0 = true))) ∧
  (∀ (k : Nat) (s : State), (s.ctl.pmcOf k).val < 2 ^ 48 → Gives (.pmcOverflow k) s s)

/-! ### Events -/

/-- Outside reset: HDR_EVT_CLEAR of a page clears the bits written and nothing else, and a bit whose event recurs in the same handshake stays set. A write
of HDR_EVT_EN that changes one bit stores it for a CRIT event; for another it claims RATE on the EVT account, fills the louvre, whose tokens then come
at RATE, and sets the bit, with a GAP record of suppressions, or, when the claim does not fit, changes nothing but the ledger's refusal; clearing it
releases the claim. A write of EVT_LV_CFG claims or releases the difference of RATE for every enabled bit below CRIT, and a refused claim leaves it.
LOUVRE_TOKEN of a token due by the end of the present frame gives it up to BURST; after suppressions it forms a GAP record of the page and event and
starts the count again. SUMMARY_RECORD closes a window of 10 ms with a SUMMARY record. Both go to the notify ring's queue while it has room, with the
next SEQ. SWITCH_RECORD_FORM takes the next pending group, forms a SWITCH record for the log alone and counts its folds in the bin's region while EN
is 1, once no earlier bin waits for its copy; its lane's window keeps the earliest and the latest switch. Without anything due the last three do
nothing. Its clauses keep the model's own choices of log entries 5, 44, 63, 67, 69. (00_scope.md: Notation and conventions (R12); 16_monitoring.md:
Events (R461, R465); 17_host_and_registers.md: The common page header (R477)) -/
def Obligations.EventBitsAndLouvres : Prop :=
  (∀ (p : Nat) (m : Word) (s : State), s.ctl.live = true → (pageBlock p).isSome = true →
    Completes (.hdrEvtClear p m 0) s fun t => s.IsRegs [R.HDR_EVT p] t ∧ t.ctl.reg (R.HDR_EVT p) = s.ctl.reg (R.HDR_EVT p) &&& ~~~m) ∧
  (∀ (p i : Nat) (m r : Word) (s : State), s.ctl.live = true → i < pageEvents p → bit r.toNat i = true →
    Completes (.hdrEvtClear p m r) s fun t => t.ctl.evBit p i = true ∧ s.DataKept t) ∧
  (∀ (p : Nat) (m r : Word) (s : State), pageBlock p = none → Gives (.hdrEvtClear p m r) s s) ∧
  (∀ (p i r : Nat) (w : Word) (s : State), s.ctl.live = true → i < pageEvents p → (s.ctl.louvreCfg p).2 = r →
    (∀ j, j < pageEvents p → j ≠ i → bit w.toNat j = bit (s.ctl.reg (R.HDR_EVT_EN p)).toNat j) →
    (eventClass p i = 3 → Completes (.evtEnWrite p w) s (fun t => s.IsRegs [R.HDR_EVT_EN p] t ∧
      t.ctl.reg (R.HDR_EVT_EN p) = BitVec.ofNat 32 (putBit (s.ctl.reg (R.HDR_EVT_EN p)).toNat i (bit w.toNat i)))) ∧
    (eventClass p i ≠ 3 → bit w.toNat i = true → bit (s.ctl.reg (R.HDR_EVT_EN p)).toNat i = false →
      (s.ctl.claimFits 4 r = true → (s.ctl.louvre p i).supp = 0 → Completes (.evtEnWrite p w) s (fun t =>
        State.IsRegs [R.HDR_EVT_EN p, R.LGR_ACCT_USED 3] { s with ctl := { s.ctl with ev := { s.ctl.ev with
          louvres := tput s.ctl.ev.louvres (p * 32 + i) { s.ctl.louvre p i with
            tokens := (s.ctl.louvreCfg p).1, since := s.ctl.mtime, given := 0 } } } } t ∧ t.ctl.acctUsed 4 = s.ctl.acctUsed 4 + r ∧
        t.ctl.reg (R.HDR_EVT_EN p) = BitVec.ofNat 32 (putBit (s.ctl.reg (R.HDR_EVT_EN p)).toNat i true))) ∧
      (s.ctl.claimFits 4 r = true → (s.ctl.louvre p i).supp ≠ 0 → s.ctl.on F.EVT_RING_CFG_EN = true → s.ctl.ev.waiting.length < 64 →
        Completes (.evtEnWrite p w) s (fun t => (t.ctl.louvre p i).supp = 0 ∧ s.DataKept t ∧ ∃ q : EvRec, t.ctl.ev.waiting = s.ctl.ev.waiting ++ [q] ∧
          q.typ = 1 ∧ q.page = p ∧ q.evBit = i ∧ q.detail.take 4 = beBytes 4 (s.ctl.louvre p i).supp)) ∧
      (s.ctl.claimFits 4 r = false → Completes (.evtEnWrite p w) s (fun t => s.IsBut [0x024] [R.LGR_STAT] t ∧
        t.ctl.get F.LGR_STAT_REFUSE_ACCT = 4 ∧ t.ctl.evBit 0x024 0 = true))) ∧
    (eventClass p i ≠ 3 → bit w.toNat i = false → bit (s.ctl.reg (R.HDR_EVT_EN p)).toNat i = true →
      Completes (.evtEnWrite p w) s (fun t => s.IsBut [0x024] [R.HDR_EVT_EN p, R.LGR_ACCT_USED 3, R.LGR_STAT] t ∧
        t.ctl.acctUsed 4 = s.ctl.acctUsed 4 - r ∧
        t.ctl.reg (R.HDR_EVT_EN p) = BitVec.ofNat 32 (putBit (s.ctl.reg (R.HDR_EVT_EN p)).toNat i false)))) ∧
  (∀ (p old new n : Nat) (w : Word) (s : State), s.ctl.live = true → s.ctl.get F.EVT_ALM_IDX_PAGE = p → (s.ctl.louvreCfg p).2 = old →
    min 10000 (max 1 (wGet w 13 0)) = new →
    ((List.range (pageEvents p)).filter fun i => bit (s.ctl.reg (R.HDR_EVT_EN p)).toNat i && eventClass p i != 3).length = n →
    (old < new → s.ctl.claimFits 4 ((new - old) * n) = true → Completes (.louvreCfgWrite w) s (fun t =>
      (∃ q, State.IsRegs [R.LGR_ACCT_USED 3] { s with ctl := { s.ctl with ev := { s.ctl.ev with
        louvres := q, lvCfg := tput s.ctl.ev.lvCfg p (w &&& 0xFF003FFF) } } } t) ∧
      (∀ i, i < pageEvents p → bit (s.ctl.reg (R.HDR_EVT_EN p)).toNat i = true → eventClass p i ≠ 3 → (t.ctl.louvre p i).since = s.ctl.mtime ∧
        (t.ctl.louvre p i).given = 0 ∧ (t.ctl.louvre p i).supp = (s.ctl.louvre p i).supp) ∧
      t.ctl.acctUsed 4 = s.ctl.acctUsed 4 + (new - old) * n)) ∧
    (old < new → s.ctl.claimFits 4 ((new - old) * n) = false → Completes (.louvreCfgWrite w) s (fun t => s.IsBut [0x024] [R.LGR_STAT] t ∧
      t.ctl.louvreCfg p = s.ctl.louvreCfg p ∧ t.ctl.evBit 0x024 0 = true)) ∧
    (new ≤ old → Completes (.louvreCfgWrite w) s (fun t => s.IsBut [0x024] [R.LGR_ACCT_USED 3, R.LGR_STAT] t ∧
      t.ctl.louvreCfg p = (max 1 (wGet w 31 24), new) ∧ t.ctl.acctUsed 4 = s.ctl.acctUsed 4 - (old - new) * n))) ∧
  (∀ (p i : Nat) (s : State), s.ctl.dueBy (s.ctl.louvreDue p i) = false → Gives (.louvreToken p i) s s) ∧
  (∀ (p i : Nat) (l : Louvre) (c : Ctl) (s : State), s.ctl.live = true → s.ctl.louvre p i = l → s.ctl.dueBy (s.ctl.louvreDue p i) = true →
    s.ctl.advMoment (s.ctl.louvreDue p i) = c →
    (l.supp = 0 → Gives (.louvreToken p i) s { s with ctl := { c with ev := { s.ctl.ev with
      louvres := tput s.ctl.ev.louvres (p * 32 + i) { l with tokens := min (s.ctl.louvreCfg p).1 (l.tokens + 1), given := l.given + 1 } } } }) ∧
    (l.supp ≠ 0 → s.ctl.on F.EVT_RING_CFG_EN = true → s.ctl.ev.waiting.length < 64 → Completes (.louvreToken p i) s (fun t => ∃ r : EvRec,
      State.IsRegs [R.EVT_SEQ] { s with ctl := { c with ev := { s.ctl.ev with
        waiting := s.ctl.ev.waiting ++ [r], louvres := tput s.ctl.ev.louvres (p * 32 + i) ⟨min (s.ctl.louvreCfg p).1 (l.tokens + 1), 0, 0, 0, l.since, l.given + 1⟩ } } } t ∧
      r.typ = 1 ∧ r.page = p ∧ r.evBit = i ∧ r.cls = eventClass p i ∧ r.seq = (s.ctl.reg R.EVT_SEQ).toNat ∧
      r.detail.take 16 = beBytes 4 l.supp ++ beBytes 6 l.first ++ beBytes 6 l.last ∧ (t.ctl.reg R.EVT_SEQ).toNat = nextSeq (s.ctl.reg R.EVT_SEQ).toNat))) ∧
  (∀ (n : Nat) (w : Summary) (s : State), tfind s.ctl.ev.windows n = some w → s.ctl.dueBy w.till = false → Gives (.summaryRecord n) s s) ∧
  (∀ (n : Nat) (w : Summary) (c : Ctl) (s : State), s.ctl.live = true → tfind s.ctl.ev.windows n = some w → s.ctl.dueBy w.till = true →
    s.ctl.advMoment w.till = c → s.ctl.on F.EVT_RING_CFG_EN = true →
    s.ctl.ev.waiting.length < 64 → Completes (.summaryRecord n) s fun t => ∃ r : EvRec,
      State.IsRegs [R.EVT_SEQ] { s with ctl := { c with ev := { s.ctl.ev with
        waiting := s.ctl.ev.waiting ++ [r], windows := tdel s.ctl.ev.windows n } } } t ∧ r.typ = 2 ∧ r.page = 0x022 ∧ r.seq = (s.ctl.reg R.EVT_SEQ).toNat ∧
      r.detail.take 22 = [BitVec.ofNat 8 n, 0] ++ beBytes 4 w.count ++ beBytes 4 w.toProt ++ beBytes 6 w.first ++ beBytes 6 w.last) ∧
  (∀ (n : Nat) (s : State), tfind s.ctl.ev.windows n = none → Gives (.summaryRecord n) s s) ∧
  (∀ (k f a b n : Nat) (s : State), s.ctl.live = true → s.ctl.nextSwitch = some k → tget s.ctl.ev.swPend k (0, 0, 0, 31) = (f, a, b, n) →
    Completes (.switchRecordForm []) s fun t => t.pending = s.pending ∧ t.xc = s.xc ∧ t.dp = s.dp ∧
      t.ctl.swbDue = s.ctl.swbDue ∧ t.ctl.ev.swPend = tdel s.ctl.ev.swPend k ∧ t.ctl.ev.waiting = s.ctl.ev.waiting ∧
      (∀ y, s.ctl.get F.EVT_SWB_CFG_BASE / 64 * 64 + (if 65536 ≤ k then 131072 + 2 * (k - 65536) else 2 * k) = y →
        ((s.ctl.on F.EVT_SWB_CFG_EN = false ∨ s.ctl.swbDue ≠ [] ∨ y + 2 ≤ 0x400000) → ∀ x, x ≠ R.EVT_SEQ → t.ctl.reg x = s.ctl.reg x) ∧
        (s.ctl.on F.EVT_SWB_CFG_EN = true → s.ctl.swbDue = [] → 0x400000 < y + 2 → t.mem = s.mem ∧ t.ctl.evBit 0x04B 0 = true) ∧
        (s.ctl.on F.EVT_SWB_CFG_EN = true → s.ctl.swbDue = [] → y + 2 ≤ 0x400000 →
          t.mem = s.mem.spadWrite y (leBytes 2 (min 65535 (leNat (tbytes s.mem.spad y 2) + f))) ∧ t.ctl.swbLate = s.ctl.swbLate) ∧
        (s.ctl.on F.EVT_SWB_CFG_EN = true → s.ctl.swbDue ≠ [] → t.mem = s.mem ∧ t.ctl.swbLate = s.ctl.swbLate ++ [((s.ctl.pm.cur false).num, k, f)]) ∧
        (s.ctl.on F.EVT_SWB_CFG_EN = false → t.mem = s.mem ∧ t.ctl.swbLate = s.ctl.swbLate)) ∧
      (s.ctl.on F.EVT_LOG_CFG_EN = true → ∃ r : EvRec, t.ctl.ev.unlogged = s.ctl.ev.unlogged ++ [r] ∧ r.typ = 3 ∧ r.cls = 0 ∧ r.page = 0x022 ∧
        r.seq = (s.ctl.reg R.EVT_SEQ).toNat ∧ r.nseq = 0 ∧ r.detail.take 5 = beBytes 2 (k % 65536) ++ [BitVec.ofNat 8 (b2n (decide (65536 ≤ k)) * 128 + b2n (s.ctl.group k).sel * 64 +
          (s.ctl.group k).effReq (s.ctl.group k).req), BitVec.ofNat 8 (min 255 f), BitVec.ofNat 8 n]) ∧
      (n < 24 → (tget t.ctl.ev.windows n ⟨0, 0, 0, 0, 0⟩).count = (tget s.ctl.ev.windows n ⟨0, 0, 0, 0, 0⟩).count + f ∧
        (tfind s.ctl.ev.windows n = none → (tget t.ctl.ev.windows n ⟨0, 0, 0, 0, 0⟩).till = s.ctl.mtime + 2048000 ∧
          (tget t.ctl.ev.windows n ⟨0, 0, 0, 0, 0⟩).first = a ∧ (tget t.ctl.ev.windows n ⟨0, 0, 0, 0, 0⟩).last = b) ∧
        ∀ w, tfind s.ctl.ev.windows n = some w →
          (tget t.ctl.ev.windows n ⟨0, 0, 0, 0, 0⟩).first = (if sdiff 48 a w.first < 0 then a else w.first) ∧
          (tget t.ctl.ev.windows n ⟨0, 0, 0, 0, 0⟩).last = if sdiff 48 w.last b < 0 then b else w.last)) ∧
  (∀ (fs : List ParityFault) (s : State), s.ctl.ev.swPend = [] → Gives (.switchRecordForm fs) s s)

/-- Outside reset, NOTIFY_RING_WRITE: with no record waiting nothing happens; with EN at 0 the record is log-only, without NSEQ; a record for which the
ring has no place is dropped and counted, with event 0 of the EVT page; a record whose position still holds one that is not logged waits; otherwise it
is written at its position with the next NSEQ, WR advances modulo the size, and the cores that the page's route names are notified when its class
reaches MIN_CLASS: WFI ends, and a core that runs with its external interrupt enabled takes it. A write of EVT_RING_RD below the ring's size sets RD,
and another is ignored. EVT_RING_CFG_WRITE changes EN alone while the ring is enabled, and otherwise stores SIZE and BASE, and EN only for a legal
ring, which starts empty. LOG_DRAIN takes the first record in SEQ order: with the log disabled it goes unlogged; otherwise it fills one line at WR,
which advances with event 2 at each wrap, and a write that returns an error leaves the line poisoned; the default target takes each 8-byte access
beyond the fitted memory or scratchpad, and with READY 0 the write is lost. Without a record it does nothing. MSIX_REARM arms the vectors written 1.
MSIX_PENDING_SEND sends a pending message and clears its PBA bit with MSI-X Enable, Function Mask 0, the vector unmasked, Bus Master Enable, D0 and a
clock for the link, and else does nothing. Its clauses keep the model's own choices of log entries 12, 63, 69. (16_monitoring.md: Events (R463, R464,
R466); 05_overhead_channels.md: Overhead engine rings (R143); 17_host_and_registers.md: PCI Express endpoint (R490); 11_reference_timing.md:
Oscillator and synthesis (R303); 01_architecture.md: Address map at a glance (R25, R29); 15_cores_and_memory.md: The bus matrix (R429)) -/
def Obligations.RingsAndMessages : Prop :=
  (∀ s : State, s.ctl.ev.waiting = [] → Gives .notifyRingWrite s s) ∧
  (∀ (r : EvRec) (l : List EvRec) (s : State), s.ctl.live = true → s.ctl.ev.waiting = r :: l → s.ctl.on F.EVT_RING_CFG_EN = false →
    Gives .notifyRingWrite s { s with ctl := { s.ctl with ev := { s.ctl.ev with
      waiting := l, unlogged := if s.ctl.on F.EVT_LOG_CFG_EN then s.ctl.ev.unlogged ++ [r] else s.ctl.ev.unlogged } } }) ∧
  (∀ (r : EvRec) (l : List EvRec) (s : State), s.ctl.live = true → s.ctl.ev.waiting = r :: l → s.ctl.on F.EVT_RING_CFG_EN = true →
    (s.ctl.ringPlace r = none → Completes .notifyRingWrite s (fun t => s.IsBut [0x051] [] t ∧ t.ctl.evBit 0x051 0 = true ∧
      min (2 ^ 32 - 1) ((s.ctl.reg R.EVT_CNT_DROP).toNat + 1) ≤ (t.ctl.reg R.EVT_CNT_DROP).toNat)) ∧
    (∀ p o old, s.ctl.ringPlace r = some (p, o) → tfind s.ctl.ev.held p = some old → s.ctl.logged old = false → Gives .notifyRingWrite s s) ∧
    (∀ p, s.ctl.ringPlace r = some (p, false) → (∀ old, tfind s.ctl.ev.held p = some old → s.ctl.logged old = true) →
      0x400000 < s.ctl.get F.EVT_RING_CFG_BASE + 64 * p + 64 → Completes .notifyRingWrite s (fun t => t.ctl.evBit 0x04B 0 = true ∧ t.ctl.ev.waiting = l)) ∧
    (∀ p w, s.ctl.ringPlace r = some (p, false) → (∀ old, tfind s.ctl.ev.held p = some old → s.ctl.logged old = true) →
      s.ctl.get F.EVT_RING_CFG_BASE + 64 * p + 64 ≤ 0x400000 → (tget s.ctl.ev.route r.page 0).toNat = w →
      Completes .notifyRingWrite s (fun t => (∃ wf hs f, State.IsBut [] ([R.EVT_RING_WR, R.EVT_MSIX_REARM_LO, R.EVT_MSIX_REARM_HI, R.HST_MSIX_PBA_LO,
          R.HST_MSIX_PBA_HI] ++ (List.range 4).map R.EVT_CORE_PEND)
          { s with
            mem := s.mem.spadWrite (s.ctl.get F.EVT_RING_CFG_BASE + 64 * p) { r with nseq := s.ctl.ev.nseq }.encode, ctl := { s.ctl with coreWfi := wf, harts := hs, free := f } } t) ∧
        (∀ n, (r.cls < bits w 9 8 ∨ bit w (16 + n) = false) → t.ctl.hart n = s.ctl.hart n ∧ bit t.ctl.coreWfi n = bit s.ctl.coreWfi n) ∧
        (bits w 9 8 ≤ r.cls → ∀ n, n < 4 → bit w (16 + n) = true → bit t.ctl.coreWfi n = false ∧
          (s.ctl.coreRuns n = true → ((s.ctl.hart n).mie = true ∨ (s.ctl.hart n).user = true) → bit (s.ctl.hart n).mieReg 11 = true →
            ∃ pc, t.ctl.hart n = (s.ctl.hart n).trap (2 ^ 31 + 11) pc 0 (if (s.ctl.hart n).mtvec % 2 = 1 then 44 else 0))) ∧
        t.ctl.ev.waiting = l ∧ tfind t.ctl.ev.held p = some { r with nseq := s.ctl.ev.nseq } ∧ t.ctl.ev.nseq = nextSeq s.ctl.ev.nseq ∧
        t.ctl.get F.EVT_RING_WR_PTR = (s.ctl.get F.EVT_RING_WR_PTR + 1) % s.ctl.ringSize ∧
        (bits w 9 8 ≤ r.cls → ∀ n, n < 4 → bit w (16 + n) = true → t.ctl.on (F.EVT_CORE_PEND_PEND n) = true) ∧
        (r.cls < bits w 9 8 → ∀ a, a ≠ R.EVT_RING_WR → t.ctl.reg a = s.ctl.reg a))) ∧
    (∀ p, s.ctl.ringPlace r = some (p, true) → (∀ old, tfind s.ctl.ev.held p = some old → s.ctl.logged old = true) →
      Completes .notifyRingWrite s (fun t => tget t.ctl.ev.held p r = { r with nseq := s.ctl.ev.nseq } ∧ t.ctl.evBit 0x051 1 = true ∧
        t.ctl.reg R.EVT_RING_WR = s.ctl.reg R.EVT_RING_WR ∧
        (t.ctl.reg R.EVT_CNT_OVW).toNat = min (2 ^ 32 - 1) ((s.ctl.reg R.EVT_CNT_OVW).toNat + 1)))) ∧
  (∀ (n : Nat) (s : State), s.ctl.live = true → n < s.ctl.ringSize →
    Completes (.notifyRdWrite n) s fun t => s.IsRegs [R.EVT_RING_RD] t ∧ t.ctl.get F.EVT_RING_RD_PTR = n) ∧
  (∀ (n : Nat) (s : State), s.ctl.ringSize ≤ n → Gives (.notifyRdWrite n) s s) ∧
  (∀ (v : Word) (s : State), s.ctl.live = true → s.ctl.on F.EVT_RING_CFG_EN = true →
    Completes (.evtRingCfgWrite v) s fun t => s.IsRegs [R.EVT_RING_CFG] t ∧ t.ctl.on F.EVT_RING_CFG_EN = bit v.toNat 31 ∧
      t.ctl.get F.EVT_RING_CFG_SIZE = s.ctl.get F.EVT_RING_CFG_SIZE ∧ t.ctl.get F.EVT_RING_CFG_BASE = s.ctl.get F.EVT_RING_CFG_BASE) ∧
  (∀ (v : Word) (n b : Nat) (s : State), s.ctl.live = true → s.ctl.on F.EVT_RING_CFG_EN = false → 64 * 2 ^ (wGet v 26 24 + 7) = n → wGet v 21 0 = b →
    Completes (.evtRingCfgWrite v) s fun t => t.ctl.get F.EVT_RING_CFG_SIZE = wGet v 26 24 ∧ t.ctl.get F.EVT_RING_CFG_BASE = b ∧
      (bit v.toNat 31 = true → b % n = 0 → b + n ≤ 2 ^ 22 →
        State.IsRegs [R.EVT_RING_CFG, R.EVT_RING_WR, R.EVT_RING_RD] { s with ctl := { s.ctl with ev := { s.ctl.ev with held := [] } } } t ∧
        t.ctl.on F.EVT_RING_CFG_EN = true ∧ t.ctl.get F.EVT_RING_WR_PTR = 0 ∧ t.ctl.get F.EVT_RING_RD_PTR = 0) ∧
      ((bit v.toNat 31 = false ∨ b % n ≠ 0 ∨ 2 ^ 22 < b + n) → s.IsRegs [R.EVT_RING_CFG] t ∧ t.ctl.on F.EVT_RING_CFG_EN = false)) ∧
  (∀ (e : Bool) (s : State), s.ctl.nextLog = none → Gives (.logDrain e) s s) ∧
  (∀ (e : Bool) (r : EvRec) (s : State), s.ctl.live = true → s.ctl.nextLog = some r →
    (s.ctl.on F.EVT_LOG_CFG_EN = false → Gives (.logDrain e) s { s with ctl := { s.ctl with ev := { s.ctl.ev with
      unlogged := s.ctl.ev.unlogged.filter (fun q => q.seq != r.seq) } } }) ∧
    (∀ z w a, s.ctl.on F.EVT_LOG_CFG_EN = true → 2 ^ (min 14 (s.ctl.get F.EVT_LOG_CFG_SIZE) + 10) = z → s.ctl.get F.EVT_LOG_WR_VALUE % z = w →
      s.ctl.get F.EVT_LOG_CFG_BASE * 2 ^ 20 + 64 * w = a →
      Completes (.logDrain e) s (fun t => State.IsBut [0x051, 0x04B] (R.EVT_LOG_WR :: dtRegs) { s with
          mem := if s.ctl.ddrOk a 64 = false then s.mem else if e then s.mem.poisonLine (a / 64) else s.mem.ddrWrite a r.encode } t ∧
        (s.ctl.on F.MEM_STAT_READY = true → s.ctl.ddrOk a 64 = false → t.ctl.evBit 0x04B 0 = true ∧
          (s.ctl.on F.MTX_DT_FIRST_INFO_VALID = false → t.ctl.reg R.MTX_DT_FIRST_ADDR = BitVec.ofNat 32 a) ∧
          t.ctl.reg R.MTX_DT_LAST_ADDR = BitVec.ofNat 32 (a + 56) ∧ t.ctl.get F.MTX_DT_LAST_INFO_MASTER = 11 ∧ t.ctl.get F.MTX_DT_LAST_INFO_CAUSE = 0) ∧
        ((s.ctl.on F.MEM_STAT_READY = false ∨ s.ctl.ddrOk a 64 = true) → s.IsBut [0x051] [R.EVT_LOG_WR] { t with mem := s.mem } ∧
          (w + 1 ≠ z → t.ctl.ev.unlogged = s.ctl.ev.unlogged.filter (fun q => q.seq != r.seq))) ∧
        t.ctl.get F.EVT_LOG_WR_VALUE = (w + 1) % z ∧ (w + 1 = z → t.ctl.evBit 0x051 2 = true)))) ∧
  (∀ r : EvRec, r.encode.length = 64) ∧
  (∀ (x y : Word) (s : State), s.ctl.live = true → Completes (.msixRearm x y) s fun t => s.IsRegs [R.EVT_MSIX_REARM_LO, R.EVT_MSIX_REARM_HI] t ∧
    t.ctl.reg R.EVT_MSIX_REARM_LO = s.ctl.reg R.EVT_MSIX_REARM_LO ||| x ∧ t.ctl.reg R.EVT_MSIX_REARM_HI = s.ctl.reg R.EVT_MSIX_REARM_HI ||| y) ∧
  (∀ (v : Nat) (s : State), s.ctl.live = true → v < 64 → s.ctl.pba v = true → s.ctl.on F.HST_STAT_MSIX_EN = true →
    s.ctl.on F.HST_STAT_FN_MASK = false → bit (s.ctl.reg (R.HST_MSIX_CTL v)).toNat 0 = false → s.ctl.on F.HST_STAT_BME = true →
    s.ctl.get F.HST_STAT_DSTATE = 0 → s.ctl.xoLost = false →
    Completes (.msixPendingSend v) s fun t => State.IsRegs [R.HST_MSIX_PBA_LO, R.HST_MSIX_PBA_HI] { s with ctl := { s.ctl with ev := { s.ctl.ev with
      sent := v :: s.ctl.ev.sent } } } t ∧ ∀ n, n < 64 → t.ctl.pba n = if n = v then false else s.ctl.pba n) ∧
  (∀ (v : Nat) (s : State), (64 ≤ v ∨ s.ctl.pba v = false ∨ s.ctl.on F.HST_STAT_MSIX_EN = false ∨ s.ctl.on F.HST_STAT_FN_MASK = true ∨
    bit (s.ctl.reg (R.HST_MSIX_CTL v)).toNat 0 = true ∨ s.ctl.on F.HST_STAT_BME = false ∨ s.ctl.get F.HST_STAT_DSTATE ≠ 0 ∨ s.ctl.xoLost = true) → Gives (.msixPendingSend v) s s)

/-! ### The life record and the host link -/

/-- Outside reset, for the cores and the host, where they may make the access: LIF_DATA_WRITE below 0x08_0000 is refused with CAUSE 1; above, a word that
reads back at the first or second try is stored, alone, LIF_ADDR advances by 4 and the block's write count grows; a second mismatch, or a worn word,
leaves that word alone free, sets WFAIL with the offset and raises event 2 of the LIF page. LIF_DATA_READ answers the word and advances LIF_ADDR.
Other masters are refused with CAUSE 3. LIFE_CHECKPOINT, once the hour is due, counts a power-on hour, shows it, and stores it with the histogram, the
write counts and the count of RECOVERY entries; before that it does nothing. FAULT_RECORD_GO takes the payload and sets BUSY, and is ignored while
BUSY. FAULT_RECORD_DONE writes the record and its SEQ, one above the highest stored, at position SEQ mod 16, clears BUSY and raises event 0, and a
word of it that mismatches twice or is worn sets WFAIL with event 2; with no record it does nothing. Its clauses keep the model's own choices of log
entries 5, 12, 24, 71. (16_monitoring.md: The life record (R467, R468, R470, R471); 17_host_and_registers.md: Register access (R480);
15_cores_and_memory.md: The bus matrix (R530)) -/
def Obligations.LifeRecord : Prop :=
  (∀ (m a n : Nat) (v : Word) (s : State), s.MemCanonical → s.ctl.live = true → m < 5 → 4 * s.ctl.get F.LIF_ADDR_ADDR = a →
    s.ctl.MayReg m R.LIF_DATA true → s.ctl.MayReg m R.LIF_DATA false →
    (a < 0x80000 → Completes (.lifDataWrite m v n) s (State.Refused m (0x20000000 + R.LIF_DATA) 1 [] [] s)) ∧
    (0x80000 ≤ a → n < 2 → s.mem.mramWorn.contains a = false → Completes (.lifDataWrite m v n) s (fun t => (∃ l, State.IsBut [0x053] [R.LIF_ADDR, R.LIF_WEAR] { s with
        mem := s.mem.mramPut a v.toNat, ctl := { s.ctl with life := l, answer := .data 0 } } t) ∧ t.mem.mramWord a = v.toNat ∧
      (∀ b, (b < a ∨ a + 4 ≤ b) → t.mem.mramByte b = s.mem.mramByte b) ∧ 4 * t.ctl.get F.LIF_ADDR_ADDR = (a + 4) % 2 ^ 21 ∧
      tget t.ctl.life.wear (a / 4096) 0 = min (2 ^ 32 - 1) (tget s.ctl.life.wear (a / 4096) 0 + (if n = 0 then 1 else 2)))) ∧
    (0x80000 ≤ a → (2 ≤ n ∨ s.mem.mramWorn.contains a = true) → Completes (.lifDataWrite m v n) s (fun t => (∃ l f x, State.IsBut [0x053] [R.LIF_ADDR, R.LIF_WEAR, R.LIF_STAT] { s with
        mem := s.mem.mramPut a x, ctl := { s.ctl with life := l, answer := .data 0, free := f } } t) ∧ (∀ b, (b < a ∨ a + 4 ≤ b) →
        t.mem.mramByte b = s.mem.mramByte b) ∧ tget t.ctl.life.wear (a / 4096) 0 = min (2 ^ 32 - 1) (tget s.ctl.life.wear (a / 4096) 0 + 2) ∧
      4 * t.ctl.get F.LIF_ADDR_ADDR = (a + 4) % 2 ^ 21 ∧ t.ctl.on F.LIF_STAT_WFAIL = true ∧ t.ctl.get F.LIF_STAT_OFS = a ∧
      t.ctl.evBit 0x053 2 = true)) ∧
    Completes (.lifDataRead m) s (fun t => State.IsRegs [R.LIF_ADDR] { s with ctl := { s.ctl with answer := .data (s.mem.mramWord a) } } t ∧
      4 * t.ctl.get F.LIF_ADDR_ADDR = (a + 4) % 2 ^ 21)) ∧
  (∀ (m n : Nat) (v : Word) (s : State), s.ctl.live = true → 5 ≤ m →
    Completes (.lifDataWrite m v n) s (State.Refused m (0x20000000 + R.LIF_DATA) 3 [] [] s) ∧
    Completes (.lifDataRead m) s (State.Refused m (0x20000000 + R.LIF_DATA) 3 [] [] s) ∧
    Completes (.faultRecordGo m) s (State.Refused m (0x20000000 + R.LIF_FAULT_GO) 3 [] [] s)) ∧
  (∀ (h e : Nat) (fails : List Nat) (bad : Nat → Bool) (s : State), s.MemCanonical → s.ctl.timed = true →
    (∀ x, bad x = (fails.contains x || s.mem.mramWorn.contains x)) → s.ctl.life.hours + 1 = h → s.ctl.life.hourEnd = e →
    (s.ctl.dueBy e = false → Gives (.lifeCheckpoint fails) s s) ∧
    (s.ctl.dueBy e = true → s.ctl.life.hist.length ≤ 1024 → (s.ctl.life.wear.map Prod.fst).Nodup →
      Completes (.lifeCheckpoint fails) s fun t => (∃ m f, State.IsBut [0x053] [R.LIF_POH, R.LIF_CYCLES, R.LIF_STAT] { s with
        mem := { s.mem with mram := m }, ctl := { s.ctl.advMoment e with life := { s.ctl.life with hours := h, hourEnd := e + 3600 * 204800000 }, free := f } } t) ∧
      t.ctl.reg R.LIF_POH = BitVec.ofNat 32 h ∧ (bad (0x5000 + 4 * (h % 64)) = false → t.mem.mramWord (0x5000 + 4 * (h % 64)) = h % 2 ^ 32) ∧
      (bad (0x5000 + 4 * (h % 64)) = true → t.ctl.on F.LIF_STAT_WFAIL = true ∧ t.ctl.evBit 0x053 2 = true) ∧
      (bad lifRecoveries = false → t.mem.mramWord lifRecoveries = s.ctl.life.recoveries % 2 ^ 32) ∧
      (∀ j, j < s.ctl.life.hist.length → bad (0x6000 + 4 * j) = false → t.mem.mramWord (0x6000 + 4 * j) = lget s.ctl.life.hist j 0 % 2 ^ 32) ∧
      (∀ q ∈ s.ctl.life.wear, bad (0xB000 + 4 * q.1) = false → t.mem.mramWord (0xB000 + 4 * q.1) = q.2 % 2 ^ 32) ∧
      (fails = [] → s.mem.mramWorn = [] → ∃ m, State.IsRegs [R.LIF_POH, R.LIF_CYCLES] { s with
        mem := { s.mem with mram := m }, ctl := { s.ctl.advMoment e with life := { s.ctl.life with hours := h, hourEnd := e + 3600 * 204800000 } } } t))) ∧
  (∀ (m : Nat) (s : State), s.ctl.live = true → m < 5 → s.ctl.MayReg m R.LIF_FAULT_GO true → s.ctl.on F.LIF_STAT_BUSY = false →
    Completes (.faultRecordGo m) s fun t => ∃ b, State.IsRegs [R.LIF_STAT] { s with ctl := { s.ctl with life := { s.ctl.life with fault := some b } } } t ∧
      t.ctl.on F.LIF_STAT_BUSY = true ∧ b.take 8 = [1, BitVec.ofNat 8 m] ++ beBytes 6 s.ctl.fnN ∧ b.drop 28 = slice s.ctl.faultPayload 0 224) ∧
  (∀ (m : Nat) (s : State), m < 5 → s.ctl.MayReg m R.LIF_FAULT_GO true → s.ctl.on F.LIF_STAT_BUSY = true → Gives (.faultRecordGo m) s s) ∧
  (∀ (b : List Byte) (q a : Nat) (s : State), s.MemCanonical → s.ctl.live = true → s.ctl.life.fault = some b → s.mem.faultSeq + 1 = q →
    0xA000 + 256 * (q % 16) = a → s.mem.mramWorn = [] →
    Completes (.faultRecordDone []) s fun t => State.IsBut [0x053] [R.LIF_STAT] { s with
        mem := s.mem.mramWrite a (beBytes 4 q ++ b), ctl := { s.ctl with life := { s.ctl.life with fault := none } } } t ∧
      t.ctl.on F.LIF_STAT_BUSY = false ∧ t.ctl.evBit 0x053 0 = true ∧ t.mem.mramWord a = q % 2 ^ 32 ∧ t.mem.mramBytes (a + 4) b.length = b) ∧
  (∀ (b : List Byte) (w : Nat) (fails : List Nat) (s : State), s.ctl.live = true → s.ctl.life.fault = some b → w < 64 →
    (fails.contains (0xA000 + 256 * ((s.mem.faultSeq + 1) % 16) + 4 * w) || s.mem.mramWorn.contains (0xA000 + 256 * ((s.mem.faultSeq + 1) % 16) + 4 * w)) = true →
    Completes (.faultRecordDone fails) s fun t => t.ctl.on F.LIF_STAT_WFAIL = true ∧ t.ctl.evBit 0x053 2 = true ∧ t.ctl.evBit 0x053 0 = true ∧
      t.ctl.on F.LIF_STAT_BUSY = false ∧ t.ctl.life.fault = none) ∧
  (∀ (fails : List Nat) (s : State), s.ctl.life.fault = none → Gives (.faultRecordDone fails) s s)

/-- Outside reset: LINK_EN_WRITE sets LINK_EN, and 0 takes the link down, with the base addresses at 0. LINK_UP, when enabled, with PERST_N high and a
speed and width of the specification, shows them with event 0; LINK_DOWN of a link that is up ends it with event 1. While the link is up,
POWER_STATE_CHANGE sets DSTATE and CONFIG_WRITE_REQUEST its four bits and the base addresses, and every pending message that may then be sent is sent.
REGISTER_WRITE stores HDR_SCRATCH of a page other than TBL, which ignores every write but that of TBL_CTL, for the cores and the host; a register
access with a CAUSE, and an access that the default target takes, is refused with it; a master that may not access registers has CAUSE 3. Accesses
read and write the bytes of the scratchpad, working SRAM, local memory and LPDDR4X that their address reaches; a read that fails its parity is an
error with its event, one whose replay passes answers, and a partial write keeps the poison of its line; a core that does not run or is in WFI makes
none, and one that is misaligned or not permitted takes its exception instead. A host read or write of a dword of BAR0 acts as the access of master 4;
with bytes left out it is refused with CAUSE 2, or 0 where no map names the register, and a read aborts with event 2, the bit of Advanced Error
Reporting, and counts; a write counts. Requests that the function does not serve are answered Unsupported Request, and none while the link is down.
Its clauses keep the model's own choices of log entries 12, 37, 62, 63, 73, 74. (17_host_and_registers.md: Register access (R480);
17_host_and_registers.md: PCI Express endpoint (R485, R487, R488, R490, R491); 17_host_and_registers.md: HST page (R492); 01_architecture.md: Address
map at a glance (R25); 15_cores_and_memory.md: The bus matrix (R428, R429, R530); 15_cores_and_memory.md: The cores (R416 to R418, R420);
15_cores_and_memory.md: On-die memories (R421); 15_cores_and_memory.md: LPDDR4X controller (R433, R434)) -/
def Obligations.LinkAndAccesses : Prop :=
  (∀ s : State, s.ctl.live = true →
    Completes (.linkEnWrite true) s (fun t => s.IsRegs [R.HST_CTL] t ∧ t.ctl.on F.HST_CTL_LINK_EN = true) ∧
    Completes (.linkEnWrite false) s (fun t => State.IsRegs [R.HST_CTL, R.HST_STAT] { s with ctl := { s.ctl with bar0 := 0, bar2 := 0 } } t ∧ t.ctl.on F.HST_CTL_LINK_EN = false ∧
      t.ctl.on F.HST_STAT_LINK_UP = false ∧ t.ctl.get F.HST_STAT_SPEED = 0 ∧ t.ctl.get F.HST_STAT_WIDTH = 0)) ∧
  (∀ (v w : Nat) (s : State), s.ctl.timed = true → s.ctl.on F.HST_STAT_LINK_UP = false →
    (s.ctl.on F.HST_CTL_LINK_EN = true → s.ctl.perstLow = false → 1 ≤ v → v ≤ 4 → 1 ≤ w → w ≤ 2 →
      Completes (.linkUp v w) s (fun t => State.IsBut [0x008] [R.HST_STAT] { s with ctl := { s.ctl with subsys := s.ctl.reg R.HST_SUBSYS } } t ∧
        t.ctl.on F.HST_STAT_LINK_UP = true ∧ t.ctl.get F.HST_STAT_SPEED = v ∧ t.ctl.get F.HST_STAT_WIDTH = w ∧ t.ctl.evBit 0x008 0 = true)) ∧
    ((s.ctl.on F.HST_CTL_LINK_EN = false ∨ s.ctl.perstLow = true) → Gives (.linkUp v w) s s)) ∧
  (∀ s : State, s.ctl.live = true → s.ctl.on F.HST_CTL_LINK_EN = true → s.ctl.perstLow = false → s.ctl.on F.HST_STAT_LINK_UP = true →
    Completes .linkDown s fun t => State.IsBut [0x008] [R.HST_STAT] { s with ctl := { s.ctl with bar0 := 0, bar2 := 0 } } t ∧ t.ctl.on F.HST_STAT_LINK_UP = false ∧ t.ctl.evBit 0x008 1 = true) ∧
  (∀ s : State, s.ctl.on F.HST_STAT_LINK_UP = false → Gives .linkDown s s ∧ (∀ d, Gives (.powerStateChange d) s s) ∧
    (∀ a b c d l, Gives (.configWriteRequest a b c d l) s s) ∧ (∀ b o e u k f, Gives (.hostReadRequest b o e u k f) s s) ∧
    ∀ b o e d u k f, Gives (.hostWriteRequest b o e d u k f) s s) ∧
  (∀ s : State, s.ctl.timed = true → s.ctl.on F.HST_STAT_LINK_UP = true →
    (∀ d, Completes (.powerStateChange d) s fun t => s.IsBut [] [R.HST_STAT, R.HST_MSIX_PBA_LO, R.HST_MSIX_PBA_HI] t ∧
      t.ctl.get F.HST_STAT_DSTATE = (if d then 3 else 0) ∧ ∀ v, v < 64 → t.ctl.pba v = (s.ctl.pba v && !t.ctl.msixOpen v)) ∧
    (∀ (v : Word) (c : Ctl), (c.barWrite (0x10, v)).bar0 = bits v.toNat 31 24 * 2 ^ 24 ∧ ∀ w : Word, c.bar2 = 0 →
      ((c.barWrite (0x18, v)).barWrite (0x1C, w)).bar2 = w.toNat * 2 ^ 32 + bits v.toNat 31 29 * 2 ^ 29) ∧
    (∀ a b c d l, Completes (.configWriteRequest a b c d l) s fun t =>
      State.IsBut [] [R.HST_STAT, R.HST_MSIX_PBA_LO, R.HST_MSIX_PBA_HI] { s with ctl := l.foldl Ctl.barWrite s.ctl } t ∧
      t.ctl.on F.HST_STAT_MSIX_EN = a ∧ t.ctl.on F.HST_STAT_FN_MASK = b ∧ t.ctl.on F.HST_STAT_BME = c ∧ t.ctl.on F.HST_STAT_MSE = d ∧
      ∀ v, v < 64 → t.ctl.pba v = (s.ctl.pba v && !t.ctl.msixOpen v))) ∧
  (∀ (m a k e : Nat) (v : Word) (c : Ctl) (s : State), s.ctl.live = true → s.ctl.MayReg m a true → s.ctl.advTo k = c → a < 0x1000000 → c.regCause m a 4 true = some e →
    Completes (.registerWrite m a v k) s (State.Refused m (0x20000000 + a) e [] [] { s with ctl := c })) ∧
  (∀ (m p k : Nat) (v : Word) (c : Ctl) (s : State), s.ctl.live = true → s.ctl.MayReg m (R.HDR_SCRATCH p) true → s.ctl.advTo k = c → m < 5 → p ∈ allPages → p ≠ 0x012 →
    Completes (.registerWrite m (R.HDR_SCRATCH p) v k) s fun t =>
      State.IsRegs [R.HDR_SCRATCH p] { s with ctl := { c with answer := .data 0 } } t ∧ t.ctl.reg (R.HDR_SCRATCH p) = v) ∧
  (∀ (m a k : Nat) (v : Word) (c : Ctl) (s : State), s.ctl.live = true → s.ctl.MayReg m a true → s.ctl.advTo k = c → c.regCause m a 4 true = none → a / 0x1000 = 0x012 → a ≠ R.TBL_CTL →
    Gives (.registerWrite m a v k) s { s with ctl := { c with answer := .data 0 } }) ∧
  (∀ (m a z : Nat) (w : Bool) (c : Ctl), (regExists (a / 4 * 4 / 0x1000) (a / 4 * 4 % 0x1000) = false → c.regCause m a z w = some 0) ∧
    (regExists (a / 0x1000) (a % 0x1000) = true → a % 4 = 0 → 4 < m → c.regCause m a 4 w = some 3)) ∧
  (∀ (m a z d k e : Nat) (w : Bool) (f : List ParityFault) (x : CoreIn) (c : Ctl) (s : State), s.ctl.live = true → Ctl.Accesses m a z k w x s.ctl c →
    c.busTarget m a z w = .bad e → Completes (.defaultTargetAccess m a z w d k f x) s (State.Refused m a e [] [] { s with ctl := c })) ∧
  (∀ (m a z d k : Nat) (w : Bool) (f : List ParityFault) (x : CoreIn) (u : PmpUse) (c : Ctl) (s : State), s.ctl.live = true → m < 4 → x.instr = none →
    x.ops.foldl (Ctl.coreOp m) ((s.ctl.advTo k).wakeCore m) = c → (if w then PmpUse.store else if x.fetch then .fetch else .load) = u →
    (s.ctl.issues m = false → Gives (.defaultTargetAccess m a z w d k f x) s s) ∧
    (s.ctl.issues m = true → c.issues m = false → Gives (.defaultTargetAccess m a z w d k f x) s { s with ctl := c }) ∧
    (s.ctl.issues m = true → c.issues m = true → a % (if x.fetch then 2 else max 1 z) ≠ 0 → Gives (.defaultTargetAccess m a z w d k f x) s { s with
      ctl := c.setHart m ((c.hart m).trap u.misaligned x.pc.toNat (a % 2 ^ 32) 0) }) ∧
    (s.ctl.issues m = true → c.issues m = true → a % (if x.fetch then 2 else max 1 z) = 0 → (c.hart m).pmpPermits u a z = false →
      Gives (.defaultTargetAccess m a z w d k f x) s { s with ctl := c.setHart m ((c.hart m).trap u.fault x.pc.toNat (a % 2 ^ 32) 0) })) ∧
  (∀ (m a z d k o : Nat) (x : CoreIn) (c : Ctl) (s : State), s.ctl.live = true →
    (Ctl.Accesses m a z k false x s.ctl c → c.busTarget m a z false = .spad o → Gives (.defaultTargetAccess m a z false d k [] x) s { s with ctl := { c with answer := .data (leNat (tbytes s.mem.spad o z)) } }) ∧
    (Ctl.Accesses m a z k false x s.ctl c → c.busTarget m a z false = .sram o → Gives (.defaultTargetAccess m a z false d k [] x) s { s with ctl := { c with answer := .data (leNat (tbytes s.mem.sram o z)) } }) ∧
    (∀ n, Ctl.Accesses m a z k false x s.ctl c → c.busTarget m a z false = .lmem n o → Gives (.defaultTargetAccess m a z false d k [] x) s { s with ctl := { c with
      answer := .data (leNat (tbytes s.mem.lmem (n * 65536 + o) z)) } }) ∧
    (Ctl.Accesses m a z k false x s.ctl c → c.busTarget m a z false = .ddr o → s.mem.poisoned o z = false → Gives (.defaultTargetAccess m a z false d k [] x) s { s with ctl := { c with
      answer := .data (leNat (tbytes s.mem.ddr o z)) } }) ∧
    (Ctl.Accesses m a z k true x s.ctl c → c.busTarget m a z true = .spad o → Gives (.defaultTargetAccess m a z true d k [] x) s { s with
      mem := s.mem.spadWrite o (leBytes z d), ctl := { c.breakResv m a z with answer := .data 0 } }) ∧
    (Ctl.Accesses m a z k true x s.ctl c → c.busTarget m a z true = .sram o → Gives (.defaultTargetAccess m a z true d k [] x) s { s with
      mem := { s.mem with sram := tputBytes s.mem.sram o (leBytes z d) }, ctl := { c.breakResv m a z with answer := .data 0 } }) ∧
    (∀ n, Ctl.Accesses m a z k true x s.ctl c → c.busTarget m a z true = .lmem n o → Gives (.defaultTargetAccess m a z true d k [] x) s { s with
      mem := { s.mem with lmem := tputBytes s.mem.lmem (n * 65536 + o) (leBytes z d) }, ctl := { c.breakResv m a z with answer := .data 0 } })) ∧
  (∀ (m a z d k o : Nat) (l : List Byte) (x : CoreIn) (c : Ctl) (s : State), s.ctl.live = true → Ctl.Accesses m a z k true x s.ctl c →
    c.busTarget m a z true = .ddr o → leBytes z d = l → 0 < z → o % 64 + z ≤ 64 → z ≤ 8 →
    (s.mem.poison.contains (o / 64) = false →
      Gives (.defaultTargetAccess m a z true d k [] x) s { s with mem := s.mem.ddrWrite o l, ctl := { c.breakResv m a z with answer := .data 0 } } ∧
      Completes (.defaultTargetAccess m a z true d k [.ddr (o / 64) true] x) s (fun t => t.mem = (s.mem.poisonLine (o / 64)).ddrWrite o l ∧
        t.mem.poison.contains (o / 64) = true ∧ t.ctl.answer = .data 0 ∧ t.ctl.evBit 0x04C 1 = true) ∧
      Completes (.defaultTargetAccess m a z true d k [.ddr (o / 64) false] x) s (fun t => t.mem = s.mem.ddrWrite o l ∧
        t.ctl.answer = .data 0 ∧ t.ctl.evBit 0x04C 0 = true)) ∧
    (s.mem.poison.contains (o / 64) = true → Completes (.defaultTargetAccess m a z true d k [] x) s (fun t => t.mem = s.mem.ddrWrite o l ∧
      t.mem.poison.contains (o / 64) = true ∧ t.ctl.answer = .data 0 ∧ t.ctl.evBit 0x04C 1 = true))) ∧
  (∀ (m a z d k o b n : Nat) (x : CoreIn) (c : Ctl) (s : State), s.ctl.live = true → Ctl.Accesses m a z k false x s.ctl c → o ≤ b → b < o + z →
    (∀ q ∈ [(Target.spad o, ParityFault.spad b true), (.sram o, .sram b true)], c.busTarget m a z false = q.1 →
      Completes (.defaultTargetAccess m a z false d k [q.2] x) s (fun t =>
        State.Refused m a 1 [0x049] [R.SPM_PAR_CNT, R.SPM_PAR_LAST, R.SPM_PAR_LAST_M] { s with ctl := c } t ∧ t.ctl.evBit 0x049 1 = true)) ∧
    (∀ q ∈ [(Target.spad o, ParityFault.spad b false, leNat (tbytes s.mem.spad o z)), (.sram o, .sram b false, leNat (tbytes s.mem.sram o z))],
      c.busTarget m a z false = q.1 → Completes (.defaultTargetAccess m a z false d k [q.2.1] x) s (fun t =>
        State.IsBut [0x049] [R.SPM_PAR_CNT] { s with ctl := { c with answer := .data q.2.2 } } t ∧ t.ctl.evBit 0x049 2 = true)) ∧
    (c.busTarget m a z false = .lmem n o → Completes (.defaultTargetAccess m a z false d k [.coreMem n b true] x) s (fun t =>
      State.Refused m a 1 [0x048] [R.CPX_CORE_STAT n] { s with ctl := c } t ∧ t.ctl.evBit 0x048 0 = true)) ∧
    (∀ f, c.busTarget m a z false = .ddr o → ((f = [.ddr (b / 64) true] ∧ s.mem.poison = []) ∨ (f = [] ∧ s.mem.poison.contains (b / 64) = true)) →
      Completes (.defaultTargetAccess m a z false d k f x) s (fun t =>
        State.Refused m a 1 [0x04C] [R.MEM_CNT_POISON, R.MEM_POISON_ADDR, R.MEM_POISON_INFO] { s with ctl := c } t ∧ t.ctl.evBit 0x04C 1 = true))) ∧
  (∀ (b o k : Nat) (e : List Bool) (u : Bool) (d : List Byte) (f : List ParityFault) (s : State), s.ctl.timed = true →
    s.ctl.on F.HST_STAT_LINK_UP = true → s.ctl.hostSplit b o e u = none →
    Gives (.hostReadRequest b o e u k f) s { s with ctl := { s.ctl with answer := .unsupported } } ∧
    Gives (.hostWriteRequest b o e d u k f) s { s with ctl := { s.ctl with answer := .unsupported } }) ∧
  (∀ (p k : Nat) (d : List Byte) (f : List ParityFault) (c : Ctl) (s : State), s.ctl.timed = true → s.ctl.on F.HST_STAT_LINK_UP = true →
    s.ctl.get F.HST_STAT_DSTATE = 0 → s.ctl.on F.HST_STAT_MSE = true → s.ctl.advTo k = c → p ∈ allPages → p ≠ 0x012 → d.length = 4 →
    Gives (.hostReadRequest 0 (R.HDR_SCRATCH p) [true, true, true, true] false k f) s { s with ctl := { c with
      answer := .bytes (leBytes 4 (s.ctl.reg (R.HDR_SCRATCH p)).toNat) } } ∧
    Completes (.hostWriteRequest 0 (R.HDR_SCRATCH p) [true, true, true, true] d false k f) s (fun t =>
      State.IsRegs [R.HDR_SCRATCH p] { s with ctl := { c with answer := .none } } t ∧ t.ctl.reg (R.HDR_SCRATCH p) = BitVec.ofNat 32 (leNat d))) ∧
  (∀ (o k : Nat) (e : List Bool) (d : List Byte) (f : List ParityFault) (s : State), s.ctl.timed = true → s.ctl.on F.HST_STAT_LINK_UP = true →
    s.ctl.get F.HST_STAT_DSTATE = 0 → s.ctl.on F.HST_STAT_MSE = true → o % 4 = 0 → o + 4 ≤ 0x1000000 → e.length = 4 → true ∈ e → false ∈ e →
    Completes (.hostReadRequest 0 o e false k f) s (fun t =>
      State.Refused 4 (0x20000000 + o) (if regExists (o / 0x1000) (o % 0x1000) then 2 else 0) [0x008] [R.HST_CNT]
        { s with ctl := { s.ctl with aerStatus := putBit s.ctl.aerStatus 15 true } } t ∧ t.ctl.evBit 0x008 2 = true ∧
      t.ctl.get F.HST_CNT_RD_ABORT = min 65535 (s.ctl.get F.HST_CNT_RD_ABORT + 1)) ∧
    Completes (.hostWriteRequest 0 o e d false k f) s (fun t =>
      State.IsBut [0x04B] (R.HST_CNT :: dtRegs) { s with ctl := { s.ctl with answer := .none } } t ∧ t.ctl.get F.MTX_DT_LAST_INFO_CAUSE = (if regExists (o / 0x1000) (o % 0x1000) then 2 else 0) ∧
      t.ctl.get F.HST_CNT_WR_ERR = min 65535 (s.ctl.get F.HST_CNT_WR_ERR + 1)))

/-! ### Peripherals -/

/-- Outside reset, for a UART with EN 1: UART_DATA_WRITE gives an idle transmitter its byte, queues it while the FIFO holds fewer than 64, and else sets
TX_OVF. UART_BYTE_TRANSMIT, once the byte's frame has ended, sends the next, and before that does nothing. UART_BYTE_RECEIVE delivers a sound byte
while fewer than 64 wait, sets RX_OVF otherwise, and a byte with a framing error sets FERR, one with a parity error where parity is checked sets PERR,
and it is discarded; each error raises event 0 of the PER page. UART_DATA_READ answers the oldest byte with VALID and removes it, or 0. With EN 0
nothing is written or received. I2C_GO of an idle master with EN 1 and lengths of at most 16 sets BUSY, and otherwise ends at once with RESULT 7 and
event 2; I2C_DONE ends it with its RESULT and event 1 or 2, the bytes read, as far as a failed one came, in DATA. QSPI_GO, once PHASE is 5, sets BUSY,
or gives RESULT 2 for a command that is not supported; QSPI_DONE ends it with event 3 and a read's bytes in DATA. GPIO_CHANGE that the device sees on
an enabled input sets SEEN with event 4, and otherwise only the ball's level changes. CNT_CLR_ALL zeroes the counters and maxima of its page and
nothing else. A register command that names its master is refused with CAUSE 3 when that master may not access registers. Its clauses keep the model's
own choices of log entries 5, 42, 43, 54, 58, 75, 76, 77. (17_host_and_registers.md: Peripherals (R493 to R496); 17_host_and_registers.md: PER page;
17_host_and_registers.md: Register access (R480)) -/
def Obligations.PeripheralsAndCounters : Prop :=
  (∀ (u : Nat) (b : Byte) (t0 : Uart) (s : State), s.ctl.live = true → u < 2 → s.ctl.on (F.PER_UART_CTL_EN u) = true → s.ctl.uartOf u = t0 →
    (t0.sending = none → Gives (.uartDataWrite u b) s { s with ctl := s.ctl.setUart u { t0 with
      sending := some b, endAt := s.ctl.mtime + s.ctl.uartTicks u b } }) ∧
    (t0.sending.isSome = true → t0.tx.length < 64 → Gives (.uartDataWrite u b) s { s with ctl := s.ctl.setUart u { t0 with tx := t0.tx ++ [b] } }) ∧
    (t0.sending.isSome = true → 64 ≤ t0.tx.length → Completes (.uartDataWrite u b) s (fun t => s.IsBut [0x058] [R.PER_UART_STAT u] t ∧
      t.ctl.on (F.PER_UART_STAT_TX_OVF u) = true ∧ t.ctl.evBit 0x058 0 = true))) ∧
  (∀ (u n : Nat) (b : Byte) (c : Ctl), (c.uartFrame u b).length = n → c.uartTicks u b = (n * max 164 (c.get (F.PER_UART_CTL_DIV u)) * 10 + 31) / 32 ∧
    n = 10 + c.get (F.PER_UART_CTL_STOP2 u) + (if c.get (F.PER_UART_CTL_PARITY u) = 1 ∨ c.get (F.PER_UART_CTL_PARITY u) = 2 then 1 else 0)) ∧
  (∀ (u : Nat) (b : Byte) (f p : Bool) (s : State), s.ctl.on (F.PER_UART_CTL_EN u) = false →
    Gives (.uartDataWrite u b) s s ∧ Gives (.uartByteReceive u b f p) s s) ∧
  (∀ (u : Nat) (t0 : Uart) (s : State), s.ctl.timed = true → u < 2 → s.ctl.uartOf u = t0 →
    (∀ c, t0.sending.isSome = true → s.ctl.dueBy t0.endAt = true → s.ctl.advMoment t0.endAt = c →
      (t0.tx = [] → Gives (.uartByteTransmit u) s { s with ctl := c.setUart u { t0 with sending := none, endAt := c.mtime } }) ∧
      ∀ b l, t0.tx = b :: l → Gives (.uartByteTransmit u) s { s with ctl := c.setUart u { t0 with
        sending := some b, tx := l, endAt := c.mtime + c.uartTicks u b } }) ∧
    (s.ctl.dueBy t0.endAt = false → Gives (.uartByteTransmit u) s s) ∧
    (t0.sending = none → Gives (.uartByteTransmit u) s s)) ∧
  (∀ (u : Nat) (t0 : Uart) (s : State), s.ctl.live = true → u < 2 → s.ctl.uartOf u = t0 →
    (t0.rx = [] → Gives (.uartDataRead u) s { s with ctl := { s.ctl with answer := .data 0 } }) ∧
    (∀ b l, t0.rx = b :: l → Gives (.uartDataRead u) s { s with ctl := { s.ctl.setUart u { t0 with rx := l } with answer := .data (2 ^ 31 + b.toNat) } })) ∧
  (∀ (u : Nat) (b : Byte) (p : Bool) (t0 : Uart) (s : State), s.ctl.timed = true → u < 2 → s.ctl.on (F.PER_UART_CTL_EN u) = true → s.ctl.uartOf u = t0 →
    (t0.rx.length < 64 → Gives (.uartByteReceive u b false false) s { s with ctl := s.ctl.setUart u { t0 with rx := t0.rx ++ [b] } }) ∧
    (64 ≤ t0.rx.length → Completes (.uartByteReceive u b false false) s (fun t => s.IsBut [0x058] [R.PER_UART_STAT u] t ∧
      t.ctl.on (F.PER_UART_STAT_RX_OVF u) = true ∧ t.ctl.evBit 0x058 0 = true)) ∧
    Completes (.uartByteReceive u b true p) s (fun t => s.IsBut [0x058] [R.PER_UART_STAT u] t ∧ t.ctl.on (F.PER_UART_STAT_FERR u) = true ∧
      t.ctl.evBit 0x058 0 = true) ∧
    ((s.ctl.get (F.PER_UART_CTL_PARITY u) = 1 ∨ s.ctl.get (F.PER_UART_CTL_PARITY u) = 2) → ∀ q, Completes (.uartByteReceive u b q true) s (fun t =>
      s.IsBut [0x058] [R.PER_UART_STAT u] t ∧ t.ctl.on (F.PER_UART_STAT_PERR u) = true ∧ t.ctl.evBit 0x058 0 = true)) ∧
    (s.ctl.get (F.PER_UART_CTL_PARITY u) ≠ 1 → s.ctl.get (F.PER_UART_CTL_PARITY u) ≠ 2 → t0.rx.length < 64 →
      Gives (.uartByteReceive u b false true) s { s with ctl := s.ctl.setUart u { t0 with rx := t0.rx ++ [b] } })) ∧
  (∀ (i : Nat) (v : Word) (s : State), s.ctl.live = true → i < 4 → bit v.toNat 31 = true → s.ctl.on (F.PER_I2C_STAT_BUSY i) = false →
    (s.ctl.on (F.PER_I2C_CTL_EN i) = true → wGet v 12 8 ≤ 16 → wGet v 4 0 ≤ 16 → Completes (.i2cGo i v) s (fun t =>
      State.IsRegs [R.PER_I2C_STAT i] { s with ctl := { s.ctl with i2c := tput s.ctl.i2c i v } } t ∧ t.ctl.on (F.PER_I2C_STAT_BUSY i) = true)) ∧
    ((s.ctl.on (F.PER_I2C_CTL_EN i) = false ∨ 16 < wGet v 12 8 ∨ 16 < wGet v 4 0) → Completes (.i2cGo i v) s (fun t =>
      s.IsBut [0x058] [R.PER_I2C_STAT i] t ∧ t.ctl.on (F.PER_I2C_STAT_BUSY i) = false ∧ t.ctl.get (F.PER_I2C_STAT_RESULT i) = 7 ∧ t.ctl.evBit 0x058 2 = true))) ∧
  (∀ (i : Nat) (v : Word) (s : State), (s.ctl.on (F.PER_I2C_STAT_BUSY i) = true ∨ bit v.toNat 31 = false) → Gives (.i2cGo i v) s s) ∧
  (∀ (i r n : Nat) (l : List Byte) (v : Word) (s : State), s.ctl.timed = true → i < 4 → 1 ≤ r → r ≤ 6 → tfind s.ctl.i2c i = some v →
    wGet v 12 8 ≤ 16 →
    Completes (.i2cDone i r n l) s fun t => State.IsBut [0x058] (R.PER_I2C_STAT i :: (List.range 4).map (R.PER_I2C_DATA i)) { s with
        ctl := { s.ctl with i2c := tdel s.ctl.i2c i } } t ∧ t.ctl.on (F.PER_I2C_STAT_BUSY i) = false ∧ t.ctl.get (F.PER_I2C_STAT_RESULT i) = r ∧
      t.ctl.evBit 0x058 (if r = 1 then 1 else 2) = true ∧
      (r = 1 → t.ctl.get (F.PER_I2C_STAT_ACKED i) = wGet v 4 0 ∧ ∀ j, j < wGet v 12 8 →
        bits (t.ctl.reg (R.PER_I2C_DATA i (j / 4))).toNat (31 - 8 * (j % 4)) (24 - 8 * (j % 4)) = (lget l j 0).toNat) ∧
      (r ≠ 1 → t.ctl.get (F.PER_I2C_STAT_ACKED i) = min n (wGet v 4 0) % 32 ∧ ∀ j, j < 16 →
        bits (t.ctl.reg (R.PER_I2C_DATA i (j / 4))).toNat (31 - 8 * (j % 4)) (24 - 8 * (j % 4)) =
          if j < l.length ∧ j < wGet v 12 8 then (lget l j 0).toNat
          else bits (s.ctl.reg (R.PER_I2C_DATA i (j / 4))).toNat (31 - 8 * (j % 4)) (24 - 8 * (j % 4)))) ∧
  (∀ (i r n : Nat) (l : List Byte) (s : State), tfind s.ctl.i2c i = none → Gives (.i2cDone i r n l) s s) ∧
  (∀ (v : Word) (s : State), s.ctl.live = true → bit v.toNat 31 = true → s.ctl.on F.PER_QSPI_STAT_BUSY = false → s.ctl.get F.TOP_BOOT_STAT_PHASE = 5 →
    (wGet v 29 28 < 3 → wGet v 27 26 < 3 → wGet v 16 8 ≤ 256 → Completes (.qspiGo v) s (fun t =>
      State.IsRegs [R.PER_QSPI_STAT] { s with ctl := { s.ctl with qspi := some v } } t ∧ t.ctl.on F.PER_QSPI_STAT_BUSY = true ∧ t.ctl.get F.PER_QSPI_STAT_RESULT = 0)) ∧
    ((wGet v 29 28 = 3 ∨ wGet v 27 26 = 3 ∨ 256 < wGet v 16 8) → Completes (.qspiGo v) s (fun t => s.IsRegs [R.PER_QSPI_STAT] t ∧
      t.ctl.on F.PER_QSPI_STAT_BUSY = false ∧ t.ctl.get F.PER_QSPI_STAT_RESULT = 2))) ∧
  (∀ (v : Word) (s : State), (bit v.toNat 31 = false ∨ s.ctl.on F.PER_QSPI_STAT_BUSY = true ∨ s.ctl.get F.TOP_BOOT_STAT_PHASE ≠ 5) → Gives (.qspiGo v) s s) ∧
  (∀ (l : List Byte) (v : Word) (s : State), s.ctl.timed = true → s.ctl.qspi = some v → wGet v 16 8 ≤ 256 →
    Completes (.qspiDone l) s fun t => State.IsBut [0x058] (R.PER_QSPI_STAT :: (List.range 64).map R.PER_QSPI_DATA) { s with
        ctl := { s.ctl with qspi := none } } t ∧ t.ctl.on F.PER_QSPI_STAT_BUSY = false ∧ t.ctl.get F.PER_QSPI_STAT_RESULT = 1 ∧ t.ctl.evBit 0x058 3 = true ∧
      (bit v.toNat 30 = true → ∀ j, t.ctl.reg (R.PER_QSPI_DATA j) = s.ctl.reg (R.PER_QSPI_DATA j)) ∧
      (bit v.toNat 30 = false → ∀ j, j < wGet v 16 8 →
        bits (t.ctl.reg (R.PER_QSPI_DATA (j / 4))).toNat (31 - 8 * (j % 4)) (24 - 8 * (j % 4)) = (lget l j 0).toNat)) ∧
  (∀ (l : List Byte) (s : State), s.ctl.qspi = none → Gives (.qspiDone l) s s) ∧
  (∀ (n : Nat) (h : Bool) (s : State), n < 16 →
    (s.ctl.timed = true → s.ctl.onBit F.PER_GPIO_EDGE_EN n = true → s.ctl.onBit F.PER_GPIO_OUT_OE n = false → bit s.ctl.gpioIn n ≠ h →
      Completes (.gpioChange n h) s (fun t => State.IsBut [0x058] [R.PER_GPIO_EDGE] { s with ctl := { s.ctl with gpioIn := putBit s.ctl.gpioIn n h } } t ∧
        (∀ i, i < 16 → t.ctl.onBit F.PER_GPIO_EDGE_SEEN i = (decide (i = n) || s.ctl.onBit F.PER_GPIO_EDGE_SEEN i)) ∧ t.ctl.evBit 0x058 4 = true)) ∧
    ((s.ctl.timed = false ∨ s.ctl.onBit F.PER_GPIO_EDGE_EN n = false ∨ s.ctl.onBit F.PER_GPIO_OUT_OE n = true) →
      Gives (.gpioChange n h) s { s with ctl := { s.ctl with gpioIn := putBit s.ctl.gpioIn n h } })) ∧
  (∀ (p : Nat) (s : State), s.ctl.live = true → Completes (.cntClrAll p) s fun t => s.IsRegs (countersOf p ++ (maximaOf p).map Fld.addr) t ∧
    (∀ a ∈ countersOf p, t.ctl.reg a = 0) ∧ ∀ f ∈ maximaOf p, t.ctl.get f = 0) ∧
  (∀ (m g op k n q a : Nat) (lg f : Bool) (v : Word) (s : State), s.ctl.live = true → 5 ≤ m →
    (∀ i ∈ [Instr.pgApply m lg g f, .pgLockout m lg g, .pgForcedSwitch m lg g, .pgManualSwitch m lg g, .pgClear m lg g, .pgCmdUnknown m op lg g],
      Completes i s (State.Refused m (0x20000000 + R.PGS_CMD) 3 [] [] s)) ∧
    (∀ i ∈ [Instr.keyLoad m v, .keyZeroise m n], Completes i s (State.Refused m (0x20000000 + R.CIP_KEY_CTL) 3 [] [] s)) ∧
    Completes (.latchRelease m k n) s (State.Refused m (0x20000000 + R.CIP_LATCH) 3 [] [] s) ∧
    Completes (.captureRead m a k) s (State.Refused m (0x20000000 + a) 3 [] [] s) ∧
    Completes (.txqPop m q) s (State.Refused m (0x20000000 + R.TBS_TXQ_W0 q) 3 [] [] s) ∧
    Completes (.mfsSelect m n) s (State.Refused m (0x20000000 + R.TBS_MFS_SEL) 3 [] [] s))
end

