-- ==== Sys2Proof/Laws/Bits.lean ====
section
/-! SUPPORT. Laws of bit fields: what a field reads after it, or another one, is written; and how many bytes spell a number. -/

namespace Sys2Proof.Machine

-- One thread: as one text with many theorems, the package asks for more threads than the check's memory limit grants.
set_option Elab.async false

/-- A field written splits the word into the bits above, the field and the bits below. -/
theorem putBits_eq (w hi lo v : Nat) :
    putBits w hi lo v =
      w / 2 ^ lo / 2 ^ (hi + 1 - lo) * 2 ^ (hi + 1 - lo) * 2 ^ lo + (v % 2 ^ (hi + 1 - lo)) * 2 ^ lo + w % 2 ^ lo := by
  simp only [putBits, bits, Nat.shiftLeft_eq, Nat.shiftRight_eq_div_pow]
  generalize hk : hi + 1 - lo = k
  have h1 : w = w / 2 ^ lo * 2 ^ lo + w % 2 ^ lo := by rw [Nat.mul_comm]; exact (Nat.div_add_mod w (2 ^ lo)).symm
  have h2 : w / 2 ^ lo = w / 2 ^ lo / 2 ^ k * 2 ^ k + w / 2 ^ lo % 2 ^ k := by
    rw [Nat.mul_comm (w / 2 ^ lo / 2 ^ k)]; exact (Nat.div_add_mod (w / 2 ^ lo) (2 ^ k)).symm
  have h3 : w / 2 ^ lo * 2 ^ lo = w / 2 ^ lo / 2 ^ k * 2 ^ k * 2 ^ lo + w / 2 ^ lo % 2 ^ k * 2 ^ lo := by
    conv => lhs; rw [h2]
    rw [Nat.add_mul]
  omega

/-- A field reads as it was written, cut to its width. -/
@[simp] theorem bits_putBits_same (w hi lo v : Nat) : bits (putBits w hi lo v) hi lo = v % 2 ^ (hi + 1 - lo) := by
  rw [putBits_eq]
  simp only [bits, Nat.shiftRight_eq_div_pow]
  generalize hi + 1 - lo = k
  have hp : 0 < 2 ^ lo := Nat.two_pow_pos lo
  have : (w / 2 ^ lo / 2 ^ k * 2 ^ k * 2 ^ lo + v % 2 ^ k * 2 ^ lo + w % 2 ^ lo) / 2 ^ lo = w / 2 ^ lo / 2 ^ k * 2 ^ k + v % 2 ^ k := by
    rw [← Nat.add_mul, Nat.add_comm, Nat.add_mul_div_right _ _ hp, Nat.div_eq_of_lt (Nat.mod_lt _ hp), Nat.zero_add]
  rw [this, Nat.mul_comm, Nat.mul_add_mod, Nat.mod_mod]

/-- Every bit of a word after a field is written. -/
theorem testBit_putBits (w hi lo v i : Nat) (h : lo ≤ hi) :
    (putBits w hi lo v).testBit i = if lo ≤ i ∧ i ≤ hi then v.testBit (i - lo) else w.testBit i := by
  rw [putBits_eq]
  obtain ⟨k, hk⟩ : ∃ k, hi + 1 - lo = k := ⟨_, rfl⟩
  rw [hk]
  have hlow : w % 2 ^ lo < 2 ^ lo := Nat.mod_lt _ (Nat.two_pow_pos lo)
  have hv : v % 2 ^ k < 2 ^ k := Nat.mod_lt _ (Nat.two_pow_pos k)
  have e : w / 2 ^ lo / 2 ^ k * 2 ^ k * 2 ^ lo + v % 2 ^ k * 2 ^ lo + w % 2 ^ lo =
      2 ^ lo * (2 ^ k * (w / 2 ^ lo / 2 ^ k) + v % 2 ^ k) + w % 2 ^ lo := by
    rw [Nat.mul_add, Nat.mul_comm (2 ^ k), Nat.mul_comm (2 ^ lo), Nat.mul_comm (2 ^ lo)]
  rw [e, Nat.testBit_two_pow_mul_add _ hlow]
  by_cases hi1 : i < lo
  · rw [if_pos hi1, if_neg (by omega), Nat.testBit_mod_two_pow]; simp [hi1]
  · rw [if_neg hi1, Nat.testBit_two_pow_mul_add _ hv]
    by_cases hi2 : i - lo < k
    · rw [if_pos hi2, if_pos (by omega), Nat.testBit_mod_two_pow]; simp [hi2]
    · rw [if_neg hi2, if_neg (by omega), Nat.testBit_div_two_pow, Nat.testBit_div_two_pow]
      congr 1; omega

/-- Every bit of a field. -/
theorem testBit_bits (w hi lo i : Nat) : (bits w hi lo).testBit i = (decide (i < hi + 1 - lo) && w.testBit (i + lo)) := by
  simp only [bits, Nat.testBit_mod_two_pow, Nat.testBit_shiftRight, Nat.add_comm lo i]

/-- A field reads as before when a field that does not overlap it is written. -/
theorem bits_putBits_disj (w hi lo v hi' lo' : Nat) (h : lo ≤ hi) (hd : hi' < lo ∨ hi < lo') :
    bits (putBits w hi lo v) hi' lo' = bits w hi' lo' := by
  apply Nat.eq_of_testBit_eq
  intro i
  rw [testBit_bits, testBit_bits, testBit_putBits _ _ _ _ _ h]
  by_cases hc : i < hi' + 1 - lo'
  · rw [if_neg (by omega)]
  · simp [hc]

/-- A field written in a word of 32 bits leaves 32 bits. -/
theorem putBits_lt (w hi lo v : Nat) (h : lo ≤ hi) (hw : w < 2 ^ 32) (hh : hi < 32) : putBits w hi lo v < 2 ^ 32 := by
  apply Nat.lt_pow_two_of_testBit
  intro i hi'
  rw [testBit_putBits _ _ _ _ _ h, if_neg (by omega)]
  exact Nat.testBit_lt_two_pow (Nat.lt_of_lt_of_le hw (Nat.pow_le_pow_right (by omega) hi'))

/-- A register word after a field is written, as a number. -/
theorem toNat_wPut (w : Word) (hi lo v : Nat) (h : lo ≤ hi) (hh : hi < 32) : (wPut w hi lo v).toNat = putBits w.toNat hi lo v := by
  rw [wPut, BitVec.toNat_ofNat]
  exact Nat.mod_eq_of_lt (putBits_lt _ _ _ _ h w.isLt hh)

/-- A field of a register word reads as it was written. -/
theorem wGet_wPut_same (w : Word) (hi lo v : Nat) (h : lo ≤ hi) (hh : hi < 32) : wGet (wPut w hi lo v) hi lo = v % 2 ^ (hi + 1 - lo) := by
  rw [wGet, toNat_wPut w hi lo v h hh, bits_putBits_same]

/-- A field of a register word reads as before when a field that does not overlap it is written. -/
theorem wGet_wPut_disj (w : Word) (hi lo v hi' lo' : Nat) (h : lo ≤ hi) (hh : hi < 32) (hd : hi' < lo ∨ hi < lo') :
    wGet (wPut w hi lo v) hi' lo' = wGet w hi' lo' := by
  rw [wGet, toNat_wPut w hi lo v h hh, bits_putBits_disj _ _ _ _ _ _ h hd, wGet]

/-- A number spelled in `n` bytes gives `n` bytes. -/
@[simp] theorem length_beBytes (n v : Nat) : (beBytes n v).length = n := by
  induction n with
  | zero => rfl
  | succ n ih => simp [beBytes, ih]

end Sys2Proof.Machine
end

