-- ==== Sys2Proof/Laws/State.lean ====
section
/-! SUPPORT. What each field of the state reads after the updates that every family shares: `State.mapCtl`, `Ctl.setReg`, `Ctl.set`
and `Ctl.setHart`. -/

namespace Sys2Proof.Machine

-- One thread: as one text with many theorems, the package asks for more threads than the check's memory limit grants.
set_option Elab.async false

@[simp] theorem State.mapCtl_pending (g : Ctl → Ctl) (s : State) : (s.mapCtl g).pending = s.pending := rfl
@[simp] theorem State.mapCtl_mem (g : Ctl → Ctl) (s : State) : (s.mapCtl g).mem = s.mem := rfl
@[simp] theorem State.mapCtl_xc (g : Ctl → Ctl) (s : State) : (s.mapCtl g).xc = s.xc := rfl
@[simp] theorem State.mapCtl_dp (g : Ctl → Ctl) (s : State) : (s.mapCtl g).dp = s.dp := rfl
@[simp] theorem State.mapCtl_ctl (g : Ctl → Ctl) (s : State) : (s.mapCtl g).ctl = g s.ctl := rfl
@[simp] theorem Ctl.setReg_regs (a : Nat) (w : Word) (c : Ctl) : (c.setReg a w).regs = tput c.regs a w := rfl
@[simp] theorem Ctl.setReg_held (a : Nat) (w : Word) (c : Ctl) : (c.setReg a w).held = c.held := rfl
@[simp] theorem Ctl.setReg_heldXoLost (a : Nat) (w : Word) (c : Ctl) : (c.setReg a w).heldXoLost = c.heldXoLost := rfl
@[simp] theorem Ctl.setReg_perstSeen (a : Nat) (w : Word) (c : Ctl) : (c.setReg a w).perstSeen = c.perstSeen := rfl
@[simp] theorem Ctl.setReg_perstLow (a : Nat) (w : Word) (c : Ctl) : (c.setReg a w).perstLow = c.perstLow := rfl
@[simp] theorem Ctl.setReg_mode (a : Nat) (w : Word) (c : Ctl) : (c.setReg a w).mode = c.mode := rfl
@[simp] theorem Ctl.setReg_svc (a : Nat) (w : Word) (c : Ctl) : (c.setReg a w).svc = c.svc := rfl
@[simp] theorem Ctl.setReg_modePend (a : Nat) (w : Word) (c : Ctl) : (c.setReg a w).modePend = c.modePend := rfl
@[simp] theorem Ctl.setReg_leftBoot (a : Nat) (w : Word) (c : Ctl) : (c.setReg a w).leftBoot = c.leftBoot := rfl
@[simp] theorem Ctl.setReg_timing (a : Nat) (w : Word) (c : Ctl) : (c.setReg a w).timing = c.timing := rfl
@[simp] theorem Ctl.setReg_xoLost (a : Nat) (w : Word) (c : Ctl) : (c.setReg a w).xoLost = c.xoLost := rfl
@[simp] theorem Ctl.setReg_fn (a : Nat) (w : Word) (c : Ctl) : (c.setReg a w).fn = c.fn := rfl
@[simp] theorem Ctl.setReg_tick (a : Nat) (w : Word) (c : Ctl) : (c.setReg a w).tick = c.tick := rfl
@[simp] theorem Ctl.setReg_kick (a : Nat) (w : Word) (c : Ctl) : (c.setReg a w).kick = c.kick := rfl
@[simp] theorem Ctl.setReg_wdTimeout (a : Nat) (w : Word) (c : Ctl) : (c.setReg a w).wdTimeout = c.wdTimeout := rfl
@[simp] theorem Ctl.setReg_wdEnd (a : Nat) (w : Word) (c : Ctl) : (c.setReg a w).wdEnd = c.wdEnd := rfl
@[simp] theorem Ctl.setReg_romHalt (a : Nat) (w : Word) (c : Ctl) : (c.setReg a w).romHalt = c.romHalt := rfl
@[simp] theorem Ctl.setReg_sealRec (a : Nat) (w : Word) (c : Ctl) : (c.setReg a w).sealRec = c.sealRec := rfl
@[simp] theorem Ctl.setReg_record (a : Nat) (w : Word) (c : Ctl) : (c.setReg a w).record = c.record := rfl
@[simp] theorem Ctl.setReg_tapInstr (a : Nat) (w : Word) (c : Ctl) : (c.setReg a w).tapInstr = c.tapInstr := rfl
@[simp] theorem Ctl.setReg_tapCells (a : Nat) (w : Word) (c : Ctl) : (c.setReg a w).tapCells = c.tapCells := rfl
@[simp] theorem Ctl.setReg_recovFlagClear (a : Nat) (w : Word) (c : Ctl) : (c.setReg a w).recovFlagClear = c.recovFlagClear := rfl
@[simp] theorem Ctl.setReg_tb (a : Nat) (w : Word) (c : Ctl) : (c.setReg a w).tb = c.tb := rfl
@[simp] theorem Ctl.setReg_rx (a : Nat) (w : Word) (c : Ctl) : (c.setReg a w).rx = c.rx := rfl
@[simp] theorem Ctl.setReg_bonds (a : Nat) (w : Word) (c : Ctl) : (c.setReg a w).bonds = c.bonds := rfl
@[simp] theorem Ctl.setReg_tx (a : Nat) (w : Word) (c : Ctl) : (c.setReg a w).tx = c.tx := rfl
@[simp] theorem Ctl.setReg_oh (a : Nat) (w : Word) (c : Ctl) : (c.setReg a w).oh = c.oh := rfl
@[simp] theorem Ctl.setReg_osp (a : Nat) (w : Word) (c : Ctl) : (c.setReg a w).osp = c.osp := rfl
@[simp] theorem Ctl.setReg_swap (a : Nat) (w : Word) (c : Ctl) : (c.setReg a w).swap = c.swap := rfl
@[simp] theorem Ctl.setReg_dmRun (a : Nat) (w : Word) (c : Ctl) : (c.setReg a w).dmRun = c.dmRun := rfl
@[simp] theorem Ctl.setReg_dmOk (a : Nat) (w : Word) (c : Ctl) : (c.setReg a w).dmOk = c.dmOk := rfl
@[simp] theorem Ctl.setReg_ovrFn (a : Nat) (w : Word) (c : Ctl) : (c.setReg a w).ovrFn = c.ovrFn := rfl
@[simp] theorem Ctl.setReg_ovrRun (a : Nat) (w : Word) (c : Ctl) : (c.setReg a w).ovrRun = c.ovrRun := rfl
@[simp] theorem Ctl.setReg_lastPennant (a : Nat) (w : Word) (c : Ctl) : (c.setReg a w).lastPennant = c.lastPennant := rfl
@[simp] theorem Ctl.setReg_answer (a : Nat) (w : Word) (c : Ctl) : (c.setReg a w).answer = c.answer := rfl
@[simp] theorem Ctl.setReg_mtime (a : Nat) (w : Word) (c : Ctl) : (c.setReg a w).mtime = c.mtime := rfl
@[simp] theorem Ctl.setReg_mgn (a : Nat) (w : Word) (c : Ctl) : (c.setReg a w).mgn = c.mgn := rfl
@[simp] theorem Ctl.setReg_groups (a : Nat) (w : Word) (c : Ctl) : (c.setReg a w).groups = c.groups := rfl
@[simp] theorem Ctl.setReg_pgQueue (a : Nat) (w : Word) (c : Ctl) : (c.setReg a w).pgQueue = c.pgQueue := rfl
@[simp] theorem Ctl.setReg_subst (a : Nat) (w : Word) (c : Ctl) : (c.setReg a w).subst = c.subst := rfl
@[simp] theorem Ctl.setReg_substNext (a : Nat) (w : Word) (c : Ctl) : (c.setReg a w).substNext = c.substNext := rfl
@[simp] theorem Ctl.setReg_rlTrig (a : Nat) (w : Word) (c : Ctl) : (c.setReg a w).rlTrig = c.rlTrig := rfl
@[simp] theorem Ctl.setReg_hl (a : Nat) (w : Word) (c : Ctl) : (c.setReg a w).hl = c.hl := rfl
@[simp] theorem Ctl.setReg_rl (a : Nat) (w : Word) (c : Ctl) : (c.setReg a w).rl = c.rl := rfl
@[simp] theorem Ctl.setReg_pl (a : Nat) (w : Word) (c : Ctl) : (c.setReg a w).pl = c.pl := rfl
@[simp] theorem Ctl.setReg_cfgWait (a : Nat) (w : Word) (c : Ctl) : (c.setReg a w).cfgWait = c.cfgWait := rfl
@[simp] theorem Ctl.setReg_hlLast (a : Nat) (w : Word) (c : Ctl) : (c.setReg a w).hlLast = c.hlLast := rfl
@[simp] theorem Ctl.setReg_hlDrop (a : Nat) (w : Word) (c : Ctl) : (c.setReg a w).hlDrop = c.hlDrop := rfl
@[simp] theorem Ctl.setReg_tmu (a : Nat) (w : Word) (c : Ctl) : (c.setReg a w).tmu = c.tmu := rfl
@[simp] theorem Ctl.setReg_stretch (a : Nat) (w : Word) (c : Ctl) : (c.setReg a w).stretch = c.stretch := rfl
@[simp] theorem Ctl.setReg_stretchNext (a : Nat) (w : Word) (c : Ctl) : (c.setReg a w).stretchNext = c.stretchNext := rfl
@[simp] theorem Ctl.setReg_pair (a : Nat) (w : Word) (c : Ctl) : (c.setReg a w).pair = c.pair := rfl
@[simp] theorem Ctl.setReg_latch (a : Nat) (w : Word) (c : Ctl) : (c.setReg a w).latch = c.latch := rfl
@[simp] theorem Ctl.setReg_cip (a : Nat) (w : Word) (c : Ctl) : (c.setReg a w).cip = c.cip := rfl
@[simp] theorem Ctl.setReg_assembling (a : Nat) (w : Word) (c : Ctl) : (c.setReg a w).assembling = c.assembling := rfl
@[simp] theorem Ctl.setReg_mbx (a : Nat) (w : Word) (c : Ctl) : (c.setReg a w).mbx = c.mbx := rfl
@[simp] theorem Ctl.setReg_mtcLo (a : Nat) (w : Word) (c : Ctl) : (c.setReg a w).mtcLo = c.mtcLo := rfl
@[simp] theorem Ctl.setReg_starvedAt (a : Nat) (w : Word) (c : Ctl) : (c.setReg a w).starvedAt = c.starvedAt := rfl
@[simp] theorem Ctl.setReg_harts (a : Nat) (w : Word) (c : Ctl) : (c.setReg a w).harts = c.harts := rfl
@[simp] theorem Ctl.setReg_coreWfi (a : Nat) (w : Word) (c : Ctl) : (c.setReg a w).coreWfi = c.coreWfi := rfl
@[simp] theorem Ctl.setReg_coreDbg (a : Nat) (w : Word) (c : Ctl) : (c.setReg a w).coreDbg = c.coreDbg := rfl
@[simp] theorem Ctl.setReg_ev (a : Nat) (w : Word) (c : Ctl) : (c.setReg a w).ev = c.ev := rfl
@[simp] theorem Ctl.setReg_free (a : Nat) (w : Word) (c : Ctl) : (c.setReg a w).free = c.free := rfl
@[simp] theorem Ctl.setReg_pmc (a : Nat) (w : Word) (c : Ctl) : (c.setReg a w).pmc = c.pmc := rfl
@[simp] theorem Ctl.setReg_pmAcc (a : Nat) (w : Word) (c : Ctl) : (c.setReg a w).pmAcc = c.pmAcc := rfl
@[simp] theorem Ctl.setReg_pm (a : Nat) (w : Word) (c : Ctl) : (c.setReg a w).pm = c.pm := rfl
@[simp] theorem Ctl.setReg_life (a : Nat) (w : Word) (c : Ctl) : (c.setReg a w).life = c.life := rfl
@[simp] theorem Ctl.setReg_swbDue (a : Nat) (w : Word) (c : Ctl) : (c.setReg a w).swbDue = c.swbDue := rfl
@[simp] theorem Ctl.setReg_swbLate (a : Nat) (w : Word) (c : Ctl) : (c.setReg a w).swbLate = c.swbLate := rfl
@[simp] theorem Ctl.setReg_subsys (a : Nat) (w : Word) (c : Ctl) : (c.setReg a w).subsys = c.subsys := rfl
@[simp] theorem Ctl.setReg_bar0 (a : Nat) (w : Word) (c : Ctl) : (c.setReg a w).bar0 = c.bar0 := rfl
@[simp] theorem Ctl.setReg_bar2 (a : Nat) (w : Word) (c : Ctl) : (c.setReg a w).bar2 = c.bar2 := rfl
@[simp] theorem Ctl.setReg_aerStatus (a : Nat) (w : Word) (c : Ctl) : (c.setReg a w).aerStatus = c.aerStatus := rfl
@[simp] theorem Ctl.setReg_uart (a : Nat) (w : Word) (c : Ctl) : (c.setReg a w).uart = c.uart := rfl
@[simp] theorem Ctl.setReg_i2c (a : Nat) (w : Word) (c : Ctl) : (c.setReg a w).i2c = c.i2c := rfl
@[simp] theorem Ctl.setReg_qspi (a : Nat) (w : Word) (c : Ctl) : (c.setReg a w).qspi = c.qspi := rfl
@[simp] theorem Ctl.setReg_gpioIn (a : Nat) (w : Word) (c : Ctl) : (c.setReg a w).gpioIn = c.gpioIn := rfl
@[simp] theorem Ctl.set_held (a : Fld) (v : Nat) (c : Ctl) : (c.set a v).held = c.held := rfl
@[simp] theorem Ctl.set_heldXoLost (a : Fld) (v : Nat) (c : Ctl) : (c.set a v).heldXoLost = c.heldXoLost := rfl
@[simp] theorem Ctl.set_perstSeen (a : Fld) (v : Nat) (c : Ctl) : (c.set a v).perstSeen = c.perstSeen := rfl
@[simp] theorem Ctl.set_perstLow (a : Fld) (v : Nat) (c : Ctl) : (c.set a v).perstLow = c.perstLow := rfl
@[simp] theorem Ctl.set_mode (a : Fld) (v : Nat) (c : Ctl) : (c.set a v).mode = c.mode := rfl
@[simp] theorem Ctl.set_svc (a : Fld) (v : Nat) (c : Ctl) : (c.set a v).svc = c.svc := rfl
@[simp] theorem Ctl.set_modePend (a : Fld) (v : Nat) (c : Ctl) : (c.set a v).modePend = c.modePend := rfl
@[simp] theorem Ctl.set_leftBoot (a : Fld) (v : Nat) (c : Ctl) : (c.set a v).leftBoot = c.leftBoot := rfl
@[simp] theorem Ctl.set_timing (a : Fld) (v : Nat) (c : Ctl) : (c.set a v).timing = c.timing := rfl
@[simp] theorem Ctl.set_xoLost (a : Fld) (v : Nat) (c : Ctl) : (c.set a v).xoLost = c.xoLost := rfl
@[simp] theorem Ctl.set_fn (a : Fld) (v : Nat) (c : Ctl) : (c.set a v).fn = c.fn := rfl
@[simp] theorem Ctl.set_tick (a : Fld) (v : Nat) (c : Ctl) : (c.set a v).tick = c.tick := rfl
@[simp] theorem Ctl.set_kick (a : Fld) (v : Nat) (c : Ctl) : (c.set a v).kick = c.kick := rfl
@[simp] theorem Ctl.set_wdTimeout (a : Fld) (v : Nat) (c : Ctl) : (c.set a v).wdTimeout = c.wdTimeout := rfl
@[simp] theorem Ctl.set_wdEnd (a : Fld) (v : Nat) (c : Ctl) : (c.set a v).wdEnd = c.wdEnd := rfl
@[simp] theorem Ctl.set_romHalt (a : Fld) (v : Nat) (c : Ctl) : (c.set a v).romHalt = c.romHalt := rfl
@[simp] theorem Ctl.set_sealRec (a : Fld) (v : Nat) (c : Ctl) : (c.set a v).sealRec = c.sealRec := rfl
@[simp] theorem Ctl.set_record (a : Fld) (v : Nat) (c : Ctl) : (c.set a v).record = c.record := rfl
@[simp] theorem Ctl.set_tapInstr (a : Fld) (v : Nat) (c : Ctl) : (c.set a v).tapInstr = c.tapInstr := rfl
@[simp] theorem Ctl.set_tapCells (a : Fld) (v : Nat) (c : Ctl) : (c.set a v).tapCells = c.tapCells := rfl
@[simp] theorem Ctl.set_recovFlagClear (a : Fld) (v : Nat) (c : Ctl) : (c.set a v).recovFlagClear = c.recovFlagClear := rfl
@[simp] theorem Ctl.set_tb (a : Fld) (v : Nat) (c : Ctl) : (c.set a v).tb = c.tb := rfl
@[simp] theorem Ctl.set_rx (a : Fld) (v : Nat) (c : Ctl) : (c.set a v).rx = c.rx := rfl
@[simp] theorem Ctl.set_bonds (a : Fld) (v : Nat) (c : Ctl) : (c.set a v).bonds = c.bonds := rfl
@[simp] theorem Ctl.set_tx (a : Fld) (v : Nat) (c : Ctl) : (c.set a v).tx = c.tx := rfl
@[simp] theorem Ctl.set_oh (a : Fld) (v : Nat) (c : Ctl) : (c.set a v).oh = c.oh := rfl
@[simp] theorem Ctl.set_osp (a : Fld) (v : Nat) (c : Ctl) : (c.set a v).osp = c.osp := rfl
@[simp] theorem Ctl.set_swap (a : Fld) (v : Nat) (c : Ctl) : (c.set a v).swap = c.swap := rfl
@[simp] theorem Ctl.set_dmRun (a : Fld) (v : Nat) (c : Ctl) : (c.set a v).dmRun = c.dmRun := rfl
@[simp] theorem Ctl.set_dmOk (a : Fld) (v : Nat) (c : Ctl) : (c.set a v).dmOk = c.dmOk := rfl
@[simp] theorem Ctl.set_ovrFn (a : Fld) (v : Nat) (c : Ctl) : (c.set a v).ovrFn = c.ovrFn := rfl
@[simp] theorem Ctl.set_ovrRun (a : Fld) (v : Nat) (c : Ctl) : (c.set a v).ovrRun = c.ovrRun := rfl
@[simp] theorem Ctl.set_lastPennant (a : Fld) (v : Nat) (c : Ctl) : (c.set a v).lastPennant = c.lastPennant := rfl
@[simp] theorem Ctl.set_answer (a : Fld) (v : Nat) (c : Ctl) : (c.set a v).answer = c.answer := rfl
@[simp] theorem Ctl.set_mtime (a : Fld) (v : Nat) (c : Ctl) : (c.set a v).mtime = c.mtime := rfl
@[simp] theorem Ctl.set_mgn (a : Fld) (v : Nat) (c : Ctl) : (c.set a v).mgn = c.mgn := rfl
@[simp] theorem Ctl.set_groups (a : Fld) (v : Nat) (c : Ctl) : (c.set a v).groups = c.groups := rfl
@[simp] theorem Ctl.set_pgQueue (a : Fld) (v : Nat) (c : Ctl) : (c.set a v).pgQueue = c.pgQueue := rfl
@[simp] theorem Ctl.set_subst (a : Fld) (v : Nat) (c : Ctl) : (c.set a v).subst = c.subst := rfl
@[simp] theorem Ctl.set_substNext (a : Fld) (v : Nat) (c : Ctl) : (c.set a v).substNext = c.substNext := rfl
@[simp] theorem Ctl.set_rlTrig (a : Fld) (v : Nat) (c : Ctl) : (c.set a v).rlTrig = c.rlTrig := rfl
@[simp] theorem Ctl.set_hl (a : Fld) (v : Nat) (c : Ctl) : (c.set a v).hl = c.hl := rfl
@[simp] theorem Ctl.set_rl (a : Fld) (v : Nat) (c : Ctl) : (c.set a v).rl = c.rl := rfl
@[simp] theorem Ctl.set_pl (a : Fld) (v : Nat) (c : Ctl) : (c.set a v).pl = c.pl := rfl
@[simp] theorem Ctl.set_cfgWait (a : Fld) (v : Nat) (c : Ctl) : (c.set a v).cfgWait = c.cfgWait := rfl
@[simp] theorem Ctl.set_hlLast (a : Fld) (v : Nat) (c : Ctl) : (c.set a v).hlLast = c.hlLast := rfl
@[simp] theorem Ctl.set_hlDrop (a : Fld) (v : Nat) (c : Ctl) : (c.set a v).hlDrop = c.hlDrop := rfl
@[simp] theorem Ctl.set_tmu (a : Fld) (v : Nat) (c : Ctl) : (c.set a v).tmu = c.tmu := rfl
@[simp] theorem Ctl.set_stretch (a : Fld) (v : Nat) (c : Ctl) : (c.set a v).stretch = c.stretch := rfl
@[simp] theorem Ctl.set_stretchNext (a : Fld) (v : Nat) (c : Ctl) : (c.set a v).stretchNext = c.stretchNext := rfl
@[simp] theorem Ctl.set_pair (a : Fld) (v : Nat) (c : Ctl) : (c.set a v).pair = c.pair := rfl
@[simp] theorem Ctl.set_latch (a : Fld) (v : Nat) (c : Ctl) : (c.set a v).latch = c.latch := rfl
@[simp] theorem Ctl.set_cip (a : Fld) (v : Nat) (c : Ctl) : (c.set a v).cip = c.cip := rfl
@[simp] theorem Ctl.set_assembling (a : Fld) (v : Nat) (c : Ctl) : (c.set a v).assembling = c.assembling := rfl
@[simp] theorem Ctl.set_mbx (a : Fld) (v : Nat) (c : Ctl) : (c.set a v).mbx = c.mbx := rfl
@[simp] theorem Ctl.set_mtcLo (a : Fld) (v : Nat) (c : Ctl) : (c.set a v).mtcLo = c.mtcLo := rfl
@[simp] theorem Ctl.set_starvedAt (a : Fld) (v : Nat) (c : Ctl) : (c.set a v).starvedAt = c.starvedAt := rfl
@[simp] theorem Ctl.set_harts (a : Fld) (v : Nat) (c : Ctl) : (c.set a v).harts = c.harts := rfl
@[simp] theorem Ctl.set_coreWfi (a : Fld) (v : Nat) (c : Ctl) : (c.set a v).coreWfi = c.coreWfi := rfl
@[simp] theorem Ctl.set_coreDbg (a : Fld) (v : Nat) (c : Ctl) : (c.set a v).coreDbg = c.coreDbg := rfl
@[simp] theorem Ctl.set_ev (a : Fld) (v : Nat) (c : Ctl) : (c.set a v).ev = c.ev := rfl
@[simp] theorem Ctl.set_free (a : Fld) (v : Nat) (c : Ctl) : (c.set a v).free = c.free := rfl
@[simp] theorem Ctl.set_pmc (a : Fld) (v : Nat) (c : Ctl) : (c.set a v).pmc = c.pmc := rfl
@[simp] theorem Ctl.set_pmAcc (a : Fld) (v : Nat) (c : Ctl) : (c.set a v).pmAcc = c.pmAcc := rfl
@[simp] theorem Ctl.set_pm (a : Fld) (v : Nat) (c : Ctl) : (c.set a v).pm = c.pm := rfl
@[simp] theorem Ctl.set_life (a : Fld) (v : Nat) (c : Ctl) : (c.set a v).life = c.life := rfl
@[simp] theorem Ctl.set_swbDue (a : Fld) (v : Nat) (c : Ctl) : (c.set a v).swbDue = c.swbDue := rfl
@[simp] theorem Ctl.set_swbLate (a : Fld) (v : Nat) (c : Ctl) : (c.set a v).swbLate = c.swbLate := rfl
@[simp] theorem Ctl.set_subsys (a : Fld) (v : Nat) (c : Ctl) : (c.set a v).subsys = c.subsys := rfl
@[simp] theorem Ctl.set_bar0 (a : Fld) (v : Nat) (c : Ctl) : (c.set a v).bar0 = c.bar0 := rfl
@[simp] theorem Ctl.set_bar2 (a : Fld) (v : Nat) (c : Ctl) : (c.set a v).bar2 = c.bar2 := rfl
@[simp] theorem Ctl.set_aerStatus (a : Fld) (v : Nat) (c : Ctl) : (c.set a v).aerStatus = c.aerStatus := rfl
@[simp] theorem Ctl.set_uart (a : Fld) (v : Nat) (c : Ctl) : (c.set a v).uart = c.uart := rfl
@[simp] theorem Ctl.set_i2c (a : Fld) (v : Nat) (c : Ctl) : (c.set a v).i2c = c.i2c := rfl
@[simp] theorem Ctl.set_qspi (a : Fld) (v : Nat) (c : Ctl) : (c.set a v).qspi = c.qspi := rfl
@[simp] theorem Ctl.set_gpioIn (a : Fld) (v : Nat) (c : Ctl) : (c.set a v).gpioIn = c.gpioIn := rfl
@[simp] theorem Ctl.setHart_regs (n : Nat) (h : Hart) (c : Ctl) : (c.setHart n h).regs = c.regs := rfl
@[simp] theorem Ctl.setHart_held (n : Nat) (h : Hart) (c : Ctl) : (c.setHart n h).held = c.held := rfl
@[simp] theorem Ctl.setHart_heldXoLost (n : Nat) (h : Hart) (c : Ctl) : (c.setHart n h).heldXoLost = c.heldXoLost := rfl
@[simp] theorem Ctl.setHart_perstSeen (n : Nat) (h : Hart) (c : Ctl) : (c.setHart n h).perstSeen = c.perstSeen := rfl
@[simp] theorem Ctl.setHart_perstLow (n : Nat) (h : Hart) (c : Ctl) : (c.setHart n h).perstLow = c.perstLow := rfl
@[simp] theorem Ctl.setHart_mode (n : Nat) (h : Hart) (c : Ctl) : (c.setHart n h).mode = c.mode := rfl
@[simp] theorem Ctl.setHart_svc (n : Nat) (h : Hart) (c : Ctl) : (c.setHart n h).svc = c.svc := rfl
@[simp] theorem Ctl.setHart_modePend (n : Nat) (h : Hart) (c : Ctl) : (c.setHart n h).modePend = c.modePend := rfl
@[simp] theorem Ctl.setHart_leftBoot (n : Nat) (h : Hart) (c : Ctl) : (c.setHart n h).leftBoot = c.leftBoot := rfl
@[simp] theorem Ctl.setHart_timing (n : Nat) (h : Hart) (c : Ctl) : (c.setHart n h).timing = c.timing := rfl
@[simp] theorem Ctl.setHart_xoLost (n : Nat) (h : Hart) (c : Ctl) : (c.setHart n h).xoLost = c.xoLost := rfl
@[simp] theorem Ctl.setHart_fn (n : Nat) (h : Hart) (c : Ctl) : (c.setHart n h).fn = c.fn := rfl
@[simp] theorem Ctl.setHart_tick (n : Nat) (h : Hart) (c : Ctl) : (c.setHart n h).tick = c.tick := rfl
@[simp] theorem Ctl.setHart_kick (n : Nat) (h : Hart) (c : Ctl) : (c.setHart n h).kick = c.kick := rfl
@[simp] theorem Ctl.setHart_wdTimeout (n : Nat) (h : Hart) (c : Ctl) : (c.setHart n h).wdTimeout = c.wdTimeout := rfl
@[simp] theorem Ctl.setHart_wdEnd (n : Nat) (h : Hart) (c : Ctl) : (c.setHart n h).wdEnd = c.wdEnd := rfl
@[simp] theorem Ctl.setHart_romHalt (n : Nat) (h : Hart) (c : Ctl) : (c.setHart n h).romHalt = c.romHalt := rfl
@[simp] theorem Ctl.setHart_sealRec (n : Nat) (h : Hart) (c : Ctl) : (c.setHart n h).sealRec = c.sealRec := rfl
@[simp] theorem Ctl.setHart_record (n : Nat) (h : Hart) (c : Ctl) : (c.setHart n h).record = c.record := rfl
@[simp] theorem Ctl.setHart_tapInstr (n : Nat) (h : Hart) (c : Ctl) : (c.setHart n h).tapInstr = c.tapInstr := rfl
@[simp] theorem Ctl.setHart_tapCells (n : Nat) (h : Hart) (c : Ctl) : (c.setHart n h).tapCells = c.tapCells := rfl
@[simp] theorem Ctl.setHart_recovFlagClear (n : Nat) (h : Hart) (c : Ctl) : (c.setHart n h).recovFlagClear = c.recovFlagClear := rfl
@[simp] theorem Ctl.setHart_tb (n : Nat) (h : Hart) (c : Ctl) : (c.setHart n h).tb = c.tb := rfl
@[simp] theorem Ctl.setHart_rx (n : Nat) (h : Hart) (c : Ctl) : (c.setHart n h).rx = c.rx := rfl
@[simp] theorem Ctl.setHart_bonds (n : Nat) (h : Hart) (c : Ctl) : (c.setHart n h).bonds = c.bonds := rfl
@[simp] theorem Ctl.setHart_tx (n : Nat) (h : Hart) (c : Ctl) : (c.setHart n h).tx = c.tx := rfl
@[simp] theorem Ctl.setHart_oh (n : Nat) (h : Hart) (c : Ctl) : (c.setHart n h).oh = c.oh := rfl
@[simp] theorem Ctl.setHart_osp (n : Nat) (h : Hart) (c : Ctl) : (c.setHart n h).osp = c.osp := rfl
@[simp] theorem Ctl.setHart_swap (n : Nat) (h : Hart) (c : Ctl) : (c.setHart n h).swap = c.swap := rfl
@[simp] theorem Ctl.setHart_dmRun (n : Nat) (h : Hart) (c : Ctl) : (c.setHart n h).dmRun = c.dmRun := rfl
@[simp] theorem Ctl.setHart_dmOk (n : Nat) (h : Hart) (c : Ctl) : (c.setHart n h).dmOk = c.dmOk := rfl
@[simp] theorem Ctl.setHart_ovrFn (n : Nat) (h : Hart) (c : Ctl) : (c.setHart n h).ovrFn = c.ovrFn := rfl
@[simp] theorem Ctl.setHart_ovrRun (n : Nat) (h : Hart) (c : Ctl) : (c.setHart n h).ovrRun = c.ovrRun := rfl
@[simp] theorem Ctl.setHart_lastPennant (n : Nat) (h : Hart) (c : Ctl) : (c.setHart n h).lastPennant = c.lastPennant := rfl
@[simp] theorem Ctl.setHart_answer (n : Nat) (h : Hart) (c : Ctl) : (c.setHart n h).answer = c.answer := rfl
@[simp] theorem Ctl.setHart_mtime (n : Nat) (h : Hart) (c : Ctl) : (c.setHart n h).mtime = c.mtime := rfl
@[simp] theorem Ctl.setHart_mgn (n : Nat) (h : Hart) (c : Ctl) : (c.setHart n h).mgn = c.mgn := rfl
@[simp] theorem Ctl.setHart_groups (n : Nat) (h : Hart) (c : Ctl) : (c.setHart n h).groups = c.groups := rfl
@[simp] theorem Ctl.setHart_pgQueue (n : Nat) (h : Hart) (c : Ctl) : (c.setHart n h).pgQueue = c.pgQueue := rfl
@[simp] theorem Ctl.setHart_subst (n : Nat) (h : Hart) (c : Ctl) : (c.setHart n h).subst = c.subst := rfl
@[simp] theorem Ctl.setHart_substNext (n : Nat) (h : Hart) (c : Ctl) : (c.setHart n h).substNext = c.substNext := rfl
@[simp] theorem Ctl.setHart_rlTrig (n : Nat) (h : Hart) (c : Ctl) : (c.setHart n h).rlTrig = c.rlTrig := rfl
@[simp] theorem Ctl.setHart_hl (n : Nat) (h : Hart) (c : Ctl) : (c.setHart n h).hl = c.hl := rfl
@[simp] theorem Ctl.setHart_rl (n : Nat) (h : Hart) (c : Ctl) : (c.setHart n h).rl = c.rl := rfl
@[simp] theorem Ctl.setHart_pl (n : Nat) (h : Hart) (c : Ctl) : (c.setHart n h).pl = c.pl := rfl
@[simp] theorem Ctl.setHart_cfgWait (n : Nat) (h : Hart) (c : Ctl) : (c.setHart n h).cfgWait = c.cfgWait := rfl
@[simp] theorem Ctl.setHart_hlLast (n : Nat) (h : Hart) (c : Ctl) : (c.setHart n h).hlLast = c.hlLast := rfl
@[simp] theorem Ctl.setHart_hlDrop (n : Nat) (h : Hart) (c : Ctl) : (c.setHart n h).hlDrop = c.hlDrop := rfl
@[simp] theorem Ctl.setHart_tmu (n : Nat) (h : Hart) (c : Ctl) : (c.setHart n h).tmu = c.tmu := rfl
@[simp] theorem Ctl.setHart_stretch (n : Nat) (h : Hart) (c : Ctl) : (c.setHart n h).stretch = c.stretch := rfl
@[simp] theorem Ctl.setHart_stretchNext (n : Nat) (h : Hart) (c : Ctl) : (c.setHart n h).stretchNext = c.stretchNext := rfl
@[simp] theorem Ctl.setHart_pair (n : Nat) (h : Hart) (c : Ctl) : (c.setHart n h).pair = c.pair := rfl
@[simp] theorem Ctl.setHart_latch (n : Nat) (h : Hart) (c : Ctl) : (c.setHart n h).latch = c.latch := rfl
@[simp] theorem Ctl.setHart_cip (n : Nat) (h : Hart) (c : Ctl) : (c.setHart n h).cip = c.cip := rfl
@[simp] theorem Ctl.setHart_assembling (n : Nat) (h : Hart) (c : Ctl) : (c.setHart n h).assembling = c.assembling := rfl
@[simp] theorem Ctl.setHart_mbx (n : Nat) (h : Hart) (c : Ctl) : (c.setHart n h).mbx = c.mbx := rfl
@[simp] theorem Ctl.setHart_mtcLo (n : Nat) (h : Hart) (c : Ctl) : (c.setHart n h).mtcLo = c.mtcLo := rfl
@[simp] theorem Ctl.setHart_starvedAt (n : Nat) (h : Hart) (c : Ctl) : (c.setHart n h).starvedAt = c.starvedAt := rfl
@[simp] theorem Ctl.setHart_harts (n : Nat) (h : Hart) (c : Ctl) : (c.setHart n h).harts = tput c.harts n h := rfl
@[simp] theorem Ctl.setHart_coreWfi (n : Nat) (h : Hart) (c : Ctl) : (c.setHart n h).coreWfi = c.coreWfi := rfl
@[simp] theorem Ctl.setHart_coreDbg (n : Nat) (h : Hart) (c : Ctl) : (c.setHart n h).coreDbg = c.coreDbg := rfl
@[simp] theorem Ctl.setHart_ev (n : Nat) (h : Hart) (c : Ctl) : (c.setHart n h).ev = c.ev := rfl
@[simp] theorem Ctl.setHart_free (n : Nat) (h : Hart) (c : Ctl) : (c.setHart n h).free = c.free := rfl
@[simp] theorem Ctl.setHart_pmc (n : Nat) (h : Hart) (c : Ctl) : (c.setHart n h).pmc = c.pmc := rfl
@[simp] theorem Ctl.setHart_pmAcc (n : Nat) (h : Hart) (c : Ctl) : (c.setHart n h).pmAcc = c.pmAcc := rfl
@[simp] theorem Ctl.setHart_pm (n : Nat) (h : Hart) (c : Ctl) : (c.setHart n h).pm = c.pm := rfl
@[simp] theorem Ctl.setHart_life (n : Nat) (h : Hart) (c : Ctl) : (c.setHart n h).life = c.life := rfl
@[simp] theorem Ctl.setHart_swbDue (n : Nat) (h : Hart) (c : Ctl) : (c.setHart n h).swbDue = c.swbDue := rfl
@[simp] theorem Ctl.setHart_swbLate (n : Nat) (h : Hart) (c : Ctl) : (c.setHart n h).swbLate = c.swbLate := rfl
@[simp] theorem Ctl.setHart_subsys (n : Nat) (h : Hart) (c : Ctl) : (c.setHart n h).subsys = c.subsys := rfl
@[simp] theorem Ctl.setHart_bar0 (n : Nat) (h : Hart) (c : Ctl) : (c.setHart n h).bar0 = c.bar0 := rfl
@[simp] theorem Ctl.setHart_bar2 (n : Nat) (h : Hart) (c : Ctl) : (c.setHart n h).bar2 = c.bar2 := rfl
@[simp] theorem Ctl.setHart_aerStatus (n : Nat) (h : Hart) (c : Ctl) : (c.setHart n h).aerStatus = c.aerStatus := rfl
@[simp] theorem Ctl.setHart_uart (n : Nat) (h : Hart) (c : Ctl) : (c.setHart n h).uart = c.uart := rfl
@[simp] theorem Ctl.setHart_i2c (n : Nat) (h : Hart) (c : Ctl) : (c.setHart n h).i2c = c.i2c := rfl
@[simp] theorem Ctl.setHart_qspi (n : Nat) (h : Hart) (c : Ctl) : (c.setHart n h).qspi = c.qspi := rfl
@[simp] theorem Ctl.setHart_gpioIn (n : Nat) (h : Hart) (c : Ctl) : (c.setHart n h).gpioIn = c.gpioIn := rfl

end Sys2Proof.Machine
end

