-- ==== Sys2Proof/Laws/Tbl.lean ====
section
/-! SUPPORT. Laws of sparse tables: a read after a store, and that stores and removals keep the canonical form. -/

namespace Sys2Proof.Machine

-- One thread: as one text with many theorems, the package asks for more threads than the check's memory limit grants.
set_option Elab.async false

variable {α : Type}

/-- A key stored reads as stored. -/
@[simp] theorem tfind_tput_same (t : Tbl α) (a : Nat) (v : α) : tfind (tput t a v) a = some v := by
  induction t with
  | nil => simp [tput, tfind]
  | cons h t ih =>
    obtain ⟨k, w⟩ := h
    simp only [tput]
    split
    · simp [tfind]
    · split
      · simp [tfind]
      · simp only [tfind]
        simp_all

/-- A store leaves every other key alone. -/
theorem tfind_tput_ne (t : Tbl α) {a b : Nat} (v : α) (h : b ≠ a) : tfind (tput t a v) b = tfind t b := by
  induction t with
  | nil => simp [tput, tfind, h]
  | cons hd t ih =>
    obtain ⟨k, w⟩ := hd
    simp only [tput]
    split
    · simp only [tfind, h, if_false]
      split
      · rw [if_neg (by omega), if_pos (by omega)]
      · rfl
    · split
      · subst_vars; simp [tfind, h]
      · simp only [tfind, ih]

/-- The stored value, with any default. -/
@[simp] theorem tget_tput_same (t : Tbl α) (a : Nat) (v d : α) : tget (tput t a v) a d = v := by simp [tget]

/-- Every other key reads as before, with any default. -/
theorem tget_tput_ne (t : Tbl α) {a b : Nat} (v d : α) (h : b ≠ a) : tget (tput t a v) b d = tget t b d := by
  simp [tget, tfind_tput_ne t v h]

/-- A bound below the first key may be lowered. -/
theorem twfFrom_mono {t : Tbl α} {a b : Nat} (h : twfFrom (some b) t = true) (hab : a ≤ b) : twfFrom (some a) t = true := by
  cases t with
  | nil => rfl
  | cons hd t =>
    obtain ⟨k, w⟩ := hd
    simp only [twfFrom, Bool.and_eq_true, decide_eq_true_eq] at *
    exact ⟨by omega, h.2⟩

/-- A table that is well formed above a bound is well formed. -/
theorem twfFrom_none {t : Tbl α} {b : Nat} (h : twfFrom (some b) t = true) : twfFrom none t = true := by
  cases t with
  | nil => rfl
  | cons hd t =>
    obtain ⟨k, w⟩ := hd
    simp only [twfFrom, Bool.and_eq_true] at *
    exact h.2

/-- Storing above a bound keeps the keys rising above it. -/
theorem twfFrom_tput {t : Tbl α} {lo a : Nat} {v : α} (h : twfFrom (some lo) t = true) (ha : lo < a) :
    twfFrom (some lo) (tput t a v) = true := by
  induction t generalizing lo with
  | nil => simp [tput, twfFrom, ha]
  | cons hd t ih =>
    obtain ⟨k, w⟩ := hd
    simp only [twfFrom, Bool.and_eq_true, decide_eq_true_eq] at h
    simp only [tput]
    split
    · simp [twfFrom, h.2, *]
    · split
      · subst_vars; simp [twfFrom, ha, h.2]
      · simp only [twfFrom, Bool.and_eq_true, decide_eq_true_eq]
        exact ⟨h.1, ih h.2 (by omega)⟩

/-- Storing keeps the keys rising. -/
theorem twfFrom_none_tput {t : Tbl α} {a : Nat} {v : α} (h : twfFrom none t = true) : twfFrom none (tput t a v) = true := by
  cases t with
  | nil => rfl
  | cons hd t =>
    obtain ⟨k, w⟩ := hd
    simp only [twfFrom] at h
    simp only [tput]
    split
    · simp_all [twfFrom]
    · split
      · subst_vars; simp [twfFrom, h]
      · simp only [twfFrom]; exact twfFrom_tput h (by omega)

/-- Removing a key keeps the keys rising above a bound. -/
theorem twfFrom_tdel {t : Tbl α} {lo a : Nat} (h : twfFrom (some lo) t = true) : twfFrom (some lo) (tdel t a) = true := by
  induction t generalizing lo with
  | nil => rfl
  | cons hd t ih =>
    obtain ⟨k, w⟩ := hd
    simp only [twfFrom, Bool.and_eq_true, decide_eq_true_eq] at h
    simp only [tdel]
    split
    · simp [twfFrom, h]
    · split
      · exact twfFrom_mono h.2 (by omega)
      · simp only [twfFrom, Bool.and_eq_true, decide_eq_true_eq]; exact ⟨h.1, ih h.2⟩

/-- Removing a key keeps the keys rising. -/
theorem twfFrom_none_tdel {t : Tbl α} {a : Nat} (h : twfFrom none t = true) : twfFrom none (tdel t a) = true := by
  cases t with
  | nil => rfl
  | cons hd t =>
    obtain ⟨k, w⟩ := hd
    simp only [twfFrom] at h
    simp only [tdel]
    split
    · simp [twfFrom, h]
    · split
      · exact twfFrom_none h
      · simp only [twfFrom]; exact twfFrom_tdel h

/-- A stored table's entries are the new one or old ones. -/
theorem mem_tput {t : Tbl α} {a : Nat} {v : α} {p : Nat × α} (h : p ∈ tput t a v) : p = (a, v) ∨ p ∈ t := by
  induction t with
  | nil => simpa [tput] using h
  | cons hd t ih =>
    obtain ⟨k, w⟩ := hd
    simp only [tput] at h
    split at h
    · simpa using h
    · split at h
      · rcases List.mem_cons.mp h with h | h
        · exact .inl h
        · exact .inr (List.mem_cons_of_mem _ h)
      · rcases List.mem_cons.mp h with h | h
        · exact .inr (h ▸ List.mem_cons_self)
        · exact (ih h).imp id (List.mem_cons_of_mem _)

/-- What a removal leaves was there. -/
theorem mem_tdel {t : Tbl α} {a : Nat} {p : Nat × α} (h : p ∈ tdel t a) : p ∈ t := by
  induction t with
  | nil => simp [tdel] at h
  | cons hd t ih =>
    obtain ⟨k, w⟩ := hd
    simp only [tdel] at h
    split at h
    · exact h
    · split at h
      · exact List.mem_cons_of_mem _ h
      · rcases List.mem_cons.mp h with h | h
        · exact h ▸ List.mem_cons_self
        · exact List.mem_cons_of_mem _ (ih h)

/-- A store with a default keeps the canonical form. -/
theorem twf_tputD [DecidableEq α] {t : Tbl α} {d : α} (a : Nat) (v : α) (h : twf t d = true) : twf (tputD t a v d) d = true := by
  simp only [twf, Bool.and_eq_true, List.all_eq_true, decide_eq_true_eq] at *
  simp only [tputD]
  split
  · exact ⟨twfFrom_none_tdel h.1, fun p hp => h.2 p (mem_tdel hp)⟩
  · rename_i hv
    refine ⟨twfFrom_none_tput h.1, fun p hp => ?_⟩
    rcases mem_tput hp with rfl | hp
    · exact hv
    · exact h.2 p hp

/-- A key at or below the bound of a table is not in it. -/
theorem tfind_below {t : Tbl α} {lo a : Nat} (h : twfFrom (some lo) t = true) (ha : a ≤ lo) : tfind t a = none := by
  cases t with
  | nil => rfl
  | cons hd t =>
    simp only [twfFrom, Bool.and_eq_true, decide_eq_true_eq] at h
    simp only [tfind]
    rw [if_neg (by omega), if_pos (by omega)]

/-- What a table above a bound reads after a key is removed. -/
theorem tfind_tdel_from {t : Tbl α} {lo : Nat} (a b : Nat) (h : twfFrom (some lo) t = true) :
    tfind (tdel t a) b = if b = a then none else tfind t b := by
  induction t generalizing lo with
  | nil => simp [tdel, tfind]
  | cons hd t ih =>
    obtain ⟨k, w⟩ := hd
    simp only [twfFrom, Bool.and_eq_true, decide_eq_true_eq] at h
    have ih := ih h.2
    simp only [tdel]
    split
    · by_cases hb : b = a
      · simp only [tfind, hb]; rw [if_neg (by omega), if_pos ‹_›]; simp
      · simp [hb]
    · split
      · by_cases hb : b = a
        · rw [tfind_below h.2 (by omega), if_pos hb]
        · simp only [tfind, if_neg hb]
          by_cases hk : b < k
          · rw [if_neg (by omega), if_pos hk, tfind_below h.2 (by omega)]
          · rw [if_neg (by omega), if_neg hk]
      · simp only [tfind, ih]
        by_cases hb : b = a
        · rw [if_neg (by omega), if_neg (by omega)]; simp [hb]
        · simp [hb]

/-- What a table reads after a key is removed: nothing under it, and every other key as before. -/
theorem tfind_tdel {t : Tbl α} (a b : Nat) (h : twfFrom none t = true) :
    tfind (tdel t a) b = if b = a then none else tfind t b := by
  cases t with
  | nil => simp [tdel, tfind]
  | cons hd t =>
    obtain ⟨k, w⟩ := hd
    simp only [twfFrom] at h
    have ih := tfind_tdel_from a b h
    simp only [tdel]
    split
    · by_cases hb : b = a
      · simp only [tfind, hb]; rw [if_neg (by omega), if_pos ‹_›]; simp
      · simp [hb]
    · split
      · by_cases hb : b = a
        · rw [tfind_below h (by omega), if_pos hb]
        · simp only [tfind, if_neg hb]
          by_cases hk : b < k
          · rw [if_neg (by omega), if_pos hk, tfind_below h (by omega)]
          · rw [if_neg (by omega), if_neg hk]
      · simp only [tfind, ih]
        by_cases hb : b = a
        · rw [if_neg (by omega), if_neg (by omega)]; simp [hb]
        · simp [hb]

/-- What a table reads in which every value is changed. -/
theorem tfind_map {β : Type} (f : Nat → α → β) (t : Tbl α) (a : Nat) :
    tfind (t.map fun q => (q.1, f q.1 q.2)) a = (tfind t a).map (f a) := by
  induction t with
  | nil => rfl
  | cons q t ih =>
    simp only [List.map_cons, tfind]
    split
    · rename_i h; rw [h]; rfl
    · split
      · rfl
      · exact ih

/-- An entry that a table finds is in it. -/
theorem tfind_mem {t : Tbl α} {a : Nat} {v : α} (h : tfind t a = some v) : (a, v) ∈ t := by
  induction t with
  | nil => cases h
  | cons q t ih =>
    simp only [tfind] at h
    split at h
    · rename_i ha; cases h; rw [ha]; exact List.mem_cons_self
    · split at h
      · cases h
      · exact List.mem_cons_of_mem _ (ih h)

/-- What a table with a default reads after a value is stored. -/
theorem tget_tputD [DecidableEq α] {t : Tbl α} (a b : Nat) (v d : α) (h : twfFrom none t = true) :
    tget (tputD t a v d) b d = if b = a then v else tget t b d := by
  unfold tputD
  split
  · rename_i hv
    simp only [tget, tfind_tdel a b h]
    split
    · rw [hv]; rfl
    · rfl
  · split
    · rename_i hb; rw [hb]; exact tget_tput_same t a v d
    · rename_i hb; exact tget_tput_ne t v d hb

end Sys2Proof.Machine
end

