-- ==== Sys2Proof/Laws/Ops.lean ====
section
/-! SUPPORT. Laws of the register file: what a register or a field reads after one is set. -/

namespace Sys2Proof.Machine

-- One thread: as one text with many theorems, the package asks for more threads than the check's memory limit grants.
set_option Elab.async false

/-- A register set reads as set. -/
@[simp] theorem Ctl.reg_setReg_same (a : Nat) (w : Word) (c : Ctl) : (c.setReg a w).reg a = w := by simp [Ctl.reg, Ctl.setReg]

/-- Every other register reads as before. -/
theorem Ctl.reg_setReg_ne {a b : Nat} (w : Word) (c : Ctl) (h : b ≠ a) : (c.setReg a w).reg b = c.reg b := by
  simp [Ctl.reg, Ctl.setReg, tget_tput_ne _ _ _ h]

/-- The register of a field that is set. -/
@[simp] theorem Ctl.reg_set_same (f : Fld) (v : Nat) (c : Ctl) : (c.set f v).reg f.addr = wPut (c.reg f.addr) f.hi f.lo v := by
  simp [Ctl.set]

/-- A field that is set leaves every other register alone. -/
theorem Ctl.reg_set_ne {a : Nat} (f : Fld) (v : Nat) (c : Ctl) (h : a ≠ f.addr) : (c.set f v).reg a = c.reg a := by
  simp [Ctl.set, Ctl.reg_setReg_ne _ _ h]

/-- A field reads as it was set, cut to its width. -/
theorem Ctl.get_set_same (f : Fld) (v : Nat) (c : Ctl) (h : f.lo ≤ f.hi) (hh : f.hi < 32) :
    (c.set f v).get f = v % 2 ^ (f.hi + 1 - f.lo) := by
  simp [Ctl.get, wGet_wPut_same _ _ _ _ h hh]

/-- A field of another register reads as before. -/
theorem Ctl.get_set_ne (f g : Fld) (v : Nat) (c : Ctl) (h : g.addr ≠ f.addr) : (c.set f v).get g = c.get g := by
  simp [Ctl.get, Ctl.reg_set_ne _ _ _ h]

/-- A field of the same register that does not overlap reads as before. -/
theorem Ctl.get_set_disj (f g : Fld) (v : Nat) (c : Ctl) (h : f.lo ≤ f.hi) (hh : f.hi < 32) (hd : g.hi < f.lo ∨ f.hi < g.lo) :
    (c.set f v).get g = c.get g := by
  by_cases ha : g.addr = f.addr
  · simp only [Ctl.get, ha, Ctl.reg_set_same]
    exact wGet_wPut_disj _ _ _ _ _ _ h hh hd
  · exact Ctl.get_set_ne _ _ _ _ ha

/-- A register that is none of those set reads as before. -/
theorem Ctl.reg_setRegs_ne {a : Nat} (l : List (Nat × Word)) (c : Ctl) (h : ∀ p ∈ l, a ≠ p.1) : (c.setRegs l).reg a = c.reg a := by
  induction l generalizing c with
  | nil => rfl
  | cons p l ih =>
    simp only [Ctl.setRegs, List.foldl_cons] at ih ⊢
    rw [ih _ (fun q hq => h q (List.mem_cons_of_mem _ hq)), Ctl.reg_setReg_ne _ _ (h p List.mem_cons_self)]

/-- Setting fields changes the register file alone. -/
theorem Ctl.sets_frame (l : List (Fld × Nat)) (c : Ctl) :
    (∃ r, c.sets l = { c with regs := r }) ∧ ∀ a, (∀ p ∈ l, a ≠ p.1.addr) → (c.sets l).reg a = c.reg a := by
  induction l generalizing c with
  | nil => exact ⟨⟨c.regs, rfl⟩, fun _ _ => rfl⟩
  | cons p l ih =>
    obtain ⟨⟨r, hr⟩, hf⟩ := ih (c.set p.1 p.2)
    refine ⟨⟨r, ?_⟩, fun a ha => ?_⟩
    · simp only [Ctl.sets, List.foldl_cons] at hr ⊢
      rw [hr]; rfl
    · have := hf a (fun q hq => ha q (List.mem_cons_of_mem _ hq))
      simp only [Ctl.sets, List.foldl_cons] at this ⊢
      rw [this, Ctl.reg_set_ne _ _ _ (ha p List.mem_cons_self)]

/-- A core reads as it was set. -/
@[simp] theorem Ctl.hart_setHart_same (n : Nat) (h : Hart) (c : Ctl) : (c.setHart n h).hart n = h := by simp [Ctl.hart]

/-- Every other core reads as before. -/
theorem Ctl.hart_setHart_ne {n m : Nat} (h : Hart) (c : Ctl) (hne : m ≠ n) : (c.setHart n h).hart m = c.hart m := by
  simp [Ctl.hart, tget_tput_ne _ _ _ hne]

/-- Zeroed registers read 0. -/
theorem Ctl.zero_frame (l : List Nat) (c : Ctl) :
    (∃ r, c.zero l = { c with regs := r }) ∧ (∀ a, a ∈ l → (c.zero l).reg a = 0) ∧ ∀ a, a ∉ l → (c.zero l).reg a = c.reg a := by
  have key : ∀ (l : List Nat) (c : Ctl), (∃ r, c.zero l = { c with regs := r }) ∧
      ∀ a, (c.zero l).reg a = if a ∈ l then 0 else c.reg a := by
    intro l
    induction l with
    | nil => exact fun c => ⟨⟨c.regs, rfl⟩, fun _ => by simp [Ctl.zero]⟩
    | cons x l ih =>
      intro c
      obtain ⟨⟨r, hr⟩, hf⟩ := ih (c.setReg x 0)
      refine ⟨⟨r, ?_⟩, fun a => ?_⟩
      · simp only [Ctl.zero, List.foldl_cons] at hr ⊢; rw [hr]; rfl
      · have := hf a
        simp only [Ctl.zero, List.foldl_cons, List.mem_cons] at this ⊢
        rw [this]
        by_cases hx : a = x
        · subst hx; simp
        · simp [hx, Ctl.reg_setReg_ne _ _ hx]
  obtain ⟨h1, h2⟩ := key l c
  exact ⟨h1, fun a ha => by simp [h2, ha], fun a ha => by simp [h2, ha]⟩

end Sys2Proof.Machine
end

