-- ==== Sys2Proof/Laws/Cores.lean ====
section
/-! SUPPORT. Laws of the cores: their general registers, the reservations that a write ends, and all that gating an access can do. -/

namespace Sys2Proof.Machine

-- One thread: as one text with many theorems, the package asks for more threads than the check's memory limit grants.
set_option Elab.async false

/-! ### General registers -/

/-- x0 reads 0. -/
@[simp] theorem Hart.x_zero (h : Hart) : h.x 0 = 0 := rfl

/-- x0 discards what is written. -/
@[simp] theorem Hart.putX_zero (v : Word) (h : Hart) : h.putX 0 v = h := rfl

/-- Writing a general register changes the general registers alone. -/
theorem Hart.putX_frame (r : Nat) (v : Word) (h : Hart) : ∃ x, h.putX r v = { h with xregs := x } := by
  unfold Hart.putX; split
  · exact ⟨h.xregs, rfl⟩
  · exact ⟨_, rfl⟩

@[simp] theorem Hart.putX_pc (r : Nat) (v : Word) (h : Hart) : (h.putX r v).pc = h.pc := by unfold Hart.putX; split <;> rfl
@[simp] theorem Hart.putX_user (r : Nat) (v : Word) (h : Hart) : (h.putX r v).user = h.user := by unfold Hart.putX; split <;> rfl
@[simp] theorem Hart.putX_resv (r : Nat) (v : Word) (h : Hart) : (h.putX r v).resv = h.resv := by unfold Hart.putX; split <;> rfl

/-- A general register reads as it was written, and every other as before. -/
theorem Hart.x_putX {r : Nat} (k : Nat) (v : Word) (h : Hart) (hr : r ≠ 0) (hx : twfFrom none h.xregs = true) :
    (h.putX r v).x k = if k = r then v else h.x k := by
  by_cases hk : k = 0
  · subst hk; simp [Ne.symm hr]
  · simp only [Hart.putX, Hart.x, if_neg hr, if_neg hk]; exact tget_tputD r k v 0 hx

/-! ### Reservations -/

/-- A write that ends reservations changes the cores alone. -/
theorem Ctl.breakResv_frame (m a size : Nat) (c : Ctl) : ∃ h, c.breakResv m a size = { c with harts := h } := by
  unfold Ctl.breakResv; split
  · exact ⟨_, rfl⟩
  · exact ⟨c.harts, rfl⟩

/-- A core's reservation ends when another master writes any byte of it; nothing else of the core changes. -/
theorem Ctl.hart_breakResv (m a size n : Nat) (c : Ctl) :
    (c.breakResv m a size).hart n = if (c.hart n).resvHit n m a size then { c.hart n with resv := none } else c.hart n := by
  unfold Ctl.breakResv
  split
  · simp only [Ctl.hart, tget]
    rw [tfind_map (fun k (h : Hart) => if h.resvHit k m a size then { h with resv := none } else h)]
    have key : ∀ o : Option Hart, (o.map fun h => if h.resvHit n m a size then { h with resv := none } else h).getD {} =
        if (o.getD {}).resvHit n m a size then { o.getD {} with resv := none } else o.getD {} := by intro o; cases o <;> rfl
    exact key _
  · rename_i hany
    have : (c.hart n).resvHit n m a size = false := by
      simp only [Ctl.hart, tget]
      cases hf : tfind c.harts n with
      | none => rfl
      | some h =>
        cases hh : h.resvHit n m a size with
        | false => exact hh
        | true => exact absurd (List.any_eq_true.mpr ⟨_, tfind_mem hf, hh⟩) hany
    rw [this]; rfl

/-! ### Gated accesses -/

/-- A barred access changes the cores and the count of free values alone, and of the cores the one that makes it. -/
theorem Ctl.coreBarred_frame (m addr cause : Nat) (c : Ctl) :
    (∃ h f, c.coreBarred m addr cause = { c with harts := h, free := f }) ∧
    (c.coreBarred m addr cause).hart m = (c.hart m).trap cause (c.takeFree 32).1 (addr % 2 ^ 32) 0 ∧
    ∀ j, j ≠ m → (c.coreBarred m addr cause).hart j = c.hart j :=
  ⟨⟨_, _, rfl⟩, Ctl.hart_setHart_same _ _ _, fun _ hj => Ctl.hart_setHart_ne _ _ hj⟩

/-- All that gating an access can do: nothing, the access itself by a master that is no core, or, for a core that a waiting no longer
holds, the exception of a misaligned or barred access in place of it, or the access. -/
theorem gated_cases (m addr size : Nat) (write : Bool) (f : State → State) (s : State) :
    (s.ctl.issues m = false ∧ gated m addr size write f s = s) ∨
    (s.ctl.issues m = true ∧ 4 ≤ m ∧ gated m addr size write f s = f s) ∨
    (s.ctl.issues m = true ∧ m < 4 ∧ ∃ cause, gated m addr size write f s = (s.mapCtl (Ctl.wakeCore m)).mapCtl (Ctl.coreBarred m addr cause)) ∨
    (s.ctl.issues m = true ∧ m < 4 ∧ (size ≤ 4 → addr % max 1 size = 0) ∧
      ((s.mapCtl (Ctl.wakeCore m)).ctl.hart m).pmpPermits (if write then .store else .load) addr size = true ∧
      gated m addr size write f s = f (s.mapCtl (Ctl.wakeCore m))) := by
  cases hi : s.ctl.issues m with
  | false => exact .inl ⟨rfl, by simp [gated, hi]⟩
  | true =>
    by_cases hm : 4 ≤ m
    · exact .inr (.inl ⟨rfl, hm, by simp [gated, hi, hm]⟩)
    · have hm' : m < 4 := by omega
      by_cases ha : size ≤ 4 ∧ addr % max 1 size ≠ 0
      · exact .inr (.inr (.inl ⟨rfl, hm', (if write then PmpUse.store else .load).misaligned, by simp [gated, hi, hm, ha.1, ha.2]⟩))
      · cases hp : ((s.mapCtl (Ctl.wakeCore m)).ctl.hart m).pmpPermits (if write then .store else .load) addr size with
        | false => exact .inr (.inr (.inl ⟨rfl, hm', (if write then PmpUse.store else .load).fault, by simp only [gated, hi, hm, ha, hp]; rfl⟩))
        | true =>
          refine .inr (.inr (.inr ⟨rfl, hm', fun h => ?_, rfl, by simp only [gated, hi, hm, ha, hp]; rfl⟩))
          by_cases hz : addr % max 1 size = 0
          · exact hz
          · exact absurd ⟨h, hz⟩ ha

end Sys2Proof.Machine
end

