-- ==== Sys2Proof/Laws/Flags.lean ====
section
/-! SUPPORT. What settling the performance counters and raising an event can do, said once. -/

namespace Sys2Proof.Machine

-- One thread: as one text with many theorems, the package asks for more threads than the check's memory limit grants.
set_option Elab.async false

/-- Settling changes the performance counters alone. -/
theorem Ctl.settle_frame (b c : Ctl) : ∃ p, b.settle c = { c with pmc := p } := ⟨_, rfl⟩

/-- Counting occurrences changes the performance counters alone. -/
theorem Ctl.occ_frame (code n : Nat) (c : Ctl) : ∃ p, c.occ code n = { c with pmc := p } := by
  unfold Ctl.occ
  split
  · exact ⟨c.pmc, rfl⟩
  · exact ⟨_, rfl⟩

/-- Registers read as before when only the performance counters change. -/
@[simp] theorem Ctl.reg_pmc (c : Ctl) (p : Tbl PmcCounter) (a : Nat) : Ctl.reg { c with pmc := p } a = c.reg a := rfl

/-- What an event's marks may change: the register file, the event engine and the performance counters, and of the registers only
those of some list; event bits are only added. -/
def Ctl.Marks (addrs : List Nat) (c d : Ctl) : Prop :=
  (∃ r e p, d = { c with regs := r, ev := e, pmc := p }) ∧ (∀ a, a ∉ addrs → d.reg a = c.reg a) ∧
    ∀ q b, c.evBit q b = true → d.evBit q b = true

theorem Ctl.Marks.refl (l : List Nat) (c : Ctl) : Ctl.Marks l c c := ⟨⟨_, _, _, rfl⟩, fun _ _ => rfl, fun _ _ h => h⟩

theorem Ctl.Marks.trans {l : List Nat} {a b c : Ctl} (h : Ctl.Marks l a b) (k : Ctl.Marks l b c) : Ctl.Marks l a c := by
  obtain ⟨⟨r, e, p, rfl⟩, h2, h3⟩ := h
  obtain ⟨⟨r', e', p', rfl⟩, k2, k3⟩ := k
  exact ⟨⟨_, _, _, rfl⟩, fun x hx => (k2 x hx).trans (h2 x hx), fun q b hb => k3 q b (h3 q b hb)⟩

theorem Ctl.Marks.mono {l m : List Nat} {a b : Ctl} (h : Ctl.Marks l a b) (hl : ∀ x, x ∈ l → x ∈ m) : Ctl.Marks m a b :=
  ⟨h.1, fun x hx => h.2.1 x (fun hc => hx (hl x hc)), h.2.2⟩

/-- An OR keeps every bit that is set. -/
theorem bit_or_left (x y : Word) (b : Nat) (h : bit x.toNat b = true) : bit (x ||| y).toNat b = true := by
  simp only [bit, BitVec.toNat_or, Nat.testBit_or] at *
  simp [h]

/-- An event bit that is set reads 1. -/
theorem Ctl.evBit_setEvt_same (page b : Nat) (c : Ctl) (h : b < 32) : (c.setEvt page b).evBit page b = true := by
  simp only [Ctl.evBit, Ctl.setEvt, Ctl.reg_setReg_same, bit, BitVec.toNat_or, Nat.testBit_or, BitVec.toNat_ofNat]
  rw [Nat.mod_eq_of_lt (Nat.pow_lt_pow_right (by omega) h), Nat.testBit_two_pow_self]
  simp

theorem Ctl.setEvt_marks (page b : Nat) (c : Ctl) : Ctl.Marks [R.HDR_EVT page] c (c.setEvt page b) := by
  refine ⟨⟨_, c.ev, c.pmc, rfl⟩, fun a ha => ?_, fun q b' hb => ?_⟩
  · exact Ctl.reg_setReg_ne _ _ (by simpa using ha)
  · unfold Ctl.evBit Ctl.setEvt at *
    by_cases hq : R.HDR_EVT q = R.HDR_EVT page
    · rw [hq, Ctl.reg_setReg_same]; rw [hq] at hb; exact bit_or_left _ _ _ hb
    · rw [Ctl.reg_setReg_ne _ _ hq]; exact hb

theorem Ctl.pmc_marks (c : Ctl) (p : Tbl PmcCounter) : Ctl.Marks [] c { c with pmc := p } :=
  ⟨⟨c.regs, c.ev, p, rfl⟩, fun _ _ => rfl, fun _ _ h => h⟩

theorem Ctl.occ_marks (code n : Nat) (c : Ctl) : Ctl.Marks [] c (c.occ code n) := by
  obtain ⟨p, h⟩ := Ctl.occ_frame code n c
  rw [h]; exact Ctl.pmc_marks c p

theorem Ctl.ev_marks (c : Ctl) (e : Events) : Ctl.Marks [] c { c with ev := e } :=
  ⟨⟨c.regs, e, c.pmc, rfl⟩, fun _ _ => rfl, fun _ _ h => h⟩

/-- A register that is no event register may be set among the marks. -/
theorem Ctl.setReg_marks (a : Nat) (w : Word) (c : Ctl) (h : ∀ q, a ≠ R.HDR_EVT q) : Ctl.Marks [a] c (c.setReg a w) := by
  refine ⟨⟨_, c.ev, c.pmc, rfl⟩, fun b hb => Ctl.reg_setReg_ne _ _ (by simpa using hb), fun q b hb => ?_⟩
  unfold Ctl.evBit at *
  rw [Ctl.reg_setReg_ne _ _ (fun he => h q he.symm)]; exact hb

/-- The registers that hold the event engine's numbers. -/
def eventCounters : List Nat := [R.EVT_SEQ, R.EVT_CNT_DROP, R.EVT_CNT_SUPP]

theorem eventCounter_ne {a : Nat} (h : a ∈ eventCounters) (q : Nat) : a ≠ R.HDR_EVT q := by
  simp only [eventCounters, List.mem_cons, List.not_mem_nil, or_false, R.EVT_SEQ, R.EVT_CNT_DROP, R.EVT_CNT_SUPP] at h
  simp only [R.HDR_EVT]
  omega

theorem Ctl.set_marks {f : Fld} (v : Nat) (c : Ctl) (h : f.addr ∈ eventCounters) : Ctl.Marks eventCounters c (c.set f v) :=
  (Ctl.setReg_marks f.addr _ c (eventCounter_ne h)).mono (by simpa using h)

theorem Ctl.placeRec_marks (r : EvRec) (logOnly : Bool) (c : Ctl) : Ctl.Marks eventCounters c (c.placeRec r logOnly).2 := by
  have h0 : Ctl.Marks eventCounters c ((c.set F.EVT_SEQ_VALUE (nextSeq r.seq)).occ 0x0B 1) :=
    (Ctl.set_marks (f := F.EVT_SEQ_VALUE) _ c (by decide)).trans ((Ctl.occ_marks _ _ _).mono (by simp))
  unfold Ctl.placeRec
  simp only
  split
  · split
    · exact h0.trans ((Ctl.ev_marks _ _).mono (by simp))
    · exact h0
  · split
    · exact h0.trans (Ctl.set_marks (f := F.EVT_CNT_DROP_COUNT) _ _ (by decide))
    · exact h0.trans ((Ctl.ev_marks _ _).mono (by simp))

theorem Ctl.recordOf_marks (page b : Nat) (d : List Byte) (c : Ctl) : Ctl.Marks eventCounters c (c.recordOf page b d).2 := by
  unfold Ctl.recordOf
  simp only
  split
  · exact Ctl.placeRec_marks _ _ _
  · split
    · split
      · exact ((Ctl.ev_marks _ _).mono (by simp)).trans (Ctl.placeRec_marks _ _ _)
      · dsimp only
        refine Ctl.Marks.trans ?_ ((Ctl.occ_marks _ _ _).mono (by simp))
        exact Ctl.Marks.trans ((Ctl.ev_marks c _).mono (by simp)) (Ctl.set_marks (f := F.EVT_CNT_SUPP_COUNT) _ _ (by decide))
    · exact Ctl.Marks.refl _ _

/-- Everything that raising an event can change, and the mark that it leaves (R460). -/
theorem Ctl.raise_marks (page b : Nat) (d : List Byte) (c : Ctl) :
    Ctl.Marks (R.HDR_EVT page :: R.HDR_EVT 0x051 :: eventCounters) c (c.raise page b d) ∧ (b < 32 → (c.raise page b d).evBit page b = true) := by
  have h0 := Ctl.setEvt_marks page b c
  unfold Ctl.raise
  simp only
  split
  · exact ⟨h0.mono (by simp), fun h => Ctl.evBit_setEvt_same page b c h⟩
  · have h1 := Ctl.recordOf_marks page b d (c.setEvt page b)
    split
    · have h2 := Ctl.setEvt_marks 0x051 0 ((c.setEvt page b).recordOf page b d).2
      have h3 := Ctl.recordOf_marks 0x051 0 [] (((c.setEvt page b).recordOf page b d).2.setEvt 0x051 0)
      exact ⟨(((h0.mono (by simp)).trans (h1.mono (by simp +contextual))).trans (h2.mono (by simp))).trans (h3.mono (by simp +contextual)),
        fun h => h3.2.2 _ _ (h2.2.2 _ _ (h1.2.2 _ _ (Ctl.evBit_setEvt_same page b c h)))⟩
    · exact ⟨(h0.mono (by simp)).trans (h1.mono (by simp +contextual)), fun h => h1.2.2 _ _ (Ctl.evBit_setEvt_same page b c h)⟩

/-- Raising an event in the shape of `State.IsBut`: what it changes, that nothing else reads differently, and its mark. -/
theorem Ctl.raise_frame (page b : Nat) (d : List Byte) (c : Ctl) :
    (∃ r e p, c.raise page b d = { c with regs := r, ev := e, pmc := p }) ∧
    (∀ a, eventReg [page] a = false → (c.raise page b d).reg a = c.reg a) ∧
    (∀ q k, c.evBit q k = true → (c.raise page b d).evBit q k = true) ∧
    (b < 32 → (c.raise page b d).evBit page b = true) := by
  obtain ⟨⟨h1, h2, h3⟩, h4⟩ := Ctl.raise_marks page b d c
  refine ⟨h1, fun a ha => h2 a ?_, h3, h4⟩
  simp only [eventReg, List.contains_eq_mem, List.any_cons, List.any_nil, Bool.or_false, Bool.or_eq_false_iff, decide_eq_false_iff_not,
    beq_eq_false_iff_ne] at ha
  simp only [eventCounters]
  intro hc
  simp only [List.mem_cons, List.not_mem_nil, or_false] at hc ha
  omega

/-- A command's effect that is a state but for events, settled, is that state but for events. -/
theorem State.IsBut.settled {pages addrs : List Nat} {u t : State} (b : Ctl) (h : u.IsBut pages addrs t) :
    u.IsBut pages addrs (t.mapCtl (Ctl.settle b)) := by
  obtain ⟨⟨r, e, p, rfl⟩, h2, h3⟩ := h
  exact ⟨⟨r, e, _, rfl⟩, h2, h3⟩

/-- A state with an event raised is that state but for the event. -/
theorem State.isBut_raise (page b : Nat) (d : List Byte) (u : State) : u.IsBut [page] [] (u.mapCtl (fun c => c.raise page b d)) := by
  obtain ⟨⟨r, e, p, h⟩, h2, h3, _⟩ := Ctl.raise_frame page b d u.ctl
  refine ⟨⟨r, e, p, ?_⟩, fun a ha _ => h2 a ha, h3⟩
  simp [State.mapCtl, h]

/-- An effect applied while its condition holds completes, and settling changes only the performance counters. -/
theorem runIf_true (f : State → State) (s : State) : runIf true f s = .next ((f s).mapCtl (Ctl.settle s.ctl)) := rfl

/-- A command whose condition does not hold changes nothing. -/
theorem runIf_false (f : State → State) (s : State) : runIf false f s = .next s := rfl

end Sys2Proof.Machine
end

