-- ==== Sys2Proof/Laws/Halyard.lean ====
section
/-! SUPPORT. The receiver of the Halyard link: a whole message of symbols gives that message. -/

namespace Sys2Proof.Machine

set_option Elab.async false

/-- Four symbols spell a byte. -/
theorem symbolBytes_byteSymbols (b : Byte) (l : List Nat) : symbolBytes (byteSymbols b ++ l) = b :: symbolBytes l := by
  have hb := b.isLt
  simp only [byteSymbols, List.cons_append, List.nil_append, symbolBytes, List.cons.injEq, and_true]
  apply BitVec.eq_of_toNat_eq
  rw [BitVec.toNat_ofNat]
  omega

/-- The symbols of a message spell it. -/
@[simp] theorem symbolBytes_flatMap (b : List Byte) : symbolBytes (b.flatMap byteSymbols) = b := by
  induction b with
  | nil => rfl
  | cons x b ih => simp [symbolBytes_byteSymbols, ih]

/-- Every symbol is below 4. -/
theorem byteSymbols_lt (b : List Byte) : ∀ x ∈ b.flatMap byteSymbols, x % 4 = x := by
  intro x hx
  obtain ⟨y, -, hy⟩ := List.mem_flatMap.mp hx
  have := y.isLt
  simp only [byteSymbols, List.mem_cons, List.not_mem_nil, or_false] at hy
  omega

/-- A byte has four symbols. -/
@[simp] theorem length_flatMap_byteSymbols (b : List Byte) : (b.flatMap byteSymbols).length = 4 * b.length := by
  induction b with
  | nil => rfl
  | cons x b ih => simp [byteSymbols, ih]; omega

/-- Symbols fed in two parts. -/
theorem HyRx.feed_append (q : HyRx) (l m : List (Option Nat)) :
    q.feed (l ++ m) = (((q.feed l).1.feed m).1, (q.feed l).2 ++ ((q.feed l).1.feed m).2) := by
  induction l generalizing q with
  | nil => simp [HyRx.feed]
  | cons x l ih => simp [HyRx.feed, ih]

/-- Symbols that do not yet make a message are kept. -/
theorem HyRx.feed_part (q : HyRx) (l : List Nat) (hl : ∀ x ∈ l, x % 4 = x) (h : q.syms.length + l.length < 256) :
    q.feed (l.map some) = ({ q with syms := q.syms ++ l }, []) := by
  induction l generalizing q with
  | nil => simp [HyRx.feed]
  | cons x l ih =>
    simp only [List.length_cons] at h
    have hx : x % 4 = x := hl x List.mem_cons_self
    have ht : q.take (some x) = ({ q with syms := q.syms ++ [x] }, []) := by
      simp only [HyRx.take, hx]
      rw [if_pos (by simp; omega)]
    simp only [List.map_cons, HyRx.feed, ht]
    rw [ih _ (fun y hy => hl y (List.mem_cons_of_mem _ hy)) (by simp; omega)]
    simp

/-- The last symbol of a message of 64 bytes is judged. -/
theorem HyRx.feed_symbolsOf (q : HyRx) (b : List Byte) (hq : q.syms = []) (hb : b.length = 64) :
    q.feed (symbolsOf b) =
      if q.hunt && beAt b 0 1 != 0x9E then ({ q with syms := (b.flatMap byteSymbols).drop 1 }, [])
      else if crcChecks b then ({}, [b])
      else ({ hunt := true, syms := (b.flatMap byteSymbols).drop 1 }, if q.hunt then [] else [b]) := by
  have hne : b.flatMap byteSymbols ≠ [] := List.ne_nil_of_length_pos (by rw [length_flatMap_byteSymbols]; omega)
  obtain ⟨l, x, hs⟩ : ∃ l x, b.flatMap byteSymbols = l ++ [x] := ⟨_, _, (List.dropLast_concat_getLast hne).symm⟩
  have hlen : l.length = 255 := by
    have := congrArg List.length hs
    rw [length_flatMap_byteSymbols, hb, List.length_append, List.length_singleton] at this
    omega
  have hlt : ∀ y ∈ l, y % 4 = y := fun y hy => byteSymbols_lt b y (hs ▸ List.mem_append_left _ hy)
  have hx : x % 4 = x := byteSymbols_lt b x (hs ▸ by simp)
  have hbytes : symbolBytes (l ++ [x]) = b := by rw [← hs, symbolBytes_flatMap]
  rw [symbolsOf, hs, List.map_append, HyRx.feed_append, HyRx.feed_part q l hlt (by simp [hq, hlen])]
  simp only [HyRx.feed, HyRx.take, List.map_cons, List.map_nil, hq, List.nil_append, hx, hbytes]
  rw [if_neg (by simp [hlen])]
  simp only [List.append_nil]

/-- A message of 64 bytes whose CRC checks is received, and in a hunt if it begins with MARK. -/
theorem HyRx.feed_message (q : HyRx) (b : List Byte) (hq : q.syms = []) (hb : b.length = 64) (hc : crcChecks b = true)
    (hm : q.hunt = false ∨ beAt b 0 1 = 0x9E) : q.feed (symbolsOf b) = ({}, [b]) := by
  rw [HyRx.feed_symbolsOf q b hq hb]
  obtain hm | hm := hm <;> simp [hm, hc]

end Sys2Proof.Machine
end

