-- ==== Sys2Proof/Laws/Memory.lean ====
section
/-! SUPPORT. Every operation over the addressed memories keeps their canonical form. -/

namespace Sys2Proof.Machine

-- One thread: as one text with many theorems, the package asks for more threads than the check's memory limit grants.
set_option Elab.async false

/-- Keys that rise still rise when some are left out. -/
theorem twfFrom_filter {α : Type} {t : Tbl α} {lo : Nat} (p : Nat × α → Bool) (h : twfFrom (some lo) t = true) :
    twfFrom (some lo) (t.filter p) = true := by
  induction t generalizing lo with
  | nil => rfl
  | cons hd t ih =>
    obtain ⟨k, w⟩ := hd
    simp only [twfFrom, Bool.and_eq_true, decide_eq_true_eq] at h
    simp only [List.filter_cons]
    split
    · simp only [twfFrom, Bool.and_eq_true, decide_eq_true_eq]; exact ⟨h.1, ih h.2⟩
    · exact ih (twfFrom_mono h.2 (by omega))

/-- A table stays canonical when entries are left out. -/
theorem twf_filter {α : Type} [DecidableEq α] {t : Tbl α} {d : α} (p : Nat × α → Bool) (h : twf t d = true) :
    twf (t.filter p) d = true := by
  simp only [twf, Bool.and_eq_true, List.all_eq_true, decide_eq_true_eq] at *
  refine ⟨?_, fun q hq => h.2 q (List.mem_filter.mp hq).1⟩
  cases t with
  | nil => rfl
  | cons hd t =>
    obtain ⟨k, w⟩ := hd
    simp only [twfFrom] at h
    simp only [List.filter_cons]
    split
    · simp only [twfFrom]; exact twfFrom_filter p h.1
    · exact twfFrom_none (twfFrom_filter p h.1)

/-- Storing bytes keeps a memory canonical. -/
theorem twf_tputBytes (t : Tbl Byte) (a : Nat) (l : List Byte) (h : twf t 0 = true) : twf (tputBytes t a l) 0 = true := by
  induction l generalizing t a with
  | nil => exact h
  | cons b l ih => exact ih _ _ (twf_tputD a b h)

/-- A bound below the first line may be lowered. -/
theorem risingFrom_mono {l : List Nat} {a b : Nat} (h : risingFrom (some b) l = true) (hab : a ≤ b) : risingFrom (some a) l = true := by
  cases l with
  | nil => rfl
  | cons k l =>
    simp only [risingFrom, Bool.and_eq_true, decide_eq_true_eq] at *
    exact ⟨by omega, h.2⟩

/-- Lines that rise above a bound rise. -/
theorem risingFrom_none {l : List Nat} {b : Nat} (h : risingFrom (some b) l = true) : risingFrom none l = true := by
  cases l with
  | nil => rfl
  | cons k l => simp only [risingFrom, Bool.and_eq_true] at *; exact h.2

theorem risingFrom_linePut {l : List Nat} {lo i : Nat} (h : risingFrom (some lo) l = true) (hi : lo < i) :
    risingFrom (some lo) (linePut l i) = true := by
  induction l generalizing lo with
  | nil => simp [linePut, risingFrom, hi]
  | cons k l ih =>
    simp only [risingFrom, Bool.and_eq_true, decide_eq_true_eq] at h
    simp only [linePut]
    split
    · simp [risingFrom, h.2, *]
    · split
      · simp [risingFrom, h]
      · simp only [risingFrom, Bool.and_eq_true, decide_eq_true_eq]; exact ⟨h.1, ih h.2 (by omega)⟩

/-- A line joins the poisoned lines in its place. -/
theorem risingFrom_none_linePut {l : List Nat} {i : Nat} (h : risingFrom none l = true) : risingFrom none (linePut l i) = true := by
  cases l with
  | nil => rfl
  | cons k l =>
    simp only [risingFrom] at h
    simp only [linePut]
    split
    · simp_all [risingFrom]
    · split
      · simp [risingFrom, h]
      · simp only [risingFrom]; exact risingFrom_linePut h (by omega)

theorem risingFrom_filter {l : List Nat} {lo : Nat} (p : Nat → Bool) (h : risingFrom (some lo) l = true) :
    risingFrom (some lo) (l.filter p) = true := by
  induction l generalizing lo with
  | nil => rfl
  | cons k l ih =>
    simp only [risingFrom, Bool.and_eq_true, decide_eq_true_eq] at h
    simp only [List.filter_cons]
    split
    · simp only [risingFrom, Bool.and_eq_true, decide_eq_true_eq]; exact ⟨h.1, ih h.2⟩
    · exact ih (risingFrom_mono h.2 (by omega))

/-- Lines that are left out leave the rest rising. -/
theorem risingFrom_none_filter {l : List Nat} (p : Nat → Bool) (h : risingFrom none l = true) : risingFrom none (l.filter p) = true := by
  cases l with
  | nil => rfl
  | cons k l =>
    simp only [risingFrom] at h
    simp only [List.filter_cons]
    split
    · simp only [risingFrom]; exact risingFrom_filter p h
    · exact risingFrom_none (risingFrom_filter p h)

/-- The parts of the canonical form. -/
theorem Memory.wf_iff (m : Mem) : Memory.wf m = true ↔
    twf m.spad 0 = true ∧ twf m.sram 0 = true ∧ twf m.lmem 0 = true ∧ twf m.ddr 0 = true ∧ twf m.mram 0 = true ∧
      risingFrom none m.poison = true := by
  simp [Memory.wf, Bool.and_eq_true, and_assoc]

theorem Memory.wf_spadWrite (a : Nat) (l : List Byte) {m : Mem} (h : Memory.wf m = true) : Memory.wf (m.spadWrite a l) = true := by
  rw [Memory.wf_iff] at *; exact ⟨twf_tputBytes _ _ _ h.1, h.2⟩

theorem Memory.wf_sramWrite (a : Nat) (l : List Byte) {m : Mem} (h : Memory.wf m = true) :
    Memory.wf { m with sram := tputBytes m.sram a l } = true := by
  rw [Memory.wf_iff] at *; exact ⟨h.1, twf_tputBytes _ _ _ h.2.1, h.2.2⟩

theorem Memory.wf_lmemWrite (a : Nat) (l : List Byte) {m : Mem} (h : Memory.wf m = true) :
    Memory.wf { m with lmem := tputBytes m.lmem a l } = true := by
  rw [Memory.wf_iff] at *; exact ⟨h.1, h.2.1, twf_tputBytes _ _ _ h.2.2.1, h.2.2.2⟩

theorem Memory.wf_ddrWrite (a : Nat) (l : List Byte) {m : Mem} (h : Memory.wf m = true) : Memory.wf (m.ddrWrite a l) = true := by
  rw [Memory.wf_iff] at *
  exact ⟨h.1, h.2.1, h.2.2.1, twf_tputBytes _ _ _ h.2.2.2.1, h.2.2.2.2.1, risingFrom_none_filter _ h.2.2.2.2.2⟩

theorem Memory.wf_poisonLine (i : Nat) {m : Mem} (h : Memory.wf m = true) : Memory.wf (m.poisonLine i) = true := by
  rw [Memory.wf_iff] at *
  exact ⟨h.1, h.2.1, h.2.2.1, h.2.2.2.1, h.2.2.2.2.1, risingFrom_none_linePut h.2.2.2.2.2⟩

theorem Memory.wf_mramWrite (a : Nat) (l : List Byte) {m : Mem} (h : Memory.wf m = true) : Memory.wf (m.mramWrite a l) = true := by
  unfold Mem.mramWrite
  split
  · exact h
  · rw [Memory.wf_iff] at *
    exact ⟨h.1, h.2.1, h.2.2.1, h.2.2.2.1, twf_tputBytes _ _ _ h.2.2.2.2.1, h.2.2.2.2.2⟩

theorem Memory.wf_mramPut (a v : Nat) {m : Mem} (h : Memory.wf m = true) : Memory.wf (m.mramPut a v) = true :=
  Memory.wf_mramWrite _ _ h

theorem Memory.wf_putWords (a : Nat) (l : List Nat) {m : Mem} (h : Memory.wf m = true) : Memory.wf (putWords a l m) = true := by
  induction l generalizing a m with
  | nil => exact h
  | cons w l ih => exact ih _ (Memory.wf_mramPut _ _ h)

theorem Memory.wf_faultWrite (l : List Byte) {m : Mem} (h : Memory.wf m = true) : Memory.wf (m.faultWrite l) = true :=
  Memory.wf_mramWrite _ _ h

/-- The memories that a loss of their contents empties. -/
theorem Memory.wf_ddrLost {m : Mem} (h : Memory.wf m = true) : Memory.wf { m with ddr := [], poison := [] } = true := by
  rw [Memory.wf_iff] at *
  exact ⟨h.1, h.2.1, h.2.2.1, rfl, h.2.2.2.2.1, rfl⟩

theorem Memory.wf_resetTo (src : ResetSource) (x : Bool) {m : Mem} (h : Memory.wf m = true) : Memory.wf (m.resetTo src x) = true := by
  unfold Mem.resetTo
  split
  · rw [Memory.wf_iff] at *; exact ⟨rfl, rfl, rfl, rfl, h.2.2.2.2.1, rfl⟩
  · split
    · exact Memory.wf_ddrLost h
    · exact h

theorem Memory.wf_spadFilter (p : Nat × Byte → Bool) {m : Mem} (h : Memory.wf m = true) :
    Memory.wf { m with spad := m.spad.filter p } = true := by
  rw [Memory.wf_iff] at *; exact ⟨twf_filter p h.1, h.2⟩

/-- Bytes stored in a DCC ring keep the form. -/
theorem Memory.wf_dccPut (base size o : Nat) (l : List Byte) {m : Mem} (h : Memory.wf m = true) :
    Memory.wf (Mem.dccPut base size o l m) = true := by
  induction l generalizing o m with
  | nil => exact h
  | cons b l ih =>
    refine ih _ ?_
    rw [Memory.wf_iff] at *
    exact ⟨twf_tputD _ _ h.1, h.2⟩

/-- The read of a line that is written in part keeps the form. -/
theorem Memory.wf_mergeLine (m : Nat) (fs : List ParityFault) (i : Nat) {s : State} (h : Memory.wf s.mem = true) :
    Memory.wf (mergeLine m fs s i).mem = true := by
  unfold mergeLine
  split
  · exact h
  · simp only
    split
    · exact Memory.wf_poisonLine _ h
    · exact h

/-- A store to the LPDDR4X keeps the form. -/
theorem Memory.wf_ddrStore (m b : Nat) (l : List Byte) (fs : List ParityFault) {s : State} (h : Memory.wf s.mem = true) :
    Memory.wf (s.ddrStore m b l fs).mem = true := by
  have key : ∀ (ps : List Nat) (s : State), Memory.wf s.mem = true → Memory.wf (ps.foldl (mergeLine m fs) s).mem = true := by
    intro ps
    induction ps with
    | nil => exact fun _ h => h
    | cons p ps ih => exact fun s h => ih _ (Memory.wf_mergeLine m fs p h)
  exact Memory.wf_ddrWrite _ _ (key _ _ h)

/-- An engine's store keeps the form. -/
theorem Memory.wf_engineWrite (m a : Nat) (l : List Byte) (fs : List ParityFault) {s : State} (h : Memory.wf s.mem = true) :
    Memory.wf (engineWrite m a l fs s).mem = true := by
  unfold engineWrite
  split
  · exact h
  · exact Memory.wf_ddrStore m a _ fs h

end Sys2Proof.Machine
end

