-- ==== Sys2Proof/Tests/Slice0.lean ====
section
/-! SUPPORT. Tests: an ill-formed command refused for each check of WellFormed, small checks of single steps against values of the spec,
and for every statement with hypotheses a state and operands that meet them. -/

namespace Sys2Proof.Tests

-- One thread: as one text with many theorems, the package asks for more threads than the check's memory limit grants.
set_option Elab.async false

open Sys2Proof.Machine

/-! ### States for the tests -/

/-- Out of reset, with system timing running. -/
def live0 : State := { State.reset with ctl := { State.reset.ctl with held := none, timing := true } }

/-- In ACTIVE, with the service role ACTIVE. -/
def active0 : State := { live0 with ctl := { live0.ctl with mode := .active, svc := .active, leftBoot := true } }

/-- In COMMISSION. -/
def commission0 : State := { live0 with ctl := { live0.ctl with mode := .commission, leftBoot := true } }

/-- A register holds a value. -/
def onReg (a : Nat) (w : Word) (s : State) : State := s.mapCtl (Ctl.setReg a w)

/-- Change the control layer. -/
def withCtl (s : State) (f : Ctl → Ctl) : State := s.mapCtl f

/-- The watchdog's countdown has ended, in ACTIVE. -/
def expired : State := withCtl active0 fun c => { c with wdEnd := 0 }

/-- The watchdog's countdown has ended, in BOOT. -/
def expiredBoot : State := withCtl live0 fun c => { c with wdEnd := 0 }

/-- The last frame of a system multiframe. -/
def at31 (s : State) : State := withCtl s fun c => { c with fn := 31 }

/-- A transition waits for the multiframe boundary. -/
def pend (m p : Mode) : State := at31 (withCtl live0 fun c => { c with mode := m, modePend := some p })

/-- The header of an image of four bytes in the host's place, while the ROM waits for it. -/
def hostImage : State :=
  let h : List Byte := [0x53, 0x54, 0x58, 0x49, 0, 1, 0, 9, 0, 0, 0, 4, 0, 0, 0, 0, 0, 7] ++ List.replicate 46 0
  let s := onReg R.TOP_BOOT_STAT 3 live0
  { s with mem := { s.mem with sram := tputBytes s.mem.sram 0xFFFC0 h } }

/-- An image of four bytes in flash, whose header names its length. -/
def flashBoot : BootIn :=
  { straps := 0, xo := true, romOk := true, sramOk := true, katOk := true, flashB := []
    flashA := [0x53, 0x54, 0x58, 0x49, 0, 1, 0, 9, 0, 0, 0, 4] ++ List.replicate 52 0 ++ [1, 2, 3, 4] }

/-- Receive lane 3. -/
def lane3 (l : LaneRx) : State := withCtl live0 fun c => { c with rx := [(3, l)] }

/-- The overhead of lane 3. -/
def oh3 (o : LaneOh) : State := withCtl live0 fun c => { c with oh := [(3, o)] }

/-- Lane 3 is the reference of bond 5, with REFORM set, in the last frame of a multiframe. -/
def bond5 (l : LaneRx) : State :=
  onReg (R.LRX_BOND 3) 0x85 (at31 (withCtl (lane3 l) fun c => { c with bonds := [(5, ⟨0, 200000, 3⟩)] }))

/-- A long time has passed. -/
def late1 (s : State) : State := withCtl s fun c => { c with mtime := 1000000000 }

/-- A key. -/
def key16 : KeyVal := ⟨List.replicate 16 0x5A, 1, false⟩

/-- A MOB of sequence 7 sealed under the key by the far end. -/
def mob7 : List Byte :=
  let b : List Byte := List.replicate 240 0 ++ [0, 0, 0, 7]
  b ++ sealTag key16 false 7 b ++ [0, 0, 0, 0]

/-- Lane 3 expects sealed overhead, has the key, and its mask and hash key are at hand. -/
def sealed3 : State :=
  onReg (R.LOH_SEAL 3) 0x40000000 (withCtl (oh3 { mobDone := some (mob7, true, 0, []), sLast := some 3 }) fun c =>
    { c with cip := { c.cip with slots := [(3, { key := some key16 })], ready := [⟨3, 3, 1⟩, ⟨3, 1, 7⟩] } })

/-- Frame 30: the tag of lane 3 can be made, that of lane 4 cannot. -/
def tagged3 : State := withCtl live0 fun c =>
  let l : LaneTx := { sealed := some (key16, 7), mob := mobClose (List.replicate 252 0), apsMf := List.replicate 2048 0 }
  { c with fn := 30, tx := [(3, l), (4, l)], cip := { c.cip with ready := [⟨3, 0, 7⟩, ⟨3, 3, 1⟩] } }

/-- A serial port takes the DCC-N of lane 3. -/
def osp1 (k : Nat) : State :=
  onReg (R.OHC_OSP_CTL k) 0x80000003 (withCtl (lane3 { inFrame := true, mfAligned := true, los := false, lol := false, lof := false, top := 0 })
    fun c => { c with osp := [(k, { store := List.replicate 130 0x11, running := true })] })

/-- The STANDBY side is initialised and in a state. -/
def init0 (st : Nat) : State := withCtl live0 fun c => c.sets [(F.CMP_STAT_INIT_DONE, 1), (F.CMP_STAT_STATE, st)]

/-- A sealed page with the verdict ACCEPT. -/
def sealedOk : State := withCtl (init0 2) (Ctl.set F.CMP_STAT_VERDICT 1)

/-- A swap is pending for frame 9. -/
def swap9 (agreed : Bool) : State := withCtl sealedOk fun c => { c with swap := some ⟨9, agreed, false, false⟩ }

/-- A swap is pending for frame 1, with the rates its page was sealed under. -/
def swap1 (r : Word) : State := onReg R.CMP_SEAL_RATES r (withCtl sealedOk fun c => { c with swap := some ⟨1, false, false, false⟩ })

/-- A measurement runs or none. -/
def meas0 (m : Option MeasKind) : State := withCtl live0 fun c => { c with mgn := { c.mgn with meas := m } }

/-- A ramp toward 900 mV has failed some attempts in a row. -/
def ramp0 (f : Nat) : State := withCtl live0 fun c =>
  ({ c with mgn := { c.mgn with rampTo := 900, fails := f } }).sets [(F.MGN_AVS_STAT_RAMP, 1), (F.MGN_AVS_STAT_SET_MV, 800)]

/-- Slot group 5. -/
def group5 (g : Group) : State := withCtl live0 fun c => { c with groups := [(5, g)] }

/-- Slot group 5 is queued. -/
def queued5 (g : Group) : State := withCtl (group5 g) fun c => { c with pgQueue := [(5, 31)] }

/-- The first two stored words of a slot group. -/
def slotWords (g w0 w1 : Nat) (s : State) : State := { s with xc := { s.xc with prot := [(4 * g, w0), (4 * g + 1, w1)] } }

/-- The data words of host lane 0. -/
def circuit0 (w0 w1 : Word) : State := onReg (R.HL_CIR_W0 0) w0 (onReg (R.HL_CIR_W1 0) w1 live0)

/-- An enabled transmit circuit of host lane 0, accepted stores that wait for the boundary, and a store of host lane 1 that waits. -/
def entry0 : State := withCtl live0 fun c => { c with
  hl := [(0, { words := [0xC0000000, 100, 0], due := true })], rl := [(256, { words := [0, 0, 0, 0, 0], due := true })]
  pl := [(64, { due := true })], cfgWait := [(0x39, (0, []))] }

/-- Recorder lane 1 in a state, with trigger sources that wait. -/
def rec1 (st src : Nat) : State := withCtl live0 fun c => ({ c with fn := 7, rlTrig := [(1, src)] }).set (F.RL_STAT_STATE 1) st

/-- Candidate 0 of the timing table, with its entry in the adopted record. -/
def cand0 (st cnt left : Nat) (w : Word) : State := withCtl live0 fun c => { c with
  record := some ⟨1, 0, [(R.TMU_TT_A 0, w)]⟩, tmu := { c.tmu with cands := [(0, { state := st, count := cnt, left := left })] } }

/-- The DPLL in a state, with a phase step that waits or none. -/
def dpll0 (st : Nat) (z : Option StepKind) : State := withCtl live0 fun c =>
  ({ c with tmu := { c.tmu with step := z } }).set F.TMU_STAT_STATE st

/-- Domain A, selected. -/
def dom0 (d : Domain) : State := withCtl live0 fun c => { c with tb := { c.tb with a := d } }

/-- Transmit stamp queue 0 holds stamps, and one more is due. -/
def txq0 (n : Nat) : State := withCtl live0 fun c => { c with tb := { c.tb with
  txq := [(0, { items := List.replicate n ⟨1, false, 2, 3⟩ })], txPend := [(0, ⟨9, true, 2, 7⟩)] } }

/-- The PRIMARY of a pair with PAIR_ID 1, in STANDBY, in a pair state; three good pennants have been received, the last at 0. -/
def pair0 (ps : Nat) : State := withCtl live0 fun c =>
  (({ c with mode := .standby, svc := .standby, record := some ⟨1, 0, [(R.UPR_CFG, 1)]⟩, lastPennant := some 0, pair := { c.pair with good := 3 } }).setReg
    R.TOP_STRAPS 2).set F.UPR_STAT_PSTATE ps

/-- A pennant of PAIR_ID 1 and roles 0xC0, all other fields zero. -/
def pennant (kind : Byte) : List Byte :=
  let b : List Byte := [0x9E, kind] ++ List.replicate 6 0 ++ [0, 0, 1, 0xC0] ++ List.replicate 48 0
  b ++ beBytes 4 (crc32 b)

/-- A pennant of the mate with its ROLES. -/
def mate0 (roles : Nat) : Pennant := ⟨0, 0, roles, 0, 0, 0, 0, 0, 0, 0, 0, 0, 0, 0⟩

/-- Paired, in frame 28, with a service role and the mate's ROLES. -/
def mate28 (r : SvcRole) (roles : Nat) : State := withCtl (pair0 2) fun c => { c with
  fn := 28, svc := r, pair := { c.pair with mate := some (mate0 roles), serviceAt := some 0 } }

/-- A role action waits for frame 32. -/
def act32 (a : RoleAct) : State := at31 (withCtl (pair0 2) fun c => { c with pair := { c.pair with act := some (a, 32) } })

/-- SUSPECT, with D in frame 32 and echo observations of lane 3, which gives evidence. -/
def suspect32 (l : List EchoObs) : State :=
  at31 (withCtl (pair0 3) fun c => { c with pair := { c.pair with decAt := some 32, obs := l } }.set (F.LOH_CTL_EVID_EN 3) 1)

/-- The conditions of the revert timer hold, and it ends at 5. -/
def revert0 : State := withCtl (pair0 2) fun c => ({ c with pair := { c.pair with mate := some (mate0 0x88), wtrEnd := some 5, hoRetry := some 5 } }).sets
  [(F.TMU_STAT_MATE_FOLLOW, 1), (F.TMU_STAT_STATE, 2), (F.MGN_STAT_AT_RISK, 0), (F.MGN_STAT_MARGIN_CRITICAL, 0)]

/-- A hand-over for frame 64, in an ACTIVE unit. -/
def ho64 (h : Handover) (f : Nat) : State := withCtl (pair0 2) fun c => { c with
  fn := BitVec.ofNat 48 f, svc := .active, pair := { c.pair with ho := h, hoH := 64, hoSeen := true, mate := some { mate0 0 with kind := 4, h := 64 } } }

/-- The last segment of a VER job without bytes. -/
def seg0 : Segment :=
  { master := 2, last := true, aad := 0, aadLen := 0, src := 0, dst := 0, len := 0, rand := false,
    ctx := { op := 4, slot := 24, flagged := false, tagLen := 16, iv := List.replicate 12 0, key := List.replicate 16 0 } }

/-- The last segment of an ENC job that takes 16 bytes of working SRAM. -/
def segEnc : Segment := { seg0 with src := 0x02000000, dst := 0x02000100, len := 16, ctx := { seg0.ctx with op := 1 } }

/-- A master holds the latch; the SLR waits or not, and a segment runs or none. -/
def held0 (m : Nat) (w : Bool) (g : Option Segment) : State := withCtl (onReg R.TOP_CORE_RUN 0xF live0) fun c => { c with
  latch := { holder := some m, since := 0, slrWaiting := w, asked := 0 }, cip := { c.cip with seg := g } }

/-- C2 holds the latch, slot 24 has a key that C2 may use, and CIP_JOB_CTL holds a value. -/
def job0 (w : Word) : State := onReg R.CIP_JOB_CTL w (onReg (R.CIP_SLOT_POL 24) 0x4 (withCtl (held0 2 false none) (Ctl.setSlot 24 { key := some key16 })))

/-- A suspended job of C2, to be taken up. -/
def later0 : State := withCtl (job0 0x40000018) fun c => { c with cip := { c.cip with susp := [(2, seg0.ctx)] } }

/-- A slot is selected for a load, with its policy. -/
def key0 (i : Nat) (p : Word) : State :=
  onReg (R.CIP_SLOT_POL i) p (onReg R.CIP_KEY_SEL (BitVec.ofNat 32 i) (onReg R.TOP_CORE_RUN 0xF live0))



/-- DMA_0 busy or not, with SRC, DST and LEN. -/
def dma0 (busy src dst len : Nat) : State := withCtl live0 fun c => c.sets [(F.DMA_STAT_BUSY 0, busy), (F.DMA_SRC_VALUE 0, src),
  (F.DMA_DST_VALUE 0, dst), (F.DMA_LEN_VALUE 0, len)]

/-- Channel 3 binds C1 and C2. -/
def mbx3 (b : Mailbox) : State := withCtl (onReg R.TOP_CORE_RUN 0xF live0) fun c =>
  { c with mbx := [(3, b)] }.sets [(F.MBX_BIND_EN 3, 1), (F.MBX_BIND_A 3, 1), (F.MBX_BIND_B 3, 2)]

/-- A PM second in which lane 3 contributed has ended, and `n` more. -/
def pm0 (n : Nat) : State := withCtl live0 fun c => { c with pm := { c.pm with
  pend := ⟨0, 0, 10000, [(3, { ne := 5 })]⟩ :: List.replicate n ⟨0, 0, 10000, []⟩ } }

/-- Switch-count bin 2 waits to be copied. -/
def swb0 (en : Nat) : State := withCtl live0 fun c => { c with swbDue := [⟨2, 0, 0, true, false⟩] }.set F.EVT_SWB_CFG_EN en

/-- A louvre with suppressions or none, an open summary window of lane 3, and group 5 pending a SWITCH record. -/
def louvre1 (supp : Nat) : State := onReg R.EVT_RING_CFG 0x80000000 (withCtl live0 fun c => { c with ev := { c.ev with
  louvres := [(1, ⟨0, supp, 5, 6, 0, 0⟩)], windows := [(3, ⟨7, 4, 1, 2, 0⟩)], swPend := [(5, (2, 1, 1, 3))] } })

/-- A record of class 1 of page 0. -/
def rec3 : EvRec := { seq := 9, typ := 0, cls := 1, evBit := 0, page := 0, fn := 0, flags := 0, time := 0, stat := 0, detail := [] }

/-- The notify ring is enabled, with records held up to WR, and one record waits. -/
def ring0 (held : Tbl EvRec) (wr : Nat) : State := onReg R.EVT_RING_CFG 0x80000000 (withCtl live0 fun c =>
  { c with ev := { c.ev with waiting := [rec3], held } }.set F.EVT_RING_WR_PTR wr)

/-- The link is up with Memory Space Enable 1. -/
def linked : State := onReg R.HST_CTL 1 (onReg R.HST_STAT 0x80008000 live0)

/-- UART 1 sends a byte, with `n` bytes in both FIFOs. -/
def uart1 (n : Nat) : State := onReg (R.PER_UART_CTL 1) 0x80000000 (withCtl live0 fun c => c.setUart 1 ⟨List.replicate n 7, some 5, 0, List.replicate n 7⟩)

/-! ### Ill-formed commands are refused: one for each check of WellFormed -/

theorem test_illFormed_resets :
    ([.resetRelease ⟨64, true, true, true, true, [], []⟩,
     .tapInstructionUpdate 32 {},
     .wdogKickBegin 12,
     .modeReqUnknown 2,
     .modeReqUnknown 8] : List Instr).all (fun i => !i.wellFormed) = true := by decide +kernel

theorem test_illFormed_lanes :
    ([.signalRise 24,
     .fawCandidateMatch 3 0 true 256 0,
     .frameReceive 3 ⟨2 ^ 32, 0, 0, 0, 0, [], [], [], [], ⟨0, []⟩⟩ 0 [],
     .frameReceive 3 ⟨0, 0, 0, 0, 0, [], [], [], [], ⟨0, [(159000, 0)]⟩⟩ 0 [],
     .rateWrite 3 2,
     .bondReform 0,
     .bondReform 13,
     .cntClrAll 0x001,
     .frameBoundary [(24, 0)] [] none [] 0] : List Instr).all (fun i => !i.wellFormed) = true := by decide +kernel

theorem test_illFormed_overhead :
    ([.ospBlock 8 (List.replicate 128 0),
     .ospBlock 0 [0],
     .ringCfgWrite 3 4 0,
     .ringPtrWrite 3 0 65536,
     .traceExpWrite 3 16 0] : List Instr).all (fun i => !i.wellFormed) = true := by decide +kernel

theorem test_illFormed_pages :
    ([.standbyWindowWrite 0 0xA0000000 3 0,
     .connWindowRead 12 0xA0000000 4 0 0,
     .connWindowRead 0 0xA0000000 4 4 0] : List Instr).all (fun i => !i.wellFormed) = true := by decide +kernel

theorem test_illFormed_ledgerAndMargin :
    ([.ledgerClaim 8 1,
     .ledgerRelease 1 0x1000000,
     .speedMeasurementEnd [],
     .targetWrite 2048,
     .limitWrite 65536] : List Instr).all (fun i => !i.wellFormed) = true := by decide +kernel

theorem test_illFormed_protection :
    ([.pgApply 12 false 0 false,
     .pgCmdUnknown 0 3 false 0,
     .protTableAccess 0 0x100000000 4 false 0 false,
     .holdoffExpiry 0 4,
     .wtrExpiry 65548,
     .lgBridgeEffect 12] : List Instr).all (fun i => !i.wellFormed) = true := by decide +kernel

theorem test_illFormed_internalLanes :
    ([.cfgTableLoad 0x037,
     .cfgTableOpUnknown 0x038 2,
     .cfgEntryEffect 0x03C 64,
     .rlArm 2,
     .plErrorInject 0 64] : List Instr).all (fun i => !i.wellFormed) = true := by decide +kernel

theorem test_illFormed_timing :
    ([.measurementSecondEnd [] none 0 0,
     .candidateWtrExpiry 8,
     .captureRead 0 0x1000000 0,
     .txqPop 0 3,
     .compareFire 4 0,
     .mfsSelect 0 32,
     .pennantReceive (List.replicate 257 none) 0 0] : List Instr).all (fun i => !i.wellFormed) = true := by decide +kernel

theorem test_illFormed_coresAndMemory :
    ([.slotPolicyWrite 48 0,
     .coreTimerInterrupt 4 0,
     .defaultTargetAccess 0 0 16 false 0 0 [] {},
     .dmaStarve 5 16 0 0,
     .caseCfgWrite 16 0,
     .dmaGo 0 2,
     .memReady 4,
     .mr4Update 8,
     .mbxSend 0 32,
     .mbxDataWrite 0 0 16 0] : List Instr).all (fun i => !i.wellFormed) = true := by decide +kernel

theorem test_illFormed_monitoring :
    ([.pmcWrite 96 0 false,
     .louvreToken 0x002 0,
     .louvreToken 0x000 16,
     .notifyRdWrite 16384,
     .msixPendingSend 64,
     .lifDataWrite 0 0 3] : List Instr).all (fun i => !i.wellFormed) = true := by decide +kernel

theorem test_illFormed_hostAndPeripherals :
    ([.linkUp 5 1,
     .linkUp 1 3,
     .hostReadRequest 6 0 [] false 0 [],
     .hostWriteRequest 0 0 [true] [] false 0 [],
     .registerWrite 0 0x002 0 0,
     .uartDataRead 2,
     .i2cGo 4 0,
     .i2cDone 0 7 0 [],
     .qspiDone (List.replicate 257 0),
     .gpioChange 16 true] : List Instr).all (fun i => !i.wellFormed) = true := by decide +kernel

/-! ### An image whose tag verifies under the root key, whatever that key is -/

/-- The first 32 bytes of a header of an image of four bytes. -/
def head32 : List Byte := [0x53, 0x54, 0x58, 0x49, 0, 1, 0, 9, 0, 0, 0, 4] ++ List.replicate 20 0

/-- Flash with an image whose tag is a list of 16 bytes. -/
def flashWith (t : List Byte) : List Byte := head32 ++ t ++ List.replicate 16 0 ++ [1, 2, 3, 4]

theorem wit_flash_fields (t : List Byte) (ht : t.length = 16) :
    slice (flashWith t) 0 64 = head32 ++ t ++ List.replicate 16 0 ∧ slice (flashWith t) 64 4 = [1, 2, 3, 4] ∧
    slice (head32 ++ t ++ List.replicate 16 0) 0 32 = head32 ∧ slice (head32 ++ t ++ List.replicate 16 0) 32 16 = t ∧
    slice (head32 ++ t ++ List.replicate 16 0) 48 16 = List.replicate 16 0 ∧
    slice (head32 ++ t ++ List.replicate 16 0) 20 12 = List.replicate 12 0 ∧
    beAt (head32 ++ t ++ List.replicate 16 0) 8 4 = 4 ∧ beAt (head32 ++ t ++ List.replicate 16 0) 18 2 % 2 = 0 ∧
    headerLegal (head32 ++ t ++ List.replicate 16 0) = true := by
  match t, ht with
  | [a, b, c, d, e, f, g, h, i, j, k, l, m, n, o, p], _ =>
    refine ⟨rfl, rfl, rfl, rfl, rfl, rfl, rfl, ?_, ?_⟩
    · have hs : slice (head32 ++ [a, b, c, d, e, f, g, h, i, j, k, l, m, n, o, p] ++ List.replicate 16 0) 18 2 = [0, 0] := rfl
      rw [beAt, hs]; decide
    generalize hx : head32 ++ [a, b, c, d, e, f, g, h, i, j, k, l, m, n, o, p] ++ List.replicate 16 0 = x
    have hs : slice x 0 4 = [0x53, 0x54, 0x58, 0x49] := by rw [← hx]; rfl
    have h0 : beAt x 0 4 = 0x53545849 := by rw [beAt, hs]; decide
    have h1 : beAt x 4 2 = 1 := by rw [← hx]; rfl
    have h2 : beAt x 8 4 = 4 := by rw [← hx]; rfl
    have h3 : beAt x 12 4 = 0 := by rw [← hx]; rfl
    have h4 : beAt x 18 2 = 0 := by rw [← hx]; rfl
    have h5 : slice x 48 16 = List.replicate 16 0 := by rw [← hx]; rfl
    simp only [headerLegal, h0, h1, h2, h3, h4, h5]
    decide

theorem wit_flash_tag : ∃ t : List Byte,
    slice (flashWith t) 64 (beAt (slice (flashWith t) 0 64) 8 4) = [1, 2, 3, 4] ∧ headerLegal (slice (flashWith t) 0 64) = true ∧
    beAt (slice (flashWith t) 0 64) 18 2 % 2 = 0 ∧ imageTagOk (slice (flashWith t) 0 64) [1, 2, 3, 4] = true := by
  obtain ⟨t, ht⟩ : ∃ t, gmac Config.rootKey (List.replicate 12 0) (head32 ++ List.replicate 16 0 ++ List.replicate 16 0 ++ [1, 2, 3, 4]) = t := ⟨_, rfl⟩
  have hl : t.length = 16 := by rw [← ht]; exact length_beBytes 16 _
  obtain ⟨h0, h1, h2, h3, h4, h5, h6, h7, h8⟩ := wit_flash_fields t hl
  exact ⟨t, by rw [h0, h6, h1], by rw [h0, h8], by rw [h0, h7], by rw [h0]; unfold imageTagOk; rw [h2, h3, h4, h5, ht, beq_self_eq_true]⟩

/-! ### The hypotheses of the statements are met -/

/-! ### Structure -/

/-- What the statement asks for is met. -/
theorem wit_message_check :
    apsDecode (apsEncode ⟨5, 0xF, true, false⟩ 7) = some ⟨5, 0xF, true, false⟩ := by decide +kernel

/-- What the statement asks for is met. -/
theorem wit_held_device :
    State.reset.ctl.held.isSome = true ∧ Instr.copyRequest ≠ .powerOnReset := by decide +kernel

/-! ### Resets, balls and the watchdog -/

/-- What the statement asks for is met. -/
theorem wit_system_resets :
    live0.ctl.held ≠ some .por ∧ live0.ctl.held ≠ some .tap ∧ live0.ctl.live = true ∧ wGet 0xD1E50001 31 16 = 0xD1E5 ∧ bit (0xD1E50001 : Word).toNat 0 = true ∧ (6 : Nat) ∈ [0x00, 0x03, 0x04, 0x05, 0x06] ∧ ¬ (wGet 0xD1E50000 31 16 = 0xD1E5 ∧ bit (0xD1E50000 : Word).toNat 0 = true) := by decide +kernel

/-- What the statement asks for is met. -/
theorem wit_reset_from :
    exec .resetNAssert live0 = .next ((live0.resetFrom .pin).mapCtl (Ctl.settle live0.ctl)) := rfl

/-- What the statement asks for is met. -/
theorem wit_kick_sequence :
    live0.ctl.live = true ∧ live0.ctl.MayReg 0 R.TOP_WDOG_KICK true ∧ live0.ctl.MayReg 4 R.TOP_WDOG_KICK true ∧ ({ live0 with ctl := { live0.ctl with kick := some 0 } } : State).ctl.kick = some 0 ∧ live0.ctl.kick ≠ some 0 := by decide +kernel

/-- What the statement asks for is met. -/
theorem wit_watchdog_active :
    expired.ctl.timed = true ∧ expired.ctl.on F.TOP_WDOG_CTL_EN = true ∧ expired.ctl.romWaits = false ∧ (expired.ctl.advTo 5).wdEnd ≤ (expired.ctl.advTo 5).mtime ∧ expired.ctl.mode = .active := by decide +kernel

/-- What the statement asks for is met. -/
theorem wit_watchdog_boot :
    expiredBoot.ctl.timed = true ∧ expiredBoot.ctl.on F.TOP_WDOG_CTL_EN = true ∧ expiredBoot.ctl.romWaits = false ∧ (expiredBoot.ctl.advTo 5).wdEnd ≤ (expiredBoot.ctl.advTo 5).mtime ∧ expiredBoot.ctl.mode = .boot := by decide +kernel

/-- What the statement asks for is met. -/
theorem wit_watchdog_control :
    live0.ctl.live = true ∧ live0.ctl.leftBoot = false ∧ active0.ctl.live = true ∧ active0.ctl.leftBoot = true := by decide +kernel

/-- What the statement asks for is met. -/
theorem wit_ball_events :
    live0.ctl.live = true ∧ State.reset.ctl.live = false ∧ (0x10 : Nat) % 32 ∉ [0x00, 0x03, 0x04, 0x05, 0x06] ∧ live0.ctl.coreRuns 0 = true ∧ bit live0.ctl.coreDbg 0 = false ∧ (withCtl live0 fun c => { c with tapInstr := 0x10 }).ctl.secLock = false ∧ (onReg R.TOP_STRAPS 0xFF live0).ctl.secLock = true ∧ State.reset.ctl.held = some .por ∧ live0.ctl.tapInstr ∉ [0x00, 0x02, 0x03, 0x04, 0x10] ∧ (withCtl live0 fun c => { c with mode := .recovery }).ctl.mode = .recovery ∧ (withCtl live0 fun c => { c with mode := .recovery }).ctl.held = none := by decide +kernel

/-- What the statement asks for is met. -/
theorem wit_oscillator_lost :
    active0.ctl.live = true ∧ active0.ctl.timing = true ∧ active0.ctl.xoLost = false ∧ active0.ctl.pairRuns = false ∧ (onReg R.UPR_STAT 0xFFFFFFFF (onReg R.TOP_STRAPS 0xFF active0)).ctl.pairRuns = true := by decide +kernel

/-! ### Modes and start-up -/

/-- What the statement asks for is met. -/
theorem wit_mode_commission :
    (onReg R.TOP_STRAPS 0xFF live0).ctl.live = true ∧ (onReg R.TOP_STRAPS 0xFF live0).ctl.modePend = none ∧ (onReg R.TOP_STRAPS 0xFF live0).ctl.mode = .boot ∧ (onReg R.TOP_STRAPS 0xFF live0).ctl.on F.TOP_STRAPS_COMMISSION_EN = true := by decide +kernel

/-- What the statement asks for is met. -/
theorem wit_mode_service :
    (onReg R.TOP_COMM_STAT 0xFFFFFFFF live0).ctl.modePend = none ∧ (onReg R.TOP_COMM_STAT 0xFFFFFFFF live0).ctl.mode = .boot ∧ (onReg R.TOP_COMM_STAT 0xFFFFFFFF live0).ctl.on F.TOP_COMM_STAT_VALID = true ∧ (onReg R.TOP_COMM_STAT 0xFFFFFFFF live0).ctl.on (F.HDR_FAULT_RECORDED 0) = false := by decide +kernel

/-- What the statement asks for is met. -/
theorem wit_mode_maintenance :
    (onReg R.TOP_MAINT_LANES 4 active0).ctl.live = true ∧ (onReg R.TOP_MAINT_LANES 4 active0).ctl.modePend = none ∧ (onReg R.TOP_MAINT_LANES 4 active0).ctl.mode = .active ∧ (onReg R.TOP_MAINT_LANES 4 active0).ctl.get F.TOP_MAINT_LANES_LANES ≠ 0 := by decide +kernel

/-- What the statement asks for is met. -/
theorem wit_mode_transitions :
    (pend .active .maintenance).ctl.timed = true ∧ (pend .active .maintenance).ctl.mfEdge = true ∧ (pend .active .maintenance).ctl.on F.TOP_COMM_STAT_SEAL_BUSY = false ∧ (pend .active .maintenance).ctl.modePend = some .maintenance ∧ (pend .active .maintenance).ctl.mode ≠ .maintenance ∧ (pend .maintenance .active).ctl.modePend = some .active ∧ (pend .maintenance .active).ctl.mode = .maintenance ∧ (pend .boot .active).ctl.modePend = some .active ∧ (pend .boot .active).ctl.mode = .boot ∧ (pend .boot .active).ctl.pairEn = false := by decide +kernel

/-- What the statement asks for is met. -/
theorem wit_mode_refused :
    (pend .active .maintenance).ctl.live = true ∧ (pend .active .maintenance).ctl.modePend.isSome = true ∧ live0.ctl.modePend = none ∧ live0.ctl.mode = .boot ∧ live0.ctl.on F.TOP_STRAPS_COMMISSION_EN = false ∧ live0.ctl.on F.TOP_COMM_STAT_VALID = false ∧ active0.ctl.modePend = none ∧ active0.ctl.mode = .active ∧ active0.ctl.get F.TOP_MAINT_LANES_LANES = 0 ∧ active0.ctl.mode ≠ .boot ∧ live0.ctl.mode ≠ .active ∧ live0.ctl.mode ≠ .standby ∧ (onReg (R.HDR_FAULT 0) 0x80000010 (onReg R.TOP_COMM_STAT 0xFFFFFFFF live0)).ctl.on F.TOP_COMM_STAT_VALID = true ∧ (onReg (R.HDR_FAULT 0) 0x80000010 (onReg R.TOP_COMM_STAT 0xFFFFFFFF live0)).ctl.on (F.HDR_FAULT_RECORDED 0) = true := by decide +kernel

/-- What the statement asks for is met. -/
theorem wit_commissioning_seal :
    (pend .commission .active).ctl.live = true ∧ commission0.ctl.modePend = none ∧ commission0.ctl.mode = .commission ∧ commission0.ctl.on (F.HDR_FAULT_RECORDED 0) = false ∧ (onReg (R.HDR_FAULT 0) 0x80000010 commission0).ctl.on (F.HDR_FAULT_RECORDED 0) = true ∧ ({ commission0 with ctl := { commission0.ctl with sealRec := some [1, 2] } } : State).ctl.sealRec = some [1, 2] := by decide +kernel

/-- What the statement asks for is met. -/
theorem wit_flash_boot :
    flashBoot.xo = true ∧ flashBoot.katOk = true ∧ bits flashBoot.straps 3 2 = 0 ∧ headerLegal (slice flashBoot.flashA 0 64) = true ∧ beAt (slice flashBoot.flashA 0 64) 18 2 % 2 = 0 ∧ slice flashBoot.flashA 64 (beAt (slice flashBoot.flashA 0 64) 8 4) = [1, 2, 3, 4] ∧ beAt flashBoot.flashB 0 4 ≠ 0x53545849 := by decide +kernel

/-- What the statement asks for is met. -/
theorem wit_reset_release :
    State.reset.ctl.held = some .por ∧ tapHolds State.reset.ctl.tapInstr = false ∧ bits 0 3 2 = 0 ∧ beAt [] 0 4 ≠ 0x53545849 := by decide +kernel

/-- What the statement asks for is met. -/
theorem wit_host_boot :
    live0.ctl.live = true ∧ live0.ctl.romPolls = false ∧ (onReg R.TOP_BOOT_STAT 3 live0).ctl.romPolls = true ∧ beAt (tbytes (onReg R.TOP_BOOT_STAT 3 live0).mem.sram 0xFFFC0 64) 0 4 ≠ 0x53545849 ∧ hostImage.ctl.romPolls = true ∧ hostImage.ctl.headerReason (tbytes hostImage.mem.sram 0xFFFC0 64) = 0 ∧ hostImage.ctl.on F.CIP_STAT_LOCKED = false := by decide +kernel

/-! ### Receive and transmit lanes -/

/-- What the statement asks for is met. -/
theorem wit_lane_inputs :
    (3 : Nat) < 24 ∧ (lane3 { sig := true }).ctl.timed = true ∧ (lane3 { sig := true }).ctl.rxEnabled 3 = true ∧ ((lane3 { sig := true }).ctl.lrx 3).sig = true ∧ (lane3 { sig := true }).ctl.on (F.LRX_EQ_FREEZE 3) = false ∧ (onReg (R.HDR_CTL 0x103) 0 live0).ctl.rxEnabled 3 = false ∧ ((lane3 {}).ctl.lrx 3).looped = false ∧ ((lane3 { looped := true }).ctl.lrx 3).looped = true ∧ (lane3 {}).ctl.txLit 3 = true ∧ (withCtl (lane3 { looped := true }) fun c => c.setTx 3 { source := 3 }).ctl.txLit 3 = false := by decide +kernel

/-- What the statement asks for is met. -/
theorem wit_lane_defects :
    (lane3 {}).ctl.timed = true ∧ (lane3 {}).ctl.rxEnabled 3 = true ∧ ((lane3 {}).ctl.lrx 3).sig = false ∧ ((lane3 {}).ctl.lrx 3).cdr = false ∧ ((lane3 { sig := true, cdr := true }).ctl.lrx 3).sig = true ∧ ((lane3 { sig := true, cdr := true }).ctl.lrx 3).cdr = true := by decide +kernel

/-- What the statement asks for is met. -/
theorem wit_hunt_new :
    (lane3 { cdr := true }).ctl.timed = true ∧ (lane3 { cdr := true }).ctl.rxEnabled 3 = true ∧ ((lane3 { cdr := true }).ctl.lrx 3).inFrame = false ∧ ((lane3 { cdr := true }).ctl.lrx 3).cdr = true ∧ ((lane3 { cdr := true }).ctl.lrx 3).cands.find? (·.pos == 7) = none ∧ 8 ≤ ((lane3 { cands := [⟨1, 1, [], []⟩, ⟨2, 1, [], []⟩, ⟨3, 1, [], []⟩, ⟨4, 1, [], []⟩, ⟨5, 1, [], []⟩, ⟨6, 1, [], []⟩, ⟨8, 1, [], []⟩, ⟨9, 1, [], []⟩] }).ctl.lrx 3).cands.length := by decide +kernel

/-- What the statement asks for is met. -/
theorem wit_hunt_several :
    ((lane3 { window := true, cands := [⟨7, 3, [1, 2, 3], [0, 1]⟩, ⟨9, 3, [4, 4, 4], [9, 9]⟩] }).ctl.lrx 3).cands.filter (fun k => decide (3 ≤ k.hits)) = [⟨7, 3, [1, 2, 3], [0, 1]⟩, ⟨9, 3, [4, 4, 4], [9, 9]⟩] ∧ ([⟨7, 3, [1, 2, 3], [0, 1]⟩, ⟨9, 3, [4, 4, 4], [9, 9]⟩] : List Cand).filter (fun k => mfisCount k.mfis && k.bips.all (· ≤ 1)) = [⟨7, 3, [1, 2, 3], [0, 1]⟩] ∧ ([⟨9, 3, [4, 4, 4], [9, 9]⟩, ⟨7, 3, [1, 2], [0, 1]⟩] : List Cand).filter (fun k => mfisCount k.mfis && k.bips.all (· ≤ 1)) = [] ∧ 2 ≤ (([⟨7, 3, [1, 2, 3], [0, 1]⟩, ⟨9, 3, [31, 0, 1], [1, 1]⟩] : List Cand).filter (fun k => mfisCount k.mfis && k.bips.all (· ≤ 1))).length ∧ ((lane3 { looped := true }).ctl.lrx 3).looped = true ∧ tfind (lane3 { looped := true }).dp.sent 3 = none := by decide +kernel

/-- What the statement asks for is met. -/
theorem wit_hunt_old :
    ((lane3 { cdr := true, cands := [⟨7, 2, [1, 2], [0]⟩] }).ctl.lrx 3).cands.find? (·.pos == 7) = some ⟨7, 2, [1, 2], [0]⟩ ∧ ((lane3 { window := true, cands := [⟨7, 3, [1, 2, 3], [0, 0]⟩, ⟨9, 1, [4], []⟩] }).ctl.lrx 3).cands.filter (fun k => decide (3 ≤ k.hits)) = [⟨7, 3, [1, 2, 3], [0, 0]⟩] ∧ ((lane3 { window := true }).ctl.lrx 3).window = true ∧ ((lane3 { window := true }).ctl.lrx 3).cands.filter (fun k => decide (3 ≤ k.hits)) = [] := by decide +kernel

/-- What the statement asks for is met. -/
theorem wit_lof_clear :
    (lane3 { inFrame := true }).ctl.timed = true ∧ (lane3 { inFrame := true }).ctl.rxEnabled 3 = true ∧ ((lane3 { inFrame := true }).ctl.lrx 3).inFrame = true ∧ ((lane3 { inFrame := true }).ctl.lrx 3).lof = true ∧ (lane3 { inFrame := true }).ctl.bondOf 3 = 0 := by decide +kernel

/-- What the statement asks for is met. -/
theorem wit_lof_clear_bond :
    (onReg (R.LRX_BOND 3) 5 (lane3 { inFrame := true })).ctl.bondOf 3 = 5 ∧ (onReg (R.LRX_BOND 3) 5 (lane3 { inFrame := true })).ctl.bondRateOk 5 3 = true ∧ tfind (onReg (R.LRX_BOND 3) 5 (lane3 { inFrame := true })).ctl.bonds 5 = none ∧ ((onReg (R.LRX_BOND 3) 5 (lane3 { inFrame := true })).ctl.lrx 3).lof = true := by decide +kernel

/-- What the statement asks for is met. -/
theorem wit_lof_clear_out :
    (onReg (R.LRX_BOND 2) 5 (onReg (R.LRX_BOND 3) 5 (lane3 { inFrame := true, rate := 1 }))).ctl.timed = true ∧ (onReg (R.LRX_BOND 2) 5 (onReg (R.LRX_BOND 3) 5 (lane3 { inFrame := true, rate := 1 }))).ctl.rxEnabled 3 = true ∧ ((onReg (R.LRX_BOND 2) 5 (onReg (R.LRX_BOND 3) 5 (lane3 { inFrame := true, rate := 1 }))).ctl.lrx 3).inFrame = true ∧ ((onReg (R.LRX_BOND 2) 5 (onReg (R.LRX_BOND 3) 5 (lane3 { inFrame := true, rate := 1 }))).ctl.lrx 3).lof = true ∧ (onReg (R.LRX_BOND 2) 5 (onReg (R.LRX_BOND 3) 5 (lane3 { inFrame := true, rate := 1 }))).ctl.bondOf 3 = 5 ∧ (onReg (R.LRX_BOND 2) 5 (onReg (R.LRX_BOND 3) 5 (lane3 { inFrame := true, rate := 1 }))).ctl.bondRateOk 5 3 = false := by decide +kernel

/-- What the statement asks for is met. -/
theorem wit_bond_join :
    ((bond5 { inFrame := true, joining := true }).ctl.lrx 3).joining = true ∧ tfind (bond5 { inFrame := true, joining := true }).ctl.bonds ((bond5 { inFrame := true, joining := true }).ctl.bondOf 3) = some ⟨0, 200000, 3⟩ := by decide +kernel

/-- What the statement asks for is met. -/
theorem wit_bond_reform :
    (bond5 {}).ctl.mfEdge = true ∧ (bond5 {}).ctl.timed = true ∧ ((bond5 {}).ctl.bondMembers 5).any (fun n => (bond5 {}).ctl.on (F.LRX_BOND_REFORM n)) = true ∧ ((bond5 {}).ctl.bondMembers 5).filter (fun n => ((bond5 {}).ctl.lrx n).inFrame) = [] ∧ ((bond5 { inFrame := true }).ctl.bondMembers 5).filter (fun n => ((bond5 { inFrame := true }).ctl.lrx n).inFrame && (bond5 { inFrame := true }).ctl.bondRateOk 5 n) = [3] ∧ tfind (onReg (R.LRX_BOND 3) 5 (bond5 { inFrame := true, lof := true })).ctl.bonds ((bond5 { inFrame := true, lof := true }).ctl.bondOf 3) = some ⟨0, 200000, 3⟩ ∧ (128000 : Int) ≤ 200000 + leadOf 0 (5 % 256000000) ∧ (200000 : Int) + leadOf 0 (200000 % 256000000) < 128000 := by decide +kernel

/-- What the statement asks for is met. -/
theorem wit_lane_configuration :
    (onReg (R.LRX_CTL 3) 0xFFFFFFFF (at31 (lane3 {}))).ctl.timed = true ∧ (onReg (R.LRX_CTL 3) 0xFFFFFFFF (at31 (lane3 {}))).ctl.mfEdge = true ∧ (onReg (R.LRX_CTL 3) 0xFFFFFFFF (at31 (lane3 {}))).ctl.get (F.LRX_CTL_RATE 3) ≠ ((lane3 {}).ctl.lrx 3).rate ∧ (onReg (R.HDR_CTL 0x103) 0 live0).ctl.live = true ∧ (onReg (R.HDR_CTL 0x103) 0 live0).ctl.rxEnabled 3 = false ∧ ((lane3 { top := 9 }).ctl.lrx 3).top = 9 ∧ (lane3 { top := 9 }).ctl.dueBy ((lane3 { top := 9 }).ctl.lrx 3).excEnd = true ∧ (lane3 { top := 9 }).ctl.dueBy ((lane3 { top := 9 }).ctl.lrx 3).degEnd = true ∧ (lane3 { excEnd := 50000 }).ctl.dueBy 50000 = false ∧ ((lane3 {}).ctl.lrx 3).top = 1 := by decide +kernel

/-- What the statement asks for is met. -/
theorem wit_transmit_lanes :
    active0.ctl.timed = true ∧ active0.ctl.sourceWanted 3 ≠ (active0.ctl.ltx 3).source ∧ live0.ctl.sourceWanted 3 = (live0.ctl.ltx 3).source ∧ live0.ctl.on (F.HDR_CTL_ENABLE 0x123) = true ∧ (onReg (R.HDR_CTL 0x123) 0 live0).ctl.on (F.HDR_CTL_ENABLE 0x123) = false ∧ live0.ctl.mode = .boot ∧ wGet 0x00033803 4 0 + wGet 0x00033803 13 8 + wGet 0x00033803 20 16 ≤ 63 ∧ wGet 0x00033803 4 0 + wGet 0x00033803 20 16 + 16 ≤ wGet 0x00033803 13 8 ∧ wGet 0x00000000 13 8 < wGet 0x00000000 4 0 + wGet 0x00000000 20 16 + 16 := by decide +kernel

/-- What the statement asks for is met. -/
theorem wit_pages_canonical :
    State.reset.PagesCanonical := by unfold State.PagesCanonical; decide +kernel

/-! ### The frame and the overhead channels -/

/-- What the statement asks for is met. -/
theorem wit_assembly_ends :
    ({ live0 with ctl := { live0.ctl with assembling := true } } : State).ctl.timed = true ∧ ({ live0 with ctl := { live0.ctl with assembling := true } } : State).ctl.assembling = true ∧ live0.ctl.assembling = false := by decide +kernel

/-- What the statement asks for is met. -/
theorem wit_frames_received :
    (lane3 { inFrame := true, fawErr := 3 }).ctl.timed = true ∧ (lane3 { inFrame := true, fawErr := 3 }).ctl.rxEnabled 3 = true ∧ ((lane3 { inFrame := true, fawErr := 3 }).ctl.lrx 3).inFrame = true ∧ popCount 32 (0x1F4EB2C5 ^^^ 0x1F4EB2C5) ≤ 1 ∧ 2 ≤ popCount 32 (0 ^^^ 0x1F4EB2C5) ∧ ((lane3 { inFrame := true, fawErr := 3 }).ctl.lrx 3).fawErr = 3 ∧ (live0.ctl.lrx 3).inFrame = false := by decide +kernel

/-- What the statement asks for is met. -/
theorem wit_mob_unsealed :
    (oh3 { mobDone := some ([], false, 0, []) }).ctl.timed = true ∧ (oh3 {}).ctl.rxEnabled 3 = true ∧ ((oh3 { mobDone := some ([], false, 0, []) }).ctl.loh 3).mobDone = some ([], false, 0, []) ∧ (oh3 {}).ctl.on (F.LOH_SEAL_RX_EN 3) = false ∧ mobCrcOk [] = true ∧ mobCrcOk [1] = false := by decide +kernel

/-- What the statement asks for is met. -/
theorem wit_mob_sealed :
    (onReg (R.LOH_SEAL 3) 0x40000000 (oh3 { mobDone := some ([], true, 0, []), sLast := some 0 })).ctl.on (F.LOH_SEAL_RX_EN 3) = true ∧ ((oh3 { sLast := some 0 }).ctl.slot 3).prev = none ∧ (beAt [] 240 4 + 2 ^ 32 - 0 % 2 ^ 32) % 2 ^ 32 = 0 := by decide +kernel

/-- What the statement asks for is met. -/
theorem wit_mob_accepted :
    (sealed3.ctl.loh 3).mobDone = some (mob7, true, 0, []) ∧ (sealed3.ctl.slot 3).key = some key16 ∧ SequenceOf (sealed3.ctl.loh 3).sLast (sealed3.ctl.get (F.LOH_SEAL_RXHI_HI 3)) (beAt mob7 240 4) 7 ∧ sealed3.ctl.slrReady ⟨3, 1, 7⟩ = true ∧ sealed3.ctl.slrReady ⟨3, 3, key16.epoch⟩ = true ∧ slice mob7 244 8 = (gmac key16.bytes (ivBytes (0xA0 + b2n (!key16.side)) key16.epoch 7) (mob7.take 244 ++ [].flatten)).take 8 ∧ slice (mob7.take 244) 244 8 ≠ (gmac key16.bytes (ivBytes (0xA0 + b2n (!key16.side)) key16.epoch 7) (mob7.take 244 ++ [].flatten)).take 8 ∧ sealed3.ctl.slrReady ⟨3, 1, 8⟩ = false := by decide +kernel

/-- What the statement asks for is met. -/
theorem wit_mob_ages :
    8 * 204800 ≤ (late1 live0).ctl.mtime - ((late1 live0).ctl.loh 3).conflAt ∧ 64 * 25600 < (late1 (at31 (oh3 { sealedAt := some 0 }))).ctl.mtime + (25600 - (late1 (at31 (oh3 { sealedAt := some 0 }))).ctl.tick) - 0 ∧ (at31 (oh3 { sealedAt := some 0 })).ctl.mfEdge = true := by decide +kernel

/-- What the statement asks for is met. -/
theorem wit_aps_messages :
    ((oh3 { apsIn := [[0, 0, 0, 0, 0, 0, 0, 0], [1]] }).ctl.loh 3).apsIn = [0, 0, 0, 0, 0, 0, 0, 0] :: [[1]] ∧ ([0, 0, 0, 0, 0, 0, 0, 0] : List Byte).all (· == 0) = true ∧ ([1] : List Byte).all (· == 0) = false ∧ apsDecode [1] = none ∧ (oh3 {}).ctl.timed = true ∧ (oh3 {}).ctl.rxEnabled 3 = true := by decide +kernel

/-- What the statement asks for is met. -/
theorem wit_seal_deadline :
    tagged3.ctl.timed = true ∧ tagged3.ctl.fnN % 32 = 30 ∧ (tagged3.ctl.ltx 3).sealed = some (key16, 7) ∧ tagged3.ctl.tagReady 3 = true ∧ (tagged3.ctl.ltx 3).tagged = false ∧ (tagged3.ctl.ltx 4).sealed = some (key16, 7) ∧ tagged3.ctl.tagReady 4 = false := by decide +kernel

/-- What the statement asks for is met. -/
theorem wit_osp_block :
    (osp1 2).ctl.timed = true ∧ (osp1 2).ctl.on (F.OHC_OSP_CTL_EN 2) = true ∧ (osp1 2).ctl.extracted ((osp1 2).ctl.get (F.OHC_OSP_CTL_LANE 2)) = true ∧ 128 ≤ ((osp1 2).ctl.ospPort 2).store.length ∧ (onReg (R.OHC_OSP_CTL 1) 0x80000000 live0).ctl.on (F.OHC_OSP_CTL_EN 1) = true ∧ (onReg (R.OHC_OSP_CTL 1) 0x80000000 live0).ctl.extracted ((onReg (R.OHC_OSP_CTL 1) 0x80000000 live0).ctl.get (F.OHC_OSP_CTL_LANE 1)) = false := by decide +kernel

/-- What the statement asks for is met. -/
theorem wit_rings :
    live0.ctl.live = true ∧ live0.ctl.on (F.LOH_RING_CFG_EN 3 1) = false ∧ (onReg (R.LOH_RING_CFG 3 1) 0x81000000 live0).ctl.on (F.LOH_RING_CFG_EN 3 1) = true ∧ bit (0x81000200 : Word).toNat 31 = true ∧ wGet 0x81000200 27 24 ≤ 8 ∧ wGet 0x81000200 21 0 % (256 * 2 ^ wGet 0x81000200 27 24) = 0 ∧ wGet 0x81000200 21 0 + 256 * 2 ^ wGet 0x81000200 27 24 ≤ 0x400000 ∧ ¬ wGet 0x81000100 21 0 % (256 * 2 ^ wGet 0x81000100 27 24) = 0 ∧ 255 < live0.ctl.dccSize 3 1 ∧ live0.ctl.dccSize 3 1 ≤ 256 := by decide +kernel

/-! ### Pages, swaps and the ledger -/

/-- What the statement asks for is met. -/
theorem wit_page_windows :
    pageLoc 0x30100008 = some (.entry false (2 ^ 18 + 2)) ∧ pageLoc 0x34100008 = some (.entry true (2 ^ 18 + 2)) ∧ pageLoc 0x32000014 = some (.selector false 2 1) ∧ pageLoc 0x32000010 = some (.selector false 2 0) ∧ pageLoc 0x36000014 = some (.selector true 2 1) ∧ pageLoc 0x36000010 = some (.selector true 2 0) ∧ (init0 0).ctl.standbyLocked = false ∧ (init0 3).ctl.standbyLocked = true ∧ pageForm 0x34100008 4 = true ∧ pageForm 0x30100008 8 = true ∧ pageForm 0x30100008 2 = false ∧ (init0 1).ctl.get F.CMP_STAT_STATE = 1 ∧ (init0 2).ctl.get F.CMP_STAT_STATE = 2 := by decide +kernel

/-- What the statement asks for is met. -/
theorem wit_page_masters :
    (init0 0).ctl.MayAct 0 0x30100008 4 true ∧ (init0 0).ctl.MayAct 4 0x30100008 8 true ∧ (init0 0).ctl.MayAct 0 0x30100008 2 true ∧ (init0 0).ctl.MayAct 0 0x30100008 8 true ∧ (init0 0).ctl.MayAct 4 0x36000010 8 false ∧ (init0 0).ctl.MayAct 0 0x36000014 4 false := by decide +kernel

/-- What the statement asks for is met. -/
theorem wit_page_marks :
    tfind ({ badS := [(2, 3)] } : PageSet).badS 2 = some 3 ∧ (3 : Nat) - (3 &&& 2 ^ 1) = 1 ∧ (2 : Nat) - (2 &&& 2 ^ 1) = 0 ∧ ({ init0 0 with xc := { set1 := { badS := [(2, 3)] } } } : State).xc.standby.badS = [(2, 3)] := by decide +kernel

/-- What the statement asks for is met. -/
theorem wit_copies_seals :
    (init0 0).ctl.live = true ∧ (init0 0).ctl.on F.CMP_STAT_INIT_DONE = true ∧ (init0 0).ctl.on F.CMP_STAT_SWAP_PENDING = false ∧ (init0 0).ctl.get F.CMP_STAT_STATE = 0 ∧ live0.ctl.on F.CMP_STAT_INIT_DONE = false ∧ live0.ctl.get F.CMP_STAT_STATE = 0 ∧ (init0 1).ctl.mgn.waiting.any Waiting.isSeal = false ∧ (init0 1).scanFaults [] = init0 1 ∧ (init0 0).ctl.mode ≠ .recovery ∧ (init0 1).ctl.get F.CMP_STAT_STATE = 1 ∧ (init0 3).ctl.get F.CMP_STAT_STATE = 3 ∧ ({ init0 0 with ctl := { (init0 0).ctl with mode := .recovery } } : State).ctl.mode = .recovery := by decide +kernel

/-- What the statement asks for is met. -/
theorem wit_seal_malformed :
    ({ init0 1 with xc := { set1 := { entries := [(5, 0x10000000)] } } } : State).xc.standby.malformed 0 ≠ [] := by decide +kernel

/-- What the statement asks for is met. -/
theorem wit_seal_verdict :
    (init0 1).xc.standby.malformed ((init0 1).ctl.get F.CMP_SEAL_RATES_RATES) = [] ∧ (onReg R.LGR_STAT 0 (init0 1)).ctl.on F.LGR_STAT_WAITING = false ∧ (init0 1).xc.standby.counts ((init0 1).ctl.get F.CMP_SEAL_RATES_RATES) = (4770000, 0, 0, 0, 0) := by decide +kernel

/-- What the statement asks for is met. -/
theorem wit_swap_requests :
    (sealedOk).ctl.mode ≠ .recovery ∧ sealedOk.ctl.on F.CMP_STAT_SWAP_PENDING = false ∧ sealedOk.ctl.get F.CMP_STAT_STATE = 2 ∧ sealedOk.ctl.get F.CMP_STAT_VERDICT = 1 ∧ sealedOk.ctl.ratesOk (sealedOk.ctl.fnNext true) = true ∧ (swap9 true).ctl.timed = true ∧ (swap9 true).ctl.swap = some ⟨9, true, false, false⟩ ∧ (swap9 true).ctl.nearFn (9 + 2 ^ 48 - 8) = true ∧ (swap9 true).ctl.pair.mate = none ∧ (init0 0).ctl.get F.CMP_STAT_STATE = 0 ∧ (init0 1).ctl.get F.CMP_STAT_STATE = 1 := by decide +kernel

/-- What the statement asks for is met. -/
theorem wit_swap_scheduled :
    sdiff 32 ((onReg R.CMP_SWAP_FN 9 sealedOk).ctl.get F.CMP_SWAP_FN_T) ((onReg R.CMP_SWAP_FN 9 sealedOk).ctl.fnNext false % 2 ^ 32) = 8 ∧ (onReg R.CMP_SWAP_FN 9 sealedOk).ctl.ratesOk 9 = true ∧ sdiff 32 (sealedOk.ctl.get F.CMP_SWAP_FN_T) (sealedOk.ctl.fnNext false % 2 ^ 32) = -1 ∧ sealedOk.ctl.ratesOk 32 = true ∧ sealedOk.ctl.get F.CMP_STAT_VERDICT = 1 ∧ (pair0 2).ctl.pairEn = true ∧ (withCtl (swap9 true) fun c => { c with pair := { c.pair with mate := some { mate0 0 with cmp := 0x98, swapT := 9 } } }).ctl.pair.mate = some { mate0 0 with cmp := 0x98, swapT := 9 } ∧ bit 0x98 3 = true ∧ 0x98 / 64 = 2 ∧ bits 0x98 5 4 = 1 ∧ ({ mate0 0 with cmp := 0x98, swapT := 9 } : Pennant).fpStby = ((swap9 true).ctl.reg R.CMP_FP_STBY).toNat ∧ (onReg R.CMP_SEAL_RATES 1 sealedOk).ctl.ratesOk ((onReg R.CMP_SEAL_RATES 1 sealedOk).ctl.fnNext true) = false := by decide +kernel

/-- What the statement asks for is met. -/
theorem wit_swaps_execute :
    (swap1 0).ctl.timed = true ∧ (swap1 0).ctl.swap = some ⟨1, false, false, false⟩ ∧ 1 = ((swap1 0).ctl.fnN + 1) % 2 ^ 48 ∧ (swap1 0).ctl.ratesOk ((swap1 0).ctl.fnN + 1) = true ∧ (swap1 1).ctl.ratesOk ((swap1 1).ctl.fnN + 1) = false ∧ (swap9 true).ctl.swap = some ⟨9, true, false, false⟩ ∧ 9 ≠ ((swap9 true).ctl.fnN + 1) % 2 ^ 48 := by decide +kernel

/-- What the statement asks for is met. -/
theorem wit_ledger :
    live0.ctl.live = true ∧ live0.ctl.claimWaits 1 = false ∧ live0.ctl.acctUsed 1 + 100 % 2 ^ 24 ≤ live0.ctl.acctLimit 1 ∧ live0.ctl.acctLimit 1 < live0.ctl.acctUsed 1 + 11469 % 2 ^ 24 ∧ live0.ctl.on F.LGR_STAT_WAITING = true ∧ (pend .maintenance .active).ctl.mode = .maintenance ∧ live0.ctl.mode ≠ .maintenance := by decide +kernel

/-- What the statement asks for is met. -/
theorem wit_measurements :
    (meas0 none).ctl.timed = true ∧ (meas0 none).ctl.mgn.meas = none ∧ (meas0 (some .scheduled)).ctl.mgn.meas.isSome = true ∧ (meas0 (some .scheduled)).ctl.mgn.measWait.contains .scheduled = false ∧ ((meas0 none).ctl.speedIndices (List.replicate 48 (1000, 1024, 50))).1 = List.replicate 48 (1000, 50, true) ∧ 40 ≤ ((List.replicate 48 ((1000, 50, true) : Ring)).filter (ringOk (median2 (List.replicate 48 (1000, 50, true))))).length ∧ ((meas0 none).ctl.speedIndices []).1 = List.replicate 48 (0, 0, false) ∧ ((List.replicate 48 ((0, 0, false) : Ring)).filter (ringOk (median2 (List.replicate 48 (0, 0, false))))).length < 40 ∧ (List.replicate 48 ((1000, 1024, 50) : Nat × Nat × Int))[47]? = some (1000, 1024, 50) := by refine ⟨?_, ?_, ?_, ?_, ?_, ?_, ?_, ?_, ?_⟩ <;> first | rfl | decide +kernel

/-- What the statement asks for is met. -/
theorem wit_planning :
    live0.ctl.mgn.evalDue = 0 ∧ 0 < ({ live0 with ctl := { live0.ctl with mgn := { live0.ctl.mgn with evalDue := 2 } } } : State).ctl.mgn.evalDue ∧ live0.ctl.on F.LGR_STAT_WAITING = true ∧ (onReg R.LGR_STAT 0 live0).ctl.on F.LGR_STAT_WAITING = false ∧ (kOf (ramp0 0).ctl.vNow).isSome = true := by decide +kernel

/-- What the statement asks for is met. -/
theorem wit_voltage_ramp :
    (ramp0 0).ctl.live = true ∧ (ramp0 0).ctl.on F.MGN_AVS_CFG_EN = true ∧ (ramp0 0).ctl.on F.MGN_AVS_STAT_RAMP = true ∧ 805 ≤ (ramp0 0).ctl.rampStep + 10 ∧ (ramp0 0).ctl.rampStep ≤ 805 + 10 ∧ (ramp0 3).ctl.mgn.fails = 3 ∧ (ramp0 0).ctl.mgn.fails < 3 ∧ live0.ctl.on F.MGN_AVS_STAT_RAMP = false ∧ (ramp0 0).ctl.rampStep + 10 < 900 := by decide +kernel

/-! ### Protection -/

/-- What the statement asks for is met. -/
theorem wit_pg_commands :
    live0.ctl.live = true ∧ (live0.ctl.group (groupKey false 5)).en = false ∧ ((group5 { en := true, cmd := 1 }).ctl.group (groupKey false 5)) = { en := true, cmd := 1 } ∧ (0 = 0 ∧ ({ en := true } : Group).effReq ({ en := true } : Group).req < 7) ∧ ¬ (((2 = 0 ∨ 2 = 3) ∧ ({ en := true } : Group).effReq ({ en := true } : Group).req < 7)) := by decide +kernel

/-- What the statement asks for is met. -/
theorem wit_pg_apply :
    ({ live0 with ctl := { live0.ctl with mode := .recovery } } : State).ctl.mode = .recovery ∧ (slotWords 5 0x80410000 0 (group5 {})).groupWords false 5 = ({ en := true, w := 2, p := 1 }, false) ∧ ({ en := true, w := 2, p := 1 } : Group).Legal false ∧ ({ en := true, w := 2, p := 1 } : Group).en = true ∧ ((group5 {}).ctl.group 5).en = false := by decide +kernel

/-- What the statement asks for is met. -/
theorem wit_pg_apply_may :
    (slotWords 5 0x80410000 0 (group5 {})).ctl.MayReg 0 R.PGS_CMD true ∧ (slotWords 5 0x84410000 0 (group5 {})).groupWords false 5 = ({ en := true, w := 2, p := 1 }, true) := by decide +kernel

/-- What the statement asks for is met. -/
theorem wit_pg_apply_refused :
    ¬ ({ en := true, w := 30 } : Group).Legal false ∧ ({ en := true, w := 2, p := 1 } : Group).Legal true ∧ (withCtl live0 fun c => { c with groups := [(lgBase + 1, { en := true, w := 2, p := 3 })] }).ctl.LaneTaken lgBase { en := true, w := 2, p := 1 } ∧ ((group5 { en := true }).ctl.group 5).en = true ∧ live0.groupWords false 5 = ({}, false) ∧ live0.ctl.mode ≠ .recovery ∧ ((group5 { en := true, sel := true }).ctl.group 5).sel = true ∧ (group5 { en := true, sel := true }).groupWords false 5 = ({}, false) := by decide +kernel

/-- What the statement asks for is met. -/
theorem wit_pg_evaluation :
    (queued5 {}).ctl.timed = true ∧ (queued5 { en := true, bidir := true }).ctl.pgQueue = [(5, 31)] ∧ (queued5 { en := true, bidir := true }).ctl.group 5 = { en := true, bidir := true } ∧ ((queued5 { en := true, feSel := true }).ctl.group 5).feSel ≠ ((queued5 { en := true, feSel := true }).ctl.group 5).sel ∧ (queued5 { en := true }).ctl.sourceFail 31 = false ∧ live0.ctl.pgQueue = [] ∧ lget ((queued5 { en := true, w := 3 }).ctl.rawConditions 5 { en := true, w := 3 }) 0 false = true ∧ ((queued5 { en := true, wtrEnd := some 9 }).ctl.group 5).wtrEnd = some 9 ∧ live0.ctl.dueBy 9 = true ∧ live0.ctl.dueBy 30000 = false ∧ lget ({ hold := [some 9, none, none, none] } : Group).hold 0 none = some 9 ∧ ({ mismAt := some 9 } : Group).mismAt = some 9 := by decide +kernel

/-- What the statement asks for is met. -/
theorem wit_prot_table :
    protForm (0x38000001 - 0x38000000) 4 = false ∧ protForm (0x3800000C - 0x38000000) 4 = true ∧ ((0x3800000C - 0x38000000) / 4 + 4 / 4 - 1) % 4 = 3 ∧ protForm (0x38000008 - 0x38000000) 8 = true ∧ ((0x38000008 - 0x38000000) / 4 + 8 / 4 - 1) % 4 = 3 ∧ 0x38000010 / 4 % 4 ≠ 3 ∧ (live0.ctl.group 1).en = false ∧ live0.ctl.MayAct 0 0x38000010 4 true ∧ live0.ctl.MayAct 4 0x38000000 8 true ∧ live0.ctl.MayAct 0 0x38000012 2 false ∧ live0.ctl.MayAct 4 0x38000008 8 false := by decide +kernel

/-! ### Internal lanes -/

/-- What the statement asks for is met. -/
theorem wit_cfg_tables :
    live0.ctl.cfgOpen 0x38 = true ∧ live0.ctl.cfgOpen 0x3D = true ∧ live0.ctl.cfgData 0x38 = [0, 0, 0] ∧ cfgEnables 0x38 [0, 0, 0] = false ∧ (circuit0 0x80000000 100).ctl.cfgData 0x38 = [0x80000000, 100, 0] ∧ cfgEnables 0x38 [0x80000000, 100, 0] = true ∧ (circuit0 0x80000000 100).ctl.cfgOk 0x38 [0x80000000, 100, 0] = true ∧ (circuit0 0x80000000 100).ctl.cfgOverlap 0x38 0 [0x80000000, 100, 0] = false ∧ (circuit0 0x80000000 0).ctl.cfgOk 0x38 [0x80000000, 0, 0] = false ∧ cfgClaims 0x38 [0x80000000, 100, 0] = (100, 0) ∧ live0.ctl.on F.LGR_STAT_WAITING = true := by decide +kernel

/-- What the statement asks for is met. -/
theorem wit_cfg_tables_enabled :
    cfgEnables 0x38 (entry0.ctl.cfgWords 0x38 (entry0.ctl.cfgIdx 0x38)) = true ∧ entry0.ctl.cfgOverlap 0x38 1 [0xC0000000, 100, 0] = true ∧ (entry0.ctl.hlEntry 0 0).due = true ∧ (entry0.ctl.plEntry 1 0).due = true ∧ (entry0.ctl.rlEntry 1 0).due = true ∧ (live0.ctl.hlEntry 1 3).due = false ∧ (tfind entry0.ctl.cfgWait 0x39).isSome = true ∧ entry0.ctl.claimFits 1 1 = true ∧ entry0.ctl.claimFits 1 2000000 = false := by decide +kernel

/-- What the statement asks for is met. -/
theorem wit_cfg_tables_evaluated :
    (onReg R.LGR_STAT 0 (circuit0 0x80000000 100)).ctl.claimFits 3 100 = false ∧ (cfgClaims 0x38 [0x80000000, 100, 0]).1 ≠ 0 ∧ tfind entry0.ctl.hlLast 0 = none ∧ (entry0.ctl.hlEntry 0 0).eff = [] ∧ (onReg R.MGN_PS 2000 (onReg R.LGR_STAT 0 (circuit0 0x80000000 100))).ctl.claimFits 3 100 = true ∧ (onReg R.LGR_STAT 0 (circuit0 0x80000000 100)).ctl.claimFits 1 0 = true ∧ (onReg R.LGR_STAT 0 (circuit0 0x80000000 100)).ctl.on F.LGR_STAT_WAITING = false := by decide +kernel

/-- What the statement asks for is met. -/
theorem wit_recorders :
    (rec1 0 2).ctl.timed = true ∧ tget (rec1 0 2).ctl.rlTrig 1 0 = 2 ∧ (rec1 0 2).ctl.get (F.RL_STAT_STATE 1) = 0 ∧ (rec1 1 2).ctl.get (F.RL_STAT_STATE 1) = 1 ∧ (rec1 2 0).ctl.get (F.RL_STAT_STATE 1) = 2 ∧ (onReg (R.RL_CTL 1) 1 (rec1 2 0)).ctl.on (F.RL_CTL_ARM 1) = true ∧ (rec1 2 0).ctl.on (F.RL_CTL_ARM 1) = false ∧ (onReg (R.RL_CTL 1) 1 (rec1 2 2)).ctl.on (F.RL_CTL_ARM 1) = true ∧ (onReg (R.RL_CTL 1) 1 (rec1 2 2)).ctl.get (F.RL_STAT_STATE 1) = 2 ∧ tget (rec1 2 0).ctl.rlTrig 1 0 = 0 := by decide +kernel

/-- What the statement asks for is met. -/
theorem wit_recorders_post :
    (onReg (R.RL_POST 1) 5 (rec1 1 0)).ctl.get (F.RL_POST_POST 1) < (onReg (R.RL_POST 1) 5 (rec1 1 0)).ctl.rlSince 1 (((rec1 1 0).ctl.fnN + 1) % 2 ^ 32) ∧ (onReg (R.RL_POST 1) 8 (rec1 1 0)).ctl.rlSince 1 (((rec1 1 0).ctl.fnN + 1) % 2 ^ 32) ≤ (onReg (R.RL_POST 1) 8 (rec1 1 0)).ctl.get (F.RL_POST_POST 1) ∧ (onReg (R.PL_SNAP 1) 1 live0).ctl.on (F.PL_SNAP_GO 1) = true ∧ live0.ctl.on (F.PL_SNAP_GO 1) = false := by decide +kernel

/-! ### Reference timing and the timebase -/

/-- What the statement asks for is met. -/
theorem wit_candidates :
    (cand0 1 9 0 0x81100000).ctl.timed = true ∧ (cand0 1 9 0 0x81100000).ctl.candValues [some (100, 20)] 0 = some (100, 20) ∧ ((cand0 1 9 0 0x81100000).ctl.formValues [some [0, 10]]).1 = some (800000, 0) :: List.replicate 7 none ∧ (cand0 1 9 0 0x81500000).ctl.candKind 0 = 5 ∧ (cand0 1 9 0 0x81100000).ctl.secondMedian [some (100, 20)] = some (2 * 100) ∧ judgeSecond 100 20 200 = .good ∧ judgeSecond 100 2000 200 = .bad ∧ judgeSecond 0 20 100000 = .neutral ∧ (cand0 1 9 0 0x81100000).ctl.candWtr 0 = 0 ∧ (cand0 1 9 0 0x81100005).ctl.candWtr 0 = 5 ∧ ((cand0 2 0 0 0x81100000).ctl.cand 0).state = 2 ∧ ((cand0 2 0 0 0x81100000).ctl.cand 0).left = 0 ∧ ((cand0 3 9 0 0x81100000).ctl.cand 0).count = 9 ∧ (cand0 3 0 0 0x81100000).ctl.candConfigured 0 = true ∧ live0.ctl.candConfigured 0 = false := by decide +kernel

/-- What the statement asks for is met. -/
theorem wit_dpll :
    (dpll0 1 none).ctl.dpll = 1 ∧ (dpll0 1 none).ctl.mayStep = true ∧ active0.ctl.mayStep = false ∧ (dpll0 3 none).ctl.dpll = 3 ∧ (dpll0 3 none).ctl.tmu.step = none ∧ live0.ctl.dpll ≠ 1 ∧ live0.ctl.dpll ≠ 3 ∧ (at31 (dpll0 1 (some .plain))).ctl.mfEdge = true ∧ (at31 (dpll0 1 (some .mate))).ctl.on F.CMP_STAT_SWAP_PENDING = false ∧ (onReg R.CMP_STAT 0xFFFFFFFF (at31 (dpll0 1 (some .mate)))).ctl.on F.CMP_STAT_SWAP_PENDING = true ∧ live0.ctl.mfEdge = false := by decide +kernel

/-- What the statement asks for is met. -/
theorem wit_tbs_steps :
    live0.ctl.live = true ∧ live0.ctl.advTo 0 = live0.ctl ∧ (live0.ctl.tb.dom true).first = true ∧ ((dom0 { first := false }).ctl.tb.dom false).first = false ∧ ((dom0 { first := false }).ctl.tb.dom false).armed = false ∧ (dom0 { first := false }).ctl.advTo 0 = (dom0 { first := false }).ctl ∧ commission0.ctl.mode = .commission ∧ (commission0.ctl.tb.dom true).armed = false ∧ live0.ctl.mode ≠ .commission ∧ live0.ctl.mode ≠ .maintenance := by decide +kernel

/-- What the statement asks for is met. -/
theorem wit_tbs_slews :
    ((dom0 { suspect := true, slew := 4096 }).ctl.tb.dom false).suspect = true ∧ ((dom0 { suspect := true, slew := 4096 }).ctl.tb.dom false).slew.natAbs ≤ (dom0 { suspect := true, slew := 4096 }).ctl.jumpUnits false ∧ (live0.ctl.tb.dom false).suspect = false ∧ live0.ctl.tb.selB = false ∧ live0.ctl.healthy true = false ∧ (dom0 { isSet := true }).ctl.tb.selB ≠ true ∧ (onReg (R.TBS_CTL 1) 0x80000000 (withCtl live0 fun c => { c with tb := { c.tb with b := { isSet := true } } })).ctl.healthy true = true ∧ (withCtl live0 fun c => { c with tb := { c.tb with ofs := 5 } }).ctl.tb.ofs ≠ 0 := by decide +kernel

/-- What the statement asks for is met. -/
theorem wit_stamps :
    live0.ctl.MayReg 0 R.TBS_FRAME_FN false ∧ (txq0 3).ctl.MayReg 4 (R.TBS_TXQ_W0 0) false ∧ live0.ctl.MayReg 0 R.TBS_MFS_SEL true ∧ live0.ctl.captureOf R.TBS_FRAME_FN = some (6, [0, 0, 0]) ∧ live0.ctl.captureOf 0 = none ∧ (live0.ctl.txq 0).items = [] ∧ ((txq0 3).ctl.txq 0).items = ⟨1, false, 2, 3⟩ :: List.replicate 2 ⟨1, false, 2, 3⟩ ∧ (txq0 3).ctl.tb.txPend = [(0, ⟨9, true, 2, 7⟩)] ∧ ((txq0 3).ctl.txq 0).items.length < 16 ∧ 16 ≤ ((txq0 16).ctl.txq 0).items.length ∧ (txq0 3).ctl.dueBy (⟨9, true, 2, 7⟩ : StampWant).tick = true ∧ live0.ctl.tb.txPend = [] := by decide +kernel

/-- What the statement asks for is met. -/
theorem wit_pps :
    (onReg R.TMU_OUT_CTL 0xFFFFFFFF (dom0 { val := 5 * 10 ^ 9 * 2 ^ 32 })).ctl.on F.TMU_OUT_CTL_PPS_EN = true ∧ live0.ctl.ppsOut = false ∧ live0.ctl.tb.squelched = false ∧ live0.ctl.dueBy live0.ctl.tb.ppsEnd = true ∧ (withCtl live0 fun c => { c with tb := { c.tb with ppsHigh := true } }).ctl.tb.ppsHigh = true ∧ (dom0 { val := 5 * 10 ^ 9 * 2 ^ 32 }).ctl.ppsSecond ≠ (dom0 { val := 5 * 10 ^ 9 * 2 ^ 32 }).ctl.tb.ppsLast ∧ live0.ctl.ppsSecond = live0.ctl.tb.ppsLast ∧ (onReg (R.TBS_CMP_CTL 2) 0x80000000 live0).ctl.on (F.TBS_CMP_CTL_EN 2) = true ∧ live0.ctl.compareHolds 2 = true ∧ (onReg (R.TBS_CMP_LO 2) 9 live0).ctl.compareHolds 2 = false ∧ live0.ctl.on (F.TBS_CMP_CTL_EN 2) = false := by decide +kernel

/-! ### The unit pair -/

/-- What the statement asks for is met. -/
theorem wit_pennants :
    (parsePennant (pennant 0x18)).isBye = true ∧ (pair0 2).ctl.pennantOurs (pennant 0x18) (parsePennant (pennant 0x18)) = true ∧ (pair0 2).ctl.countFollows (parsePennant (pennant 0x18)) = true ∧ (pair0 1).ctl.timed = true ∧ (pair0 1).ctl.pairRuns = true ∧ live0.ctl.pairRuns = false ∧ pennantFields [] = false ∧ (pair0 1).ctl.countFollows (parsePennant (pennant 0x10)) = true ∧ (pair0 1).ctl.pennantOurs (pennant 0x10) (parsePennant (pennant 0x10)) = true ∧ (parsePennant (pennant 0x10)).isBye = false ∧ (parsePennant (pennant 0x18)).isBye = true ∧ (pair0 1).ctl.pstate = 1 ∧ (pair0 2).ctl.pstate = 2 ∧ (pair0 1).ctl.pair.good = 3 ∧ sdiff 32 ((pair0 1).ctl.reg R.UPR_COUNT).toNat (parsePennant (pennant 0x10)).ack ≤ 4 ∧ 4 < sdiff 32 ((onReg R.UPR_COUNT 9 (pair0 2)).ctl.reg R.UPR_COUNT).toNat (parsePennant (pennant 0x10)).ack ∧ (pair0 1).ctl.advTo 0 = (pair0 1).ctl := by decide +kernel

/-- What the statement asks for is met. -/
theorem wit_pennant_checks :
    pennantFields (pennant 0x10) = true ∧ pennantFields (pennant 0x18) = true ∧ ((withCtl (pair0 1) fun c => { c with record := none }).ctl.learn (pennant 0x10) (parsePennant (pennant 0x10))).pennantOurs (pennant 0x10) (parsePennant (pennant 0x10)) = false ∧ ((pair0 1).ctl.learn (pennant 0x10) (parsePennant (pennant 0x10))).pennantOurs (pennant 0x10) (parsePennant (pennant 0x10)) = true ∧ (pair0 1).ctl.pair.rx = {} ∧ (pair0 1).ctl.pair.learned = none ∧ (withCtl (pair0 1) fun c => { c with pair := { c.pair with rx := { hunt := true } } }).ctl.pair.rx = { hunt := true } ∧ crcChecks (List.replicate 64 0x9E) = false ∧ 2048 * (10 + 500 * ((late1 (pair0 2)).ctl.pair.missed + 1)) ≤ 10 * ((late1 (pair0 2)).ctl.mtime - 0) ∧ (pair0 2).ctl.lastPennant = some 0 ∧ 10 * ((pair0 2).ctl.mtime - 0) < 2048 * (10 + 500 * ((pair0 2).ctl.pair.missed + 1)) ∧ (late1 (pair0 2)).ctl.advTo 0 = (late1 (pair0 2)).ctl := by decide +kernel

/-- What the statement asks for is met. -/
theorem wit_roles :
    (mate28 .standby 0x00).ctl.mateSvc = 0 ∧ (mate28 .standby 0x00).ctl.mateActive = false ∧ (onReg R.TOP_STRAPS 3 (mate28 .standby 0x00)).ctl.isPrimary = false ∧ (onReg R.TOP_STRAPS 3 (mate28 .standby 0x00)).ctl.eligible = true ∧ (mate28 .standby 0x00).ctl.pair.serviceAt = some 0 ∧ (mate28 .active 0x08).ctl.isPrimary = true ∧ (mate28 .active 0x08).ctl.timed = true ∧ (mate28 .active 0x08).ctl.pairRuns = true ∧ (mate28 .active 0x08).ctl.pstate = 2 ∧ (mate28 .active 0x08).ctl.fnN % 32 = 28 ∧ (mate28 .active 0x08).ctl.svc = .active ∧ (mate28 .active 0x08).ctl.mateActive = true ∧ (onReg R.TOP_STRAPS 3 (mate28 .active 0x08)).ctl.isPrimary = false ∧ (mate28 .standby 0x20).ctl.isPrimary = true ∧ (mate28 .standby 0x20).ctl.mateActive = false ∧ 2 ≤ (mate28 .standby 0x20).ctl.mateSvc ∧ (mate28 .standby 0x20).ctl.eligible = true ∧ 32 * 25600 ≤ (late1 (mate28 .standby 0x20)).ctl.mtime - 0 ∧ live0.ctl.pstate ≠ 2 := by decide +kernel

/-- What the statement asks for is met. -/
theorem wit_role_actions :
    (withCtl (suspect32 [⟨3, 5, 1⟩]) fun c => { c with svc := .standby, pair := { c.pair with mate := some (mate0 0) } }).ctl.isPrimary = true ∧ bit (mate0 0).roles 3 = false ∧ (act32 .take).ctl.mfEdge = true ∧ (act32 .take).ctl.nextFn 32 = true ∧ (act32 .take).ctl.eligible = true ∧ (act32 .take).ctl.svc ≠ .active ∧ (withCtl (act32 .release) fun c => { c with svc := .active }).ctl.svc = .active ∧ (suspect32 []).ctl.pstate = 3 ∧ ((suspect32 []).ctl.fnN + 1) % 2 ^ 48 = 32 ∧ (suspect32 []).ctl.evidence 0 = (0, 0) ∧ (suspect32 [⟨3, 5, 2⟩]).ctl.evidence 0 = (0, 8) ∧ (suspect32 [⟨3, 5, 1⟩]).ctl.evidence 0 = (8, 0) ∧ (onReg R.TOP_STRAPS 3 (suspect32 [])).ctl.isPrimary = false ∧ (withCtl (suspect32 []) fun c => { c with svc := .standby }).ctl.svc ≠ .none ∧ (suspect32 []).ctl.eligible = true ∧ (suspect32 []).ctl.svc ≠ .active ∧ live0.ctl.pair.act = none ∧ live0.ctl.pair.decAt = none := by decide +kernel

/-- What the statement asks for is met. -/
theorem wit_parted :
    (at31 (late1 (pair0 4))).ctl.mfEdge = true ∧ (at31 (late1 (pair0 4))).ctl.pstate ≠ 2 ∧ (at31 (late1 (pair0 4))).ctl.pstate ≠ 3 ∧ (withCtl (at31 (late1 (pair0 4))) fun c => { c with pair := { c.pair with judged := true } }).ctl.pair.judged = true ∧ (at31 (late1 (pair0 4))).ctl.pair.decAt = none ∧ (at31 (late1 (pair0 4))).ctl.evidence ((at31 (late1 (pair0 4))).ctl.boundaryAt - 20 * 204800) = (0, 0) ∧ 0 ≤ sdiff 32 (((at31 (late1 (pair0 4))).ctl.fn32 + 1) % 2 ^ 32) 32 ∧ 20480 ≤ (at31 (late1 (pair0 4))).ctl.boundaryAt - 0 ∧ 32 * 204800 ≤ (late1 (oh3 { echoLast := some 5 })).ctl.mtime - ((late1 (oh3 { echoLast := some 5 })).ctl.loh 3).echoAt ∧ ((late1 (oh3 { echoLast := some 5 })).ctl.loh 3).echoLast.isSome = true ∧ (late1 (oh3 { echoLast := some 5 })).ctl.advTo 0 = (late1 (oh3 { echoLast := some 5 })).ctl := by decide +kernel

/-- What the statement asks for is met. -/
theorem wit_handover :
    revert0.ctl.timed = true ∧ revert0.ctl.revertOk = true ∧ revert0.ctl.pair.wtrEnd = some 5 ∧ (late1 revert0).ctl.revertOk = true ∧ 5 ≤ (late1 revert0).ctl.mtime ∧ revert0.ctl.mtime < 5 ∧ revert0.ctl.advTo 0 = revert0.ctl ∧ live0.ctl.revertOk = false ∧ (late1 revert0).ctl.advTo 0 = (late1 revert0).ctl := by decide +kernel

/-- What the statement asks for is met. -/
theorem wit_handover_steps :
    (ho64 .acked 55).ctl.timed = true ∧ (ho64 .acked 55).ctl.nearFn (64 + 2 ^ 32 - 8) = true ∧ (ho64 .acked 55).ctl.pair.hoMissed = false ∧ (ho64 .committed 63).ctl.nextFn 64 = true ∧ (ho64 .proposed 95).ctl.nextFn (64 + 32) = true ∧ (ho64 .proposed 95).ctl.pair.hoSeen = true ∧ (ho64 .proposed 95).ctl.eligible = true ∧ (withCtl (ho64 .proposed 95) fun c => { c with svc := .standby }).ctl.svc ≠ .active ∧ (ho64 .committed 63).ctl.svc = .active ∧ (∃ p, (ho64 .acked 55).ctl.pair.mate = some p ∧ bit p.kind 2 = true ∧ p.h = 64) ∧ live0.ctl.pair.ho ≠ .acked := by
  refine ⟨?_, ?_, ?_, ?_, ?_, ?_, ?_, ?_, ?_, ⟨{ mate0 0 with kind := 4, h := 64 }, ?_⟩, ?_⟩ <;> decide +kernel

/-! ### The cipher engine -/

/-- What the statement asks for is met. -/
theorem wit_latch :
    live0.ctl.latch.holder = none ∧ live0.ctl.MayReg 0 R.CIP_LATCH false ∧ (held0 2 false none).ctl.MayReg 2 R.CIP_LATCH true ∧ live0.ctl.advTo 0 = live0.ctl ∧ (held0 2 false none).ctl.latch.holder = some 2 ∧ (held0 2 true none).ctl.latch.slrWaiting = true ∧ (held0 2 false (some seg0)).ctl.cip.seg.isSome = true ∧ ((held0 2 false none).ctl.mtime - (held0 2 false none).ctl.latch.since) * 10 / 2048 < (held0 2 false none).ctl.leaseUs ∧ (late1 (held0 2 false none)).ctl.leaseUs ≤ ((late1 (held0 2 false none)).ctl.mtime - (late1 (held0 2 false none)).ctl.latch.since) * 10 / 2048 ∧ (held0 10 false none).ctl.engineOff = false ∧ (onReg R.CIP_STAT 0x80000000 (held0 10 false none)).ctl.engineOff = true ∧ (held0 10 false none).ctl.advTo 0 = (held0 10 false none).ctl ∧ (late1 (held0 2 false none)).ctl.advTo 0 = (late1 (held0 2 false none)).ctl ∧ (held0 2 false none).ctl.cip.pend = [] := by decide +kernel

/-- What the statement asks for is met. -/
theorem wit_jobs :
    (job0 0xC8000018).ctl.latch.holder = some 2 ∧ (job0 0xC8000018).ctl.cip.seg = none ∧ (job0 0xC8000018).ctl.engineOff = false ∧ (job0 0xC8000018).ctl.MayReg 2 R.CIP_JOB_GO true ∧ (job0 0xC8000018).ctl.on F.CIP_JOB_CTL_FIRST = true ∧ (job0 0xC8000018).ctl.get F.CIP_JOB_CTL_OP = 4 := by decide +kernel

/-- What the statement asks for is met. -/
theorem wit_job_args :
    ¬ (job0 0xC8000018).ctl.BadArguments 4 ∧ (job0 0xC8000018).ctl.SlotFor 2 ∧ (job0 0xC8000018).ctl.jobKey = some key16 ∧ (job0 0xC6000018).ctl.get F.CIP_JOB_CTL_OP = 3 ∧ ((job0 0xC6000018).ctl.slot 24).exhausted = false ∧ ¬ (job0 0xC6000018).ctl.BadArguments 3 ∧ ¬ (job0 0xC6000019).ctl.SlotFor 2 ∧ (onReg R.CIP_JOB_LEN 8 (job0 0x86000018)).ctl.BadArguments 3 := by (repeat' apply And.intro) <;> decide +kernel

/-- What the statement asks for is met. -/
theorem wit_job_later :
    ((withCtl (job0 0xC6000018) (Ctl.setSlot 24 {})).ctl.slot 24).key = none ∧ (job0 0xCE000018).ctl.get F.CIP_JOB_CTL_OP = 7 ∧ (onReg R.CIP_STAT 0x80000000 (job0 0xC6000018)).ctl.engineOff = true ∧ (job0 0x46000018).ctl.on F.CIP_JOB_CTL_FIRST = false ∧ tfind (job0 0x46000018).ctl.cip.susp 2 = none ∧ tfind (job0 0x46000018).ctl.cip.wiped 2 = none ∧ tfind (withCtl (job0 0x46000018) fun c => { c with cip := { c.cip with wiped := [(2, seg0.ctx)] } }).ctl.cip.wiped 2 = some seg0.ctx ∧ (later0).ctl.jobOp 2 = 4 ∧ tfind later0.ctl.cip.susp 2 = some seg0.ctx ∧ later0.ctl.laterRefusal seg0.ctx = 0 ∧ (held0 2 false (some seg0)).ctl.cip.seg.isSome = true ∧ live0.ctl.latch.holder ≠ some 0 ∧ live0.ctl.MayReg 0 R.CIP_JOB_GO true ∧ (held0 2 false (some seg0)).ctl.MayReg 2 R.CIP_JOB_GO true := by decide +kernel

/-- What the statement asks for is met. -/
theorem wit_job_data :
    (engReadBytes false 2 [] 16 0x02000000 16 (held0 2 false (some segEnc))).1 = some (List.replicate 16 0) ∧ segEnc.len = 16 ∧ segEnc.last = true ∧ segEnc.ctx.op = 1 ∧ (engWriteBytes 2 [] 16 0x02000100 (segEnc.blockOut (List.replicate 16 0)) (held0 2 false (some segEnc))).1 = (16, true) ∧ (engReadBytes false 2 [.sram 0 true] 16 0x02000000 16 (held0 2 false (some segEnc))).1 = none := by decide +kernel

/-- What the statement asks for is met. -/
theorem wit_job_ends :
    (held0 2 false (some seg0)).ctl.cip.seg = some seg0 ∧ seg0.last = true ∧ seg0.len = 0 ∧ engReadBytes false seg0.master [] seg0.aadLen seg0.aad seg0.aadLen (held0 2 false (some seg0)) = (some [], held0 2 false (some seg0)) ∧ seg0.ctx.op = 4 ∧ engReadBytes false seg0.master [] 0 0 0 (held0 2 false (some { seg0 with last := false })) = (some [], held0 2 false (some { seg0 with last := false })) ∧ live0.ctl.cip.seg = none ∧ ({ seg0 with ctx := { seg0.ctx with op := 3 } } : Segment).ctx.op = 3 := by decide +kernel

/-- What the statement asks for is met. -/
theorem wit_keys :
    (key0 24 0x401F0000).ctl.get F.CIP_KEY_SEL_SLOT = 24 ∧ (key0 24 0x401F0000).ctl.loadMode 24 = true ∧ (key0 24 0x401F0000).ctl.onBit (F.CIP_SLOT_POL_LOAD 24) 2 = true ∧ ((key0 24 0x401F0000).ctl.slot 24).epoch < 0xFFFFFF ∧ (key0 3 0x401F0000).ctl.loadMode 3 = true ∧ (key0 3 0).ctl.loadMode 3 = false ∧ wGet (0 : Word) 23 0 ≤ ((key0 3 0x401F0000).ctl.slot 3).epoch ∧ ((key0 3 0x401F0000).ctl.slot 3).epoch < wGet (5 : Word) 23 0 ∧ (key0 47 0).ctl.get F.CIP_KEY_SEL_SLOT = 47 ∧ ((withCtl (key0 24 0x401F0000) (Ctl.setSlot 24 { epoch := 0xFFFFFF })).ctl.slot 24).epoch = 0xFFFFFF ∧ (key0 24 0x401F0000).ctl.cip.seg = none ∧ (key0 24 0x401F0000).ctl.MayReg 2 R.CIP_KEY_CTL true ∧ (key0 24 0x401F0000).mem.mramWorn = [] := by decide +kernel

/-- What the statement asks for is met. -/
theorem wit_keys_steps :
    commission0.ctl.mode = .commission ∧ live0.ctl.mode ≠ .commission ∧ ((at31 (withCtl live0 (Ctl.setSlot 3 { staged := some key16 }))).ctl.slot 3).staged = some key16 ∧ (at31 (withCtl live0 (Ctl.setSlot 3 { staged := some key16 }))).ctl.mfEdge = true ∧ (live0.ctl.slot 3).staged = none ∧ wGet (0xC1F00001 : Word) 31 16 = 0xC1F0 ∧ bit (0xC1F00001 : Word).toNat 0 = true ∧ live0.ctl.latch.slrWaiting = false ∧ (onReg R.CIP_STAT 0x40000000 live0).ctl.on F.CIP_STAT_KAT_BUSY = true ∧ live0.ctl.on F.CIP_STAT_KAT_BUSY = false ∧ live0.ctl.MayReg 0 R.CIP_RESET true := by decide +kernel

/-! ### Memories, matrix and mailboxes -/

/-- What the statement asks for is met. -/
theorem wit_matrix_dma :
    live0.ctl.live = true ∧ live0.ctl.MayReg 4 (R.DMA_CTL 1) true ∧ live0.ctl.issues 1 = false ∧ accessOf (.dmaGo 1 0) = some (1, 0x2004B08C, 4, true) ∧ live0.ctl.timed = true ∧ live0.ctl.issues 0 = true ∧ bit live0.ctl.coreWfi 0 = false ∧ (0x38000002 : Nat) % max 1 4 ≠ 0 ∧ (dma0 1 0x10000000 0x10000100 16).ctl.on (F.DMA_STAT_BUSY 0) = true ∧ (dma0 0 0 4 16).ctl.on (F.DMA_STAT_BUSY 0) = false ∧ (dma0 0 0 4 16).ctl.get (F.DMA_LEN_VALUE 0) = 16 ∧ ((0 : Nat) < 4 + 16 ∧ (4 : Nat) < 0 + 16) ∧ (dma0 1 0x10000000 0x10000100 16).ctl.get (F.DMA_SRC_VALUE 0) = 0x10000000 + 0 ∧ (dma0 1 0x10000000 0x10000100 16).ctl.get (F.DMA_DST_VALUE 0) = 0x10000000 + 0x100 ∧ Memory.wf (dma0 1 0x10000000 0x10000100 16).mem = true ∧ live0.ctl.on (F.DMA_STAT_BUSY 0) = false := by decide +kernel

/-- What the statement asks for is met. -/
theorem wit_matrix_devices :
    live0.ctl.on (F.SPM_CASE_CFG_EN 3) = false ∧ (onReg (R.SPM_CASE_CFG 3) 0x80010000 live0).ctl.on (F.SPM_CASE_CFG_EN 3) = true ∧ live0.ctl.advTo 0 = live0.ctl ∧ max 1 (live0.ctl.get F.SPM_STARVE_CFG_LIMIT) < 300 ∧ (late1 (withCtl live0 fun c => { c with starvedAt := some 5 })).ctl.starvedAt = some 5 ∧ 204800000 ≤ (late1 live0).ctl.mtime - 5 ∧ live0.ctl.mtime - 5 < 204800000 ∧ (late1 live0).ctl.timed = true ∧ (late1 live0).ctl.advTo 0 = (late1 live0).ctl ∧ sdiff 64 live0.ctl.mtime (live0.ctl.mtimecmp 1) < 0 ∧ 0 ≤ sdiff 64 (onReg (R.CPX_MTIMECMP_HI 1) 0 (onReg (R.CPX_MTIMECMP_LO 1) 0 live0)).ctl.mtime ((onReg (R.CPX_MTIMECMP_HI 1) 0 (onReg (R.CPX_MTIMECMP_LO 1) 0 live0)).ctl.mtimecmp 1) ∧ live0.ctl.on F.MEM_STAT_READY = false ∧ live0.ctl.on F.MEM_STAT_CAP_BAD = false ∧ (live0.ctl.hart 1).mieReg = 0 ∧ (onReg R.TOP_CORE_RUN 2 live0).ctl.coreRuns 1 = true ∧ bit 0x880 11 = true ∧ bit 0x880 7 = true ∧ (onReg R.MEM_STAT 0x80000000 live0).ctl.on F.MEM_STAT_READY = true := by decide +kernel

/-- What the statement asks for is met. -/
theorem wit_mailboxes :
    ¬ live0.ctl.Bound 3 ∧ (mbx3 {}).ctl.live = true ∧ (mbx3 {}).ctl.Bound 3 ∧ (mbx3 {}).ctl.EndpointOf 1 3 ∧ (mbx3 {}).ctl.EndpointOf 2 3 ∧ ¬ (mbx3 {}).ctl.EndpointOf 0 3 ∧ (mbx3 {}).ctl.MayReg 1 (R.MBX_CH 3) true ∧ (mbx3 {}).ctl.MayReg 2 (R.MBX_DATA 3 5) true ∧ (mbx3 {}).ctl.MayReg 0 (R.MBX_CH 40) true ∧ decide (1 = (mbx3 {}).ctl.get (F.MBX_BIND_A 3)) = true ∧ decide (2 = (mbx3 {}).ctl.get (F.MBX_BIND_A 3)) = false ∧ ((mbx3 { full0 := true }).ctl.mbxCh 3).full0 = true ∧ ((mbx3 { full1 := true }).ctl.mbxCh 3).full1 = true ∧ twf ((mbx3 {}).ctl.mbxCh 3).words 0 = true := by decide +kernel

/-! ### Performance data -/

/-- What the statement asks for is met. -/
theorem wit_pm_seconds :
    live0.ctl.timed = true ∧ live0.ctl.pmWholeSec = live0.ctl.pm.sec ∧ (dom0 { val := 901 * 10 ^ 9 * 2 ^ 32 }).ctl.pmWholeSec ≠ (dom0 { val := 901 * 10 ^ 9 * 2 ^ 32 }).ctl.pm.sec ∧ nsOf (dom0 { val := 901 * 10 ^ 9 * 2 ^ 32 }).ctl.tb.sel / 900000000000 ≠ ((dom0 { val := 901 * 10 ^ 9 * 2 ^ 32 }).ctl.pm.cur false).start / 900000000000 ∧ live0.ctl.advTo 0 = live0.ctl ∧ (pm0 9).ctl.pm.pend = ⟨0, 0, 10000, [(3, { ne := 5 })]⟩ :: List.replicate 9 ⟨0, 0, 10000, []⟩ ∧ (pm0 2).ctl.pm.pend = ⟨0, 0, 10000, [(3, { ne := 5 })]⟩ :: List.replicate 2 ⟨0, 0, 10000, []⟩ ∧ twfFrom none ([(3, { ne := 5 })] : Tbl PmAcc) = true ∧ tfind ([(3, { ne := 5 })] : Tbl PmAcc) 3 = some { ne := 5 } ∧ tfind ([(3, { ne := 5 })] : Tbl PmAcc) 4 = none := by decide +kernel

/-- What the statement asks for is met. -/
theorem wit_pm_counters :
    live0.ctl.swbDue = [] ∧ (swb0 0).ctl.swbDue = [⟨2, 0, 0, true, false⟩] ∧ (swb0 1).ctl.swbLate = [] ∧ (swb0 0).ctl.on F.EVT_SWB_CFG_EN = false ∧ (swb0 1).ctl.on F.EVT_SWB_CFG_EN = true ∧ Memory.wf (swb0 1).mem = true ∧ (swb0 1).ctl.on F.MEM_STAT_READY = false ∧ (onReg R.MEM_STAT 0x90000000 (swb0 1)).ctl.on F.MEM_STAT_READY = true ∧ 0x42000 + 131200 ≤ (onReg R.MEM_STAT 0x90000000 (swb0 1)).ctl.ddrTop ∧ (swb0 1).ctl.get F.EVT_SWB_CFG_BASE / 64 * 64 + 131136 ≤ 0x400000 ∧ 0x400000 < (onReg R.EVT_SWB_CFG 0x803FFFC0 (swb0 1)).ctl.get F.EVT_SWB_CFG_BASE / 64 * 64 + 131136 ∧ live0.ctl.pmcOf 3 = {} ∧ (onReg R.PMC_GCTL 1 live0).ctl.on F.PMC_GCTL_FREEZE = true ∧ 2 ^ 48 ≤ ((withCtl live0 fun c => { c with pmc := [(3, { val := 2 ^ 48 })] }).ctl.pmcOf 3).val ∧ ((withCtl live0 fun c => { c with pmc := [(3, { val := 2 ^ 48, ovf := true })] }).ctl.pmcOf 3).ovf = true := by decide +kernel

/-! ### Events -/

/-- What the statement asks for is met. -/
theorem wit_event_bits :
    (live0.ctl.louvre 0 1).supp = 0 ∧ (pageBlock 0x050).isSome = true ∧ pageBlock 0x002 = none ∧ 0 < pageEvents 0x050 ∧ bit (1 : Word).toNat 0 = true ∧ eventClass 0x000 2 = 3 ∧ eventClass 0x000 1 ≠ 3 ∧ (live0.ctl.louvreCfg 0).2 = 100 ∧ bit (live0.ctl.reg (R.HDR_EVT_EN 0)).toNat 1 = false ∧ live0.ctl.claimFits 4 100 = true ∧ (onReg (R.LGR_ACCT_USED 3) 1500000 live0).ctl.claimFits 4 100 = false ∧ bit ((onReg (R.HDR_EVT_EN 0) 2 live0).ctl.reg (R.HDR_EVT_EN 0)).toNat 1 = true ∧ live0.ctl.get F.EVT_ALM_IDX_PAGE = 0 ∧ min 10000 (max 1 (wGet (200 : Word) 13 0)) = 200 ∧ min 10000 (max 1 (wGet (50 : Word) 13 0)) = 50 := by decide +kernel

/-- What the statement asks for is met. -/
theorem wit_event_records :
    (late1 (louvre1 0)).ctl.louvre 0 1 = ⟨0, 0, 5, 6, 0, 0⟩ ∧ (late1 (louvre1 0)).ctl.dueBy ((late1 (louvre1 0)).ctl.louvreDue 0 1) = true ∧ (louvre1 0).ctl.dueBy ((louvre1 0).ctl.louvreDue 0 1) = false ∧ ((louvre1 4).ctl.louvre 0 1).supp ≠ 0 ∧ (louvre1 4).ctl.dueBy 0 = true ∧ (louvre1 4).ctl.dueBy 30000 = false ∧ (louvre1 4).ctl.on F.EVT_RING_CFG_EN = true ∧ (louvre1 4).ctl.ev.waiting.length < 64 ∧ tfind (louvre1 4).ctl.ev.windows 3 = some ⟨7, 4, 1, 2, 0⟩ ∧ tfind live0.ctl.ev.windows 3 = none ∧ (louvre1 4).ctl.nextSwitch = some 5 ∧ tget (louvre1 4).ctl.ev.swPend 5 (0, 0, 0, 31) = (2, 1, 1, 3) ∧ live0.ctl.ev.swPend = [] := by decide +kernel

/-- What the statement asks for is met. -/
theorem wit_event_rings :
    live0.ctl.ev.waiting = [] ∧ (ring0 [] 0).ctl.ev.waiting = [rec3] ∧ (onReg R.EVT_RING_CFG 0 (ring0 [] 0)).ctl.ev.waiting = [rec3] ∧ (onReg R.EVT_RING_CFG 0 (ring0 [] 0)).ctl.on F.EVT_RING_CFG_EN = false ∧ (ring0 [] 127).ctl.on F.EVT_RING_CFG_EN = true ∧ (ring0 [] 0).ctl.ringPlace rec3 = some (0, false) ∧ (ring0 [] 0).ctl.get F.EVT_RING_CFG_BASE + 64 * 0 + 64 ≤ 0x400000 ∧ (onReg R.EVT_RING_CFG 0x803FFFF0 (ring0 [] 0)).ctl.ringPlace rec3 = some (0, false) ∧ 0x400000 < (onReg R.EVT_RING_CFG 0x803FFFF0 (ring0 [] 0)).ctl.get F.EVT_RING_CFG_BASE + 64 * 0 + 64 ∧ (onReg R.TOP_CORE_RUN 2 live0).ctl.coreRuns 1 = true ∧ bit 0x20000 17 = true ∧ tfind (ring0 [] 0).ctl.ev.held 0 = none ∧ (ring0 [(0, rec3)] 0).ctl.logged rec3 = true ∧ (onReg R.EVT_LOG_CFG 0x80000000 (withCtl (ring0 [(0, rec3)] 0) fun c => { c with ev := { c.ev with unlogged := [rec3] } })).ctl.logged rec3 = false ∧ (ring0 [] 127).ctl.ringPlace rec3 = none ∧ (ring0 [(2, { rec3 with cls := 0 })] 127).ctl.ringPlace rec3 = some (2, true) ∧ 5 < live0.ctl.ringSize ∧ live0.ctl.ringSize ≤ 128 ∧ live0.ctl.on F.EVT_RING_CFG_EN = false ∧ (ring0 [] 0).ctl.on F.EVT_RING_CFG_EN = true ∧ 64 * 2 ^ (wGet (0x80002000 : Word) 26 24 + 7) = 8192 ∧ wGet (0x80002000 : Word) 21 0 = 8192 ∧ bit (0x80002000 : Word).toNat 31 = true := by decide +kernel

/-- What the statement asks for is met. -/
theorem wit_log_and_messages :
    live0.ctl.nextLog = none ∧ (withCtl live0 fun c => { c with ev := { c.ev with unlogged := [rec3] } }).ctl.nextLog = some rec3 ∧ (onReg R.EVT_LOG_CFG 0x80000000 live0).ctl.on F.EVT_LOG_CFG_EN = true ∧ live0.ctl.on F.EVT_LOG_CFG_EN = false ∧ (onReg R.HST_MSIX_PBA_LO 8 (onReg R.HST_STAT 0x80006000 (onReg (R.HST_MSIX_CTL 3) 0 live0))).ctl.pba 3 = true ∧ (onReg R.HST_MSIX_PBA_LO 8 (onReg R.HST_STAT 0x80006000 (onReg (R.HST_MSIX_CTL 3) 0 live0))).ctl.msixOpen 3 = true ∧ (onReg R.HST_STAT 0x80006000 live0).ctl.on F.HST_STAT_MSIX_EN = true ∧ (onReg R.HST_STAT 0x80006000 live0).ctl.on F.HST_STAT_FN_MASK = false ∧ (onReg R.HST_STAT 0x80006000 live0).ctl.on F.HST_STAT_BME = true ∧ live0.ctl.xoLost = false ∧ live0.ctl.pba 3 = false := by decide +kernel

/-! ### The life record and the host link -/

/-- What the statement asks for is met. -/
theorem wit_life :
    Memory.wf live0.mem = true ∧ live0.ctl.live = true ∧ 4 * live0.ctl.get F.LIF_ADDR_ADDR = 0 ∧ 4 * (onReg R.LIF_ADDR 0x80000 live0).ctl.get F.LIF_ADDR_ADDR = 0x80000 ∧ live0.ctl.life.hist.length ≤ 1024 ∧ live0.ctl.dueBy live0.ctl.life.hourEnd = false ∧ (late1 (withCtl live0 fun c => { c with life := { c.life with hourEnd := 9 } })).ctl.dueBy 9 = true ∧ live0.ctl.on F.LIF_STAT_BUSY = false ∧ (onReg R.LIF_STAT 0x40000000 live0).ctl.on F.LIF_STAT_BUSY = true ∧ live0.ctl.life.fault = none ∧ (withCtl live0 fun c => { c with life := { c.life with fault := some [7] } }).ctl.life.fault = some [7] ∧ live0.mem.faultSeq + 1 = 1 ∧ live0.ctl.MayReg 0 R.LIF_DATA true ∧ live0.ctl.MayReg 4 R.LIF_DATA false ∧ live0.ctl.MayReg 0 R.LIF_FAULT_GO true ∧ live0.mem.mramWorn = [] ∧ ({ live0 with mem := { live0.mem with mramWorn := [0x80000] } } : State).mem.mramWorn.contains 0x80000 = true := by decide +kernel

/-- What the statement asks for is met. -/
theorem wit_link :
    live0.ctl.on F.HST_STAT_LINK_UP = false ∧ (onReg R.HST_CTL 1 live0).ctl.on F.HST_CTL_LINK_EN = true ∧ live0.ctl.on F.HST_CTL_LINK_EN = false ∧ live0.ctl.perstLow = false ∧ linked.ctl.timed = true ∧ linked.ctl.on F.HST_CTL_LINK_EN = true ∧ linked.ctl.on F.HST_STAT_LINK_UP = true ∧ linked.ctl.get F.HST_STAT_DSTATE = 0 ∧ linked.ctl.on F.HST_STAT_MSE = true ∧ linked.ctl.advTo 0 = linked.ctl ∧ linked.ctl.hostSplit 1 0 [true] false = none ∧ (0x022 : Nat) ∈ allPages := by decide +kernel

/-- What the statement asks for is met. -/
theorem wit_accesses :
    live0.ctl.regCause 1 R.TBL_SEC_LO 4 true = none ∧ R.TBL_SEC_LO / 0x1000 = 0x012 ∧ R.TBL_SEC_LO ≠ R.TBL_CTL ∧ live0.ctl.regCause 7 0x22024 4 true = some 3 ∧ live0.ctl.regCause 1 0x2003C 4 true = none ∧ live0.ctl.regCause 1 0x7000 4 true = some 0 ∧ regExists (0x7000 / 4 * 4 / 0x1000) (0x7000 / 4 * 4 % 0x1000) = false ∧ regExists (0x22024 / 0x1000) (0x22024 % 0x1000) = true ∧ live0.ctl.busTarget 1 0x70000000 4 true = .bad 0 ∧ live0.ctl.busTarget 1 0x10000040 4 false = .spad 0x40 ∧ live0.ctl.busTarget 4 0x02000008 8 true = .sram 8 ∧ live0.ctl.busTarget 2 0x0F000008 4 true = .lmem 2 8 ∧ (onReg R.MEM_STAT 0x90000000 live0).ctl.busTarget 2 0x80000008 4 false = .ddr 8 ∧ (onReg R.MEM_STAT 0x90000000 live0).mem.poisoned 8 4 = false ∧ live0.ctl.advTo 0 = live0.ctl ∧ live0.ctl.MayReg 0 0x22024 true ∧ live0.ctl.MayReg 0 (R.HDR_SCRATCH 0x022) true ∧ (onReg R.MEM_STAT 0x90000000 live0).ctl.busTarget 4 0x80000008 4 true = .ddr 8 ∧ Ctl.Accesses 4 0x80000008 4 0 true ⟨[], false, 0, none⟩ (onReg R.MEM_STAT 0x90000000 live0).ctl (onReg R.MEM_STAT 0x90000000 live0).ctl ∧ Ctl.Accesses 0 0x10000040 4 0 false ⟨[], false, 0, none⟩ live0.ctl live0.ctl ∧ ({ live0 with mem := { live0.mem with poison := [0] } } : State).mem.poison.contains (8 / 64) = true := by (repeat' apply And.intro) <;> decide +kernel

/-! ### Peripherals -/

/-- What the statement asks for is met. -/
theorem wit_uarts :
    (onReg (R.PER_UART_CTL 1) 0x80000000 live0).ctl.on (F.PER_UART_CTL_EN 1) = true ∧ live0.ctl.on (F.PER_UART_CTL_EN 1) = false ∧ (live0.ctl.uartOf 1).sending = none ∧ (live0.ctl.uartOf 1).rx = [] ∧ ((uart1 64).ctl.uartOf 1).sending.isSome = true ∧ ((uart1 2).ctl.uartOf 1).tx.length < 64 ∧ 64 ≤ ((uart1 64).ctl.uartOf 1).tx.length ∧ 64 ≤ ((uart1 64).ctl.uartOf 1).rx.length ∧ ((uart1 1).ctl.uartOf 1).rx = [7] ∧ (uart1 64).ctl.on (F.PER_UART_CTL_EN 1) = true ∧ (onReg (R.PER_UART_CTL 1) 0x80040000 live0).ctl.get (F.PER_UART_CTL_PARITY 1) = 1 ∧ live0.ctl.get (F.PER_UART_CTL_PARITY 1) ≠ 1 := by decide +kernel

/-- What the statement asks for is met. -/
theorem wit_serial :
    live0.ctl.on (F.PER_I2C_STAT_BUSY 2) = false ∧ live0.ctl.on (F.PER_I2C_CTL_EN 2) = false ∧ (onReg (R.PER_I2C_CTL 2) 0x80000000 live0).ctl.on (F.PER_I2C_CTL_EN 2) = true ∧ bit (0x80000402 : Word).toNat 31 = true ∧ wGet (0x80000402 : Word) 12 8 = 4 ∧ wGet (0x80000402 : Word) 4 0 = 2 ∧ tfind (withCtl live0 fun c => { c with i2c := [(2, 0x80000402)] }).ctl.i2c 2 = some 0x80000402 ∧ (withCtl live0 (Ctl.set F.TOP_BOOT_STAT_PHASE 5)).ctl.get F.TOP_BOOT_STAT_PHASE = 5 ∧ live0.ctl.on F.PER_QSPI_STAT_BUSY = false ∧ wGet (0x80000402 : Word) 29 28 < 3 ∧ wGet (0x80000402 : Word) 27 26 < 3 ∧ wGet (0x80000402 : Word) 16 8 ≤ 256 ∧ wGet (0xB0000000 : Word) 29 28 = 3 ∧ (withCtl live0 fun c => { c with qspi := some 0x80000402 }).ctl.qspi = some 0x80000402 ∧ live0.ctl.qspi = none := by decide +kernel

/-- What the statement asks for is met. -/
theorem wit_gpio :
    (onReg R.PER_GPIO_EDGE 0x00080000 live0).ctl.timed = true ∧ (onReg R.PER_GPIO_EDGE 0x00080000 live0).ctl.onBit F.PER_GPIO_EDGE_EN 3 = true ∧ live0.ctl.onBit F.PER_GPIO_OUT_OE 3 = false ∧ bit live0.ctl.gpioIn 3 ≠ true ∧ State.reset.ctl.timed = false ∧ live0.ctl.onBit F.PER_GPIO_EDGE_EN 3 = false := by decide +kernel

end Sys2Proof.Tests
end

section
/-! What SWITCH_RECORD_FORM does when the group's count lies past the scratchpad (R454, R25, R460; log entries 63, 67). -/

namespace Sys2Proof.Machine

/-- Group 32 pends a SWITCH record, and EVT_SWB_CFG places the region at the last 64 bytes of the scratchpad, so that its count is the
first word past the 4 MB. Both the notify ring and DEFAULT_TARGET, event 0 of the MTX page, are enabled. -/
def countPastSpad : State :=
  let c : Ctl := { State.reset.ctl with held := none, timing := true, ev := { State.reset.ctl.ev with swPend := [(32, (2, 1, 1, 3))] } }
  { State.reset with ctl := c.setRegs [(R.HDR_EVT_EN 0x04B, 1), (R.EVT_RING_CFG, 0x80000000), (R.EVT_SWB_CFG, 0x803FFFC0)] }

/-- The SWITCH record is due in that state, and no record waits for the notify ring. -/
theorem countPastSpad_due :
    countPastSpad.ctl.live = true ∧ countPastSpad.ctl.nextSwitch = some 32 ∧
      tget countPastSpad.ctl.ev.swPend 32 (0, 0, 0, 31) = (2, 1, 1, 3) ∧ countPastSpad.ctl.ev.waiting = [] := by
  decide +kernel

/-- The EVE's read of the count and its write of the sum both miss the scratchpad: each reaches the default target, whose event
forms a record of the MTX page that waits for the notify ring. -/
theorem switchRecordForm_countPastSpad_waiting :
    (switchRecordForm [] countPastSpad).ctl.ev.waiting.map (fun r => (r.typ, r.page, r.evBit)) = [(0, 0x04B, 0), (0, 0x04B, 0)] := by
  decide +kernel

/-- A completed SWITCH_RECORD_FORM out of reset leaves the records waiting that forming the record leaves. -/
theorem switchRecordForm_completes_waiting {fs : List ParityFault} {s : State} {p : State → Prop} (hl : s.ctl.live = true)
    (h : Completes (.switchRecordForm fs) s p) : ∃ t, p t ∧ t.ctl.ev.waiting = (switchRecordForm fs s).ctl.ev.waiting := by
  obtain ⟨t, ht, hp⟩ := h
  have hexec : exec (.switchRecordForm fs) s = runIf s.ctl.live (switchRecordForm fs) s := rfl
  rw [hexec, hl, runIf_true] at ht
  injection ht with ht
  exact ⟨t, hp, ht ▸ rfl⟩

/-- Refutes O56: its clause on SWITCH_RECORD_FORM says that the records waiting for the notify ring stay as they are, but a count past
the scratchpad reaches the default target, and the record of that event joins them while event 0 of the MTX page is enabled (R429, R460).
The statement grants the event itself, where `0x400000 < y + 2`, but not its record. -/
theorem not_eventBitsAndLouvres : ¬ Obligations.EventBitsAndLouvres := by
  unfold Obligations.EventBitsAndLouvres
  intro h
  obtain ⟨-, -, -, -, -, -, -, -, -, -, hform, -⟩ := h
  obtain ⟨hlive, hnext, hpend, hnone⟩ := countPastSpad_due
  obtain ⟨t, ⟨-, -, -, -, -, hkept, -⟩, hwaiting⟩ :=
    switchRecordForm_completes_waiting hlive (hform 32 2 1 1 3 countPastSpad hlive hnext hpend)
  have hempty : (switchRecordForm [] countPastSpad).ctl.ev.waiting = [] := by rw [← hwaiting, hkept, hnone]
  have hrecords := switchRecordForm_countPastSpad_waiting
  rw [hempty] at hrecords
  cases hrecords

end Sys2Proof.Machine
end

section
/-! What FRAME_BOUNDARY does when the table of sent frames is not in canonical form: it lists a lane in electrical idle twice (R20, R130,
Table 4.5; log entries 3, 4). -/

namespace Sys2Proof.Machine

/-- System timing runs, lane 0 is in electrical idle, and the table of sent frames lists lane 0 twice: its keys do not strictly rise, a
form to which `tput` and `tdel` never bring a canonical table (`twfFrom_none_tput`, `twfFrom_none_tdel`). -/
def idleLaneListedTwice : State :=
  { State.reset with
    ctl := { State.reset.ctl with held := none, timing := true, tx := [(0, { source := 3 })] }
    dp := { State.reset.dp with sent := [(0, aisFrame 0), (0, aisFrame 0)] } }

/-- System timing runs in that state, and lane 0 is in electrical idle. -/
theorem idleLaneListedTwice_timed_idle :
    idleLaneListedTwice.ctl.timed = true ∧ (idleLaneListedTwice.ctl.ltx 0).source = 3 := by
  decide

/-- The boundary removes one of the two frames of lane 0, and its table still lists the other. -/
theorem frameBoundary_idleLaneListedTwice_sent :
    (tfind (frameBoundary [] [] none [] 0 idleLaneListedTwice).dp.sent 0).isSome = true := by
  decide +kernel

/-- A completed FRAME_BOUNDARY while system timing runs leaves the data path that the boundary leaves. -/
theorem frameBoundary_completes_dp {w : List (Nat × Int)} {f : List ParityFault} {o : Option (Nat × List Nat)} {l : List (Nat × Nat)}
    {h : Nat} {s : State} {p : State → Prop} (ht : s.ctl.timed = true) (hc : Completes (.frameBoundary w f o l h) s p) :
    ∃ t, p t ∧ t.dp = (frameBoundary w f o l h s).dp := by
  obtain ⟨t, hexec, hp⟩ := hc
  have harm : exec (.frameBoundary w f o l h) s = runIf s.ctl.timed (frameBoundary w f o l h) s := rfl
  rw [harm, ht, runIf_true] at hexec
  injection hexec with ht'
  exact ⟨t, hp, ht' ▸ rfl⟩

/-- Refutes O26: its clause on electrical idle says that the boundary leaves no frame of such a lane in the table of sent frames. The
boundary takes one listing of the lane away (`tdel` counts on keys that strictly rise), and the statement is about every state, also one
whose table lists the lane twice: it does not ask for the canonical form of that table. -/
theorem not_frameBoundaryMovesTime : ¬ Obligations.FrameBoundaryMovesTime := by
  unfold Obligations.FrameBoundaryMovesTime
  intro h
  obtain ⟨htimed, hidle⟩ := idleLaneListedTwice_timed_idle
  obtain ⟨t, ⟨-, -, -, -, -, -, -, -, -, -, -, -, -, -, -, -, hlanes⟩, hdp⟩ :=
    frameBoundary_completes_dp htimed (h [] [] none [] 0 idleLaneListedTwice htimed)
  obtain ⟨hnone, -, -⟩ := hlanes 0 (by decide)
  have hlisted := frameBoundary_idleLaneListedTwice_sent
  rw [← hdp, hnone hidle] at hlisted
  cases hlisted

end Sys2Proof.Machine
end

section
/-! The check byte of an APS message: the CRC-8 that the model computes on numbers is the one on a register of 8 bits, and byte 7 of every
message sent or received carries it (R94, R97, R98). -/

namespace Sys2Proof.Machine

/-- The top bit of a byte, as a number. -/
theorem toNat_shiftRight_seven_mod_two (r : Byte) : (r.toNat >>> 7) % 2 = r.msb.toNat := by
  rw [BitVec.msb_eq_getLsbD_last, BitVec.getLsbD, Nat.toNat_testBit, Nat.shiftRight_eq_div_pow]

/-- One bit step of the CRC of 8 bits, on numbers, is the step of the 8-bit register. -/
theorem crcBit_eight_toNat (r : Byte) (b : Bool) : crcBit 8 0x07 r.toNat b.toNat = (crc8Bit r b).toNat := by
  have hshift : r.toNat * 2 % 2 ^ 8 = (r <<< 1).toNat := by
    rw [BitVec.toNat_shiftLeft, Nat.shiftLeft_eq, Nat.pow_one]
  have hodd : ((r.toNat >>> 7) % 2 + b.toNat) % 2 = 1 ↔ (r.msb != b) = true := by
    rw [toNat_shiftRight_seven_mod_two]
    cases r.msb <;> cases b <;> decide
  unfold crcBit crc8Bit
  simp only [hshift, hodd]
  split
  · exact (BitVec.toNat_xor (r <<< 1) 0x07).symm
  · rfl

/-- One byte of the CRC of 8 bits, on numbers, is its eight bits entering the register, the most significant first. -/
theorem crcByte_eight_toNat (r b : Byte) :
    crcByte 8 0x07 r.toNat b.toNat = ([7, 6, 5, 4, 3, 2, 1, 0].foldl (fun r i => crc8Bit r (b.getLsbD i)) r).toNat := by
  refine List.foldl_hom BitVec.toNat fun x i => ?_
  rw [← crcBit_eight_toNat, BitVec.getLsbD, Nat.toNat_testBit, Nat.shiftRight_eq_div_pow]

/-- The model's CRC-8 is the CRC-8 of R97. -/
theorem crc8_eq_toNat_crc8Of (l : List Byte) : crc8 l = (crc8Of l).toNat := by
  unfold crc8 crc8Of
  exact List.foldl_hom (init := (0xFF : Byte)) BitVec.toNat crcByte_eight_toNat

/-- The byte that the model's CRC-8 is written to is the CRC-8 of R97. -/
theorem ofNat_crc8 (l : List Byte) : BitVec.ofNat 8 (crc8 l) = crc8Of l := by
  rw [crc8_eq_toNat_crc8Of, BitVec.ofNat_toNat, BitVec.setWidth_eq]

/-- An encoded message is seven bytes, then the CRC-8 of those. -/
theorem apsEncode_eq_append_crc8Of (m : ApsMsg) (q : Nat) : ∃ h, h.length = 7 ∧ apsEncode m q = h ++ [crc8Of h] := by
  have heq : apsEncode m q = _ ++ [crc8Of _] := congrArg (_ ++ [·]) (ofNat_crc8 _)
  exact ⟨_, by simp, heq⟩

/-- One byte read as a number. -/
theorem beAt_one_of_lt {l : List Byte} {i : Nat} (h : i < l.length) : beAt l i 1 = l[i].toNat := by
  have hnone : 1 - (l.length - i) = 0 := by omega
  have hone : slice l i 1 = [l[i]] := by
    rw [slice, List.length_drop, hnone, List.drop_eq_getElem_cons h, List.take_succ_cons, List.take_zero, List.replicate_zero,
      List.append_nil]
  rw [beAt, hone, beNat, List.foldl_cons, List.foldl_nil, Nat.zero_mul, Nat.zero_add]

/-- A message that passes has 8 bytes, and the last is the CRC-8 of the others. -/
theorem drop_seven_of_apsDecode {l : List Byte} {m : ApsMsg} (h : apsDecode l = some m) : l.drop 7 = [crc8Of (l.take 7)] := by
  simp only [apsDecode] at h
  split at h
  case isFalse => cases h
  case isTrue hpass =>
    obtain ⟨hlen, hcrc, -⟩ := hpass
    have h7 : 7 < l.length := by omega
    rw [crc8_eq_toNat_crc8Of, beAt_one_of_lt h7] at hcrc
    rw [BitVec.eq_of_toNat_eq hcrc, List.drop_eq_getElem_cons h7, List.drop_of_length_le (Nat.le_of_eq hlen)]

/-- A zero bit never brings a register that is not zero to zero, as the generator has a constant term (R97). -/
theorem crc8Bit_false_ne_zero {r : Byte} (h : r ≠ 0) : crc8Bit r false ≠ 0 := by
  revert r
  decide

/-- Zero bytes never have a CRC-8 of zero, as the register does not start at zero (R97). -/
theorem crc8Of_replicate_zero_ne_zero (n : Nat) : crc8Of (List.replicate n 0) ≠ 0 := by
  refine List.foldlRecOn (motive := (· ≠ 0)) _ _ (by decide) fun r hr b hb => ?_
  rw [List.eq_of_mem_replicate hb]
  refine List.foldlRecOn (motive := (· ≠ 0)) _ _ hr fun r hr i _ => ?_
  rw [BitVec.ofNat_eq_ofNat, BitVec.getLsbD_zero]
  exact crc8Bit_false_ne_zero hr

/-- Settles O4: the model's CRC-8 is that of R97, byte 7 is made and judged by it, and zero bytes never have a CRC-8 of zero. -/
theorem messageCheckByte : Obligations.MessageCheckByte := by
  unfold Obligations.MessageCheckByte
  refine ⟨fun m q => ?_, fun l m => drop_seven_of_apsDecode, ?_⟩
  · obtain ⟨h, hlen, heq⟩ := apsEncode_eq_append_crc8Of m q
    rw [heq, List.drop_left' hlen, List.take_left' hlen]
  · refine Option.eq_none_iff_forall_ne_some.mpr fun m hm => ?_
    have hzero : ([0] : List Byte) = [crc8Of (List.replicate 7 0)] := drop_seven_of_apsDecode hm
    exact crc8Of_replicate_zero_ne_zero 7 (List.singleton_inj.mp hzero).symm

end Sys2Proof.Machine
end
